-- ==== Sys2Proof/Word.lean ====
section
/-! DEFINITION. The word types of the EN9240 and the numbers that name its parts (00 R2, R4, R5; 01 R14). -/

namespace Sys2Proof

/-- A byte of memory. -/
abbrev Byte := BitVec 8
/-- A 32-bit word: scalar registers, one lane of a lane register (R4). -/
abbrev Word := BitVec 32
/-- A 64-bit value: pairs (R2), addresses. -/
abbrev DWord := BitVec 64
/-- One bit for each lane of a cord, lane L in bit L (R5). -/
abbrev Mask := BitVec 96
/-- A scalar register number (R4). -/
abbrev Reg := BitVec 6
/-- A lane register number (R4). -/
abbrev VReg := BitVec 8
/-- One lane register: 96 lanes (R5). -/
abbrev LaneVec := Vector Word 96
/-- A compute die of the package (R14). -/
abbrev DieId := BitVec 2
/-- A quadrant of the package: 4 x die + quadrant (R14). -/
abbrev QuadId := BitVec 4
/-- A cluster of the package: 16 x die + cluster (R14). -/
abbrev ClusterId := BitVec 6
/-- A core of the package: 4 x cluster + core (R14). -/
abbrev CoreId := BitVec 8
/-- A partition of the package: 4 x core + partition (R14). -/
abbrev PartId := BitVec 10
/-- A package number in the pod (R15). -/
abbrev PkgNo := BitVec 7
/-- A PASID (R160). -/
abbrev Pasid := BitVec 20
/-- A queue number, 0 the admin queue (R258). -/
abbrev QueueNo := BitVec 14
/-- A host core, 0 to 95 (R10). -/
abbrev HostNo := Fin 96
/-- A granule frame number (R228). -/
abbrev Gfn := BitVec 36
/-- A 64-byte admin command, byte 0 in bits 7..0 (R262). -/
abbrev AdminCmd := BitVec 512

/-- A cord slot of a core, or that core's handler slot (R50, R181). -/
structure CordId where
  core : CoreId
  slot : BitVec 6
  handler : Bool
  deriving DecidableEq, Repr

/-- A stand: its launch and its level-0 group number (R20, R45). -/
structure StandKey where
  queue : QueueNo
  seq : Nat
  num : Nat
  deriving DecidableEq, Repr

/-- The die of a cluster. -/
def ClusterId.die (c : ClusterId) : DieId := c.extractLsb' 4 2
/-- The cluster of a core. -/
def CoreId.cluster (c : CoreId) : ClusterId := c.extractLsb' 2 6
/-- The die of a core. -/
def CoreId.die (c : CoreId) : DieId := c.extractLsb' 6 2
/-- The core of a partition. -/
def PartId.core (p : PartId) : CoreId := p.extractLsb' 2 8
/-- The partition a cord slot lies in (R50: slots 16p to 16p + 15 of partition p). -/
def CordId.part (c : CordId) : PartId := c.core ++ (c.slot.extractLsb' 4 2)
/-- The quadrant that serves a cluster (R214: quadrant = cluster div 4). -/
def ClusterId.quad (c : ClusterId) : QuadId := c.extractLsb' 2 4

/-- The low word of a 64-bit value. -/
def DWord.lo (d : DWord) : Word := d.extractLsb' 0 32
/-- The high word of a 64-bit value. -/
def DWord.hi (d : DWord) : Word := d.extractLsb' 32 32
/-- A bit of a truth value. -/
def bit (b : Bool) : Word := if b then 1 else 0
/-- Bits [lo + n - 1 : lo] of a word as a number. -/
def fieldNat {w : Nat} (x : BitVec w) (lo n : Nat) : Nat := (x.toNat >>> lo) % 2 ^ n

end Sys2Proof
end

