-- ==== Sys2Proof/Syntax.lean ====
section
/-! DEFINITION. The steps of the EN9240: every scalar word, host-core word, lane operation and event of the opcode table. -/

namespace Sys2Proof

/-- The type codes of fn6[5:3] (R286). -/
inductive LaneTy where
  | i32 | n32 | f32 | f16x2 | bf16x2 | i16x2 | n16x2 | i64
  deriving DecidableEq, Repr

/-- The variant codes of fn6[2:0] (R74); alt6 and alt7 are the instruction-specific codes 0b110 and 0b111. -/
inductive Variant where
  | base | x | sat | rz | ru | rd | alt6 | alt7
  deriving DecidableEq, Repr

/-- The fields of one lane operation in the single form (R285); compact marks an operation of a pair word (R287). -/
structure LaneOp where
  vd : VReg
  va : VReg
  vb : VReg
  vc : VReg
  pneg : Bool
  pidx : BitVec 3
  la : BitVec 4
  ss : Reg
  ty : LaneTy
  var : Variant
  imm : Word
  compact : Bool
  deriving DecidableEq, Repr

/-- The compact set (R289). -/
inductive CompactKind where
  | vadd | vsub | vmul | vand | vor | vxor | vshl | vshr | vsar | vmin | vmax
  | vsel | vmov | vcmp | vfadd | vfsub | vfmul | vfma | vfmin | vfmax | vld | vst | vshfl
  deriving DecidableEq, Repr

/-- One operation of a pair word (R287). -/
structure CompactOp where
  kind : CompactKind
  vd : VReg
  va : VReg
  vb : VReg
  pneg : Bool
  pidx : BitVec 3
  la : BitVec 4
  ty : LaneTy
  var : Variant
  deriving DecidableEq, Repr

/-- What ECC found at the access that a reply completes (R173): good data, data a retry corrected, or data no retry corrects. -/
inductive Ecc where
  | ok | corrected | failed
  deriving DecidableEq, Repr

/-- A page request by its die, PASID, 4 KiB page and Write flag (R165). -/
structure PageRef where
  die : DieId
  pasid : Pasid
  page : Nat
  write : Bool
  deriving DecidableEq, Repr

/-- The way a flit came in: a node link or a rotor fibre (R233, R243). -/
inductive Port where
  | link (k : BitVec 2)
  | fibre (w : BitVec 7)
  deriving DecidableEq, Repr

/-- A request header with its payload (R238, R240). -/
structure Req where
  src : PkgNo
  dst : PkgNo
  tag : BitVec 14
  size : BitVec 3
  scope : BitVec 3
  rly : Bool
  fn : BitVec 4
  pasid : Pasid
  addr : BitVec 57
  payload : List Byte
  deriving DecidableEq, Repr

/-- A response header with its payload (R238). -/
structure Resp where
  src : PkgNo
  dst : PkgNo
  tag : BitVec 14
  size : BitVec 3
  payload : List Byte
  deriving DecidableEq, Repr

/-- A NEG control message (R237) and the package that sent its flit. -/
structure NegMsg where
  src : PkgNo
  requester : PkgNo
  tag : BitVec 14
  code : BitVec 8
  sub : BitVec 8
  deriving DecidableEq, Repr

/-- A REDIR control message (R237). -/
structure RedirMsg where
  requester : PkgNo
  owner : PkgNo
  gfn : Gfn
  gen : BitVec 22
  deriving DecidableEq, Repr

/-- A bank of an LLC slice: die 0 to 3 or 4 for the host die, slice, bank (R118). -/
structure SliceBank where
  die : Nat
  slice : Nat
  bank : Nat
  deriving DecidableEq, Repr

/-- The classes of counted events (R266). -/
inductive ErrClass where
  | soft (storage : Nat) | link (port : Port) | retire | mark | retrain | fibreFail
  deriving DecidableEq, Repr

/-- The admin queue's rings as the mailbox sets them (R258). -/
structure AdminRings where
  ring : Nat
  q : Nat
  comp : Nat
  c : Nat
  vector : Option Nat
  deriving DecidableEq, Repr

/-- A word no encoding assigns (R291); for a pair word, whether X, Y or both are at fault (R292). -/
inductive IllegalWord where
  | scalar (w : BitVec 32)
  | lane (w : BitVec 96)
  | pair (w : BitVec 96) (x y : Bool)
  deriving DecidableEq, Repr

/-- A register of BAR 2 that the host reads (R257, R264, R266 to R268, R271): 64 pending bits of MSI-X, a field of its table, a counter of a partition's histogram or stalls, the error counter
of a class, the samples dropped, and what the firmware mailbox reports. -/
inductive BarReg where
  | msixPending (k : BitVec 5)
  | msixAddr (v : BitVec 11)
  | msixData (v : BitVec 11)
  | hist (p : PartId) (n : BitVec 5)
  | stall (p : PartId) (n : BitVec 4)
  | errors (cls : ErrClass)
  | dropped
  | mailbox
  deriving DecidableEq, Repr

/-- What a host core does to the package other than a custom-0 word: plain accesses by physical address, with their kind, size and operands, and fences (R131); accesses that have no
transactional form, instructions that R154 names, the core's own exceptions, and the effects of its other instructions on its registers, CSRs and pc (R11, R154, R155); the setting of the
IOMMU's device directory and an IOFENCE.C (R160, R162); and accesses of the endpoint's BARs: a kick page at its offset in BAR 0, a vector of the MSI-X table, and the registers of BAR 2 that are read (R257, R258). -/
inductive HostAccess where
  | load (h : HostNo) (rd : BitVec 5) (pa size : Nat)
  | store (h : HostNo) (pa size : Nat) (v : DWord)
  | atomic (h : HostNo) (rd : BitVec 5) (fn : BitVec 4) (pa size : Nat) (v new : DWord) (aq rl : Bool)
  | fence (h : HostNo) (pred succ : BitVec 4)
  | uncached (h : HostNo) (pa : Nat)
  | unsupported (h : HostNo)
  | exception (h : HostNo) (cause : Nat) (value : DWord)
  | writeReg (h : HostNo) (file : BitVec 2) (r : BitVec 5) (v : BitVec 256)
  | jump (h : HostNo) (pc : DWord)
  | writeCsr (h : HostNo) (n : BitVec 12) (v : DWord)
  | iommu (h : HostNo) (ddtp : DWord) (dev : BitVec 24)
  | iofence (h : HostNo)
  | kickLoad (h : HostNo) (rd : BitVec 5) (off : BitVec 26)
  | kickStore (h : HostNo) (off : BitVec 26) (v : Word)
  | msix (h : HostNo) (vector : BitVec 11) (addr : DWord) (data : Word) (masked : Bool)
  | barLoad (h : HostNo) (rd : BitVec 5) (r : BarReg)
  deriving DecidableEq, Repr

/-- One step of the machine: a word that a stream executes or an event of the opcode table. The order of the constructors says nothing. -/
inductive Instr where
  /-- ADD (R300): Adds two scalar registers modulo 2^32. -/
  | add (d : BitVec 6) (a : BitVec 6) (b : BitVec 6)
  /-- ADD_IMM (R300): Adds a sign-extended 14-bit immediate to a scalar register. -/
  | addImm (d : BitVec 6) (a : BitVec 6) (i : BitVec 14)
  /-- SUB (R326): Subtracts two scalar registers modulo 2^32. -/
  | sub (d : BitVec 6) (a : BitVec 6) (b : BitVec 6)
  /-- AND (R300): Bitwise AND of two scalar registers. -/
  | and (d : BitVec 6) (a : BitVec 6) (b : BitVec 6)
  /-- AND_IMM (R300): Bitwise AND with a zero-extended immediate. -/
  | andImm (d : BitVec 6) (a : BitVec 6) (i : BitVec 14)
  /-- OR (R326): Bitwise OR of two scalar registers. -/
  | or (d : BitVec 6) (a : BitVec 6) (b : BitVec 6)
  /-- OR_IMM (R326): Bitwise OR with a zero-extended immediate. -/
  | orImm (d : BitVec 6) (a : BitVec 6) (i : BitVec 14)
  /-- XOR (R389): Bitwise exclusive OR of two scalar registers. -/
  | xor (d : BitVec 6) (a : BitVec 6) (b : BitVec 6)
  /-- XOR_IMM (R389): Bitwise exclusive OR with a zero-extended immediate. -/
  | xorImm (d : BitVec 6) (a : BitVec 6) (i : BitVec 14)
  /-- SHL (R326): Shifts left by a register count. -/
  | shl (d : BitVec 6) (a : BitVec 6) (b : BitVec 6)
  /-- SHL_IMM (R326): Shifts left by an immediate count. -/
  | shlImm (d : BitVec 6) (a : BitVec 6) (s : BitVec 5)
  /-- SHR (R326): Logical shift right by a register count. -/
  | shr (d : BitVec 6) (a : BitVec 6) (b : BitVec 6)
  /-- SHR_IMM (R326): Logical shift right by an immediate count. -/
  | shrImm (d : BitVec 6) (a : BitVec 6) (s : BitVec 5)
  /-- SAR (R326): Arithmetic shift right by a register count. -/
  | sar (d : BitVec 6) (a : BitVec 6) (b : BitVec 6)
  /-- SAR_IMM (R326): Arithmetic shift right by an immediate count. -/
  | sarImm (d : BitVec 6) (a : BitVec 6) (s : BitVec 5)
  /-- MIN (R326): Signed minimum of two scalar registers. -/
  | min (d : BitVec 6) (a : BitVec 6) (b : BitVec 6)
  /-- MAX (R326): Signed maximum of two scalar registers. -/
  | max (d : BitVec 6) (a : BitVec 6) (b : BitVec 6)
  /-- MINN (R326): Unsigned minimum of two scalar registers. -/
  | minn (d : BitVec 6) (a : BitVec 6) (b : BitVec 6)
  /-- MAXN (R326): Unsigned maximum of two scalar registers. -/
  | maxn (d : BitVec 6) (a : BitVec 6) (b : BitVec 6)
  /-- SLT (R326): Sets 1 when a register is less than another, signed. -/
  | slt (d : BitVec 6) (a : BitVec 6) (b : BitVec 6)
  /-- SLT_IMM (R326): Signed less-than against a sign-extended immediate. -/
  | sltImm (d : BitVec 6) (a : BitVec 6) (i : BitVec 14)
  /-- SLTN (R326): Sets 1 when a register is less than another, unsigned. -/
  | sltn (d : BitVec 6) (a : BitVec 6) (b : BitVec 6)
  /-- SLTN_IMM (R326): Unsigned less-than against a sign-extended immediate. -/
  | sltnImm (d : BitVec 6) (a : BitVec 6) (i : BitVec 14)
  /-- SEQ (R326): Sets 1 when two registers are equal. -/
  | seq (d : BitVec 6) (a : BitVec 6) (b : BitVec 6)
  /-- SEQ_IMM (R326): Sets 1 when a register equals a sign-extended immediate. -/
  | seqImm (d : BitVec 6) (a : BitVec 6) (i : BitVec 14)
  /-- SEL (R326): Selects sa or sb by whether sd is nonzero. -/
  | sel (d : BitVec 6) (a : BitVec 6) (b : BitVec 6)
  /-- MUL (R330): Low 32 bits of a scalar product, long-latency. -/
  | mul (d : BitVec 6) (a : BitVec 6) (b : BitVec 6) (l : BitVec 4)
  /-- MULH (R330): High 32 bits of the signed product. -/
  | mulh (d : BitVec 6) (a : BitVec 6) (b : BitVec 6) (l : BitVec 4)
  /-- MULHN (R330): High 32 bits of the unsigned product. -/
  | mulhn (d : BitVec 6) (a : BitVec 6) (b : BitVec 6) (l : BitVec 4)
  /-- CLZ (R312): Counts leading zeros of a scalar register. -/
  | clz (d : BitVec 6) (a : BitVec 6)
  /-- POPC (R334): Counts set bits of a scalar register. -/
  | popc (d : BitVec 6) (a : BitVec 6)
  /-- DADD (R314): Adds two 64-bit register pairs. -/
  | dadd (d : BitVec 6) (a : BitVec 6) (b : BitVec 6)
  /-- DSUB (R314): Subtracts two 64-bit register pairs. -/
  | dsub (d : BitVec 6) (a : BitVec 6) (b : BitVec 6)
  /-- BFX (R307): Extracts a bit field of a scalar register. -/
  | bfx (d : BitVec 6) (a : BitVec 6) (p : BitVec 5) (n : BitVec 5)
  /-- BFI (R307): Inserts a bit field into a scalar register. -/
  | bfi (d : BitVec 6) (a : BitVec 6) (p : BitVec 5) (n : BitVec 5)
  /-- LI (R322): Loads a sign-extended 20-bit immediate. -/
  | li (d : BitVec 6) (i : BitVec 20)
  /-- LIH (R322): Loads a 20-bit immediate into bits 31:12. -/
  | lih (d : BitVec 6) (i : BitVec 20)
  /-- LDW (R321): Loads a 32-bit word into a scalar register. -/
  | ldw (d : BitVec 6) (a : BitVec 6) (o : BitVec 10) (l : BitVec 4)
  /-- LDD (R321): Loads a 64-bit value into a scalar pair. -/
  | ldd (d : BitVec 6) (a : BitVec 6) (o : BitVec 10) (l : BitVec 4)
  /-- STW (R340): Stores a scalar word, or retires it into the fault-deferral log. -/
  | stw (d : BitVec 6) (a : BitVec 6) (o : BitVec 10) (l : BitVec 4)
  /-- STD (R340): Stores a scalar pair, or retires it into the fault-deferral log. -/
  | std (d : BitVec 6) (a : BitVec 6) (o : BitVec 10) (l : BitVec 4)
  /-- STN (R341): Scalar notify-store: writes a word then increments a flag. -/
  | stn (d : BitVec 6) (a : BitVec 6) (o : BitVec 10) (l : BitVec 4)
  /-- ATOM_CLU (R302): Scalar atomic read-modify-write at cluster scope. -/
  | atomClu (d : BitVec 6) (a : BitVec 6) (b : BitVec 6) (f : BitVec 4) (l : BitVec 4)
  /-- ATOM_DIE (R302): Scalar atomic read-modify-write at die scope. -/
  | atomDie (d : BitVec 6) (a : BitVec 6) (b : BitVec 6) (f : BitVec 4) (l : BitVec 4)
  /-- ATOM_PKG (R302): Scalar atomic read-modify-write at package scope. -/
  | atomPkg (d : BitVec 6) (a : BitVec 6) (b : BitVec 6) (f : BitVec 4) (l : BitVec 4)
  /-- ATOM_NODE (R302): Scalar atomic read-modify-write at node scope. -/
  | atomNode (d : BitVec 6) (a : BitVec 6) (b : BitVec 6) (f : BitVec 4) (l : BitVec 4)
  /-- ATOM_POD (R302): Scalar atomic read-modify-write at pod scope. -/
  | atomPod (d : BitVec 6) (a : BitVec 6) (b : BitVec 6) (f : BitVec 4) (l : BitVec 4)
  /-- B (R303): Unconditional branch by a word displacement. -/
  | b (d : BitVec 26)
  /-- CALL (R309): Branches and writes the link into d29. -/
  | call (d : BitVec 26)
  /-- BC (R305): Branches on the sign or zeroness of a scalar register. -/
  | bc (a : BitVec 6) (c : BitVec 4) (d : BitVec 16)
  /-- BD (R31): Divergent branch on a lane predicate that may split the fragment. -/
  | bd (p : BitVec 3) (n : BitVec 1) (d : BitVec 11) (j : BitVec 11)
  /-- BX (R308): Branches to a register target. -/
  | bx (a : BitVec 6)
  /-- CALLR (R310): Branches to a register target and writes the link. -/
  | callr (a : BitVec 6)
  /-- FENCE_ACQ (R127): Acquire fence at a named scope. -/
  | fenceAcq (s : BitVec 6)
  /-- FENCE_REL (R127): Release fence at a named scope. -/
  | fenceRel (s : BitVec 6)
  /-- FENCE_FULL (R127): Full fence at a named scope. -/
  | fenceFull (s : BitVec 6)
  /-- BARI (R205): Initialises a scratch barrier. -/
  | bari (a : BitVec 6) (b : BitVec 6)
  /-- ARV (R205): Releases at a scope and arrives on a barrier. -/
  | arv (c : BitVec 6) (a : BitVec 6) (b : BitVec 6)
  /-- WAITB (R205): Waits for a barrier phase change, then acquires. -/
  | waitb (c : BitVec 6) (a : BitVec 6) (b : BitVec 6)
  /-- WPATH (R114): Waits until a path counter falls to a threshold. -/
  | wpath (n : BitVec 6) (b : BitVec 6)
  /-- RNGW (R110): Waits until a ring holds a wanted number of records. -/
  | rngw (d : BitVec 6) (a : BitVec 6) (b : BitVec 6)
  /-- LOT (R197): Closes the cord's matrix operations into a lot. -/
  | lot (d : BitVec 6)
  /-- WLOT (R197): Waits for a lot and all earlier lots, then acquires. -/
  | wlot (a : BitVec 6)
  /-- MFS (R327): Copies a special register into a scalar register. -/
  | mfs (d : BitVec 6) (r : BitVec 6)
  /-- MTS (R327): Copies a scalar register into a writable special register. -/
  | mts (a : BitVec 6) (r : BitVec 6)
  /-- LQ (R27): Enqueues a lane block on the fragment's lane queue. -/
  | lq (a : BitVec 6) (b : BitVec 6)
  /-- GJOIN (R105): Joins the stand to a grove by key. -/
  | gjoin (d : BitVec 6) (a : BitVec 6)
  /-- GLEAVE (R106): Removes the stand from its grove. -/
  | gleave (d : BitVec 6)
  /-- SNDM (R111): Sends a 16-byte message to a ring. -/
  | sndm (a : BitVec 6) (b : BitVec 6)
  /-- PGMV (R333): Requests migration of the granule holding an address. -/
  | pgmv (c : BitVec 6) (a : BitVec 6) (b : BitVec 6) (l : BitVec 4)
  /-- TXB (R147): Begins a cord transaction without fallback. -/
  | txb (d : BitVec 6) (a : BitVec 6) (n : BitVec 4)
  /-- TXB_F (R147): Begins a cord transaction with the fallback path enabled. -/
  | txbF (d : BitVec 6) (a : BitVec 6) (n : BitVec 4)
  /-- TXA (R150): Dooms the fragment's transactional lanes with EXPLICIT. -/
  | txa (c : BitVec 6)
  /-- TXST (R146): Waits for transactional accesses and reads %txstatus. -/
  | txst (d : BitVec 6)
  /-- XRD (R391): Supervisor reads a register of a cord. -/
  | xrd (d : BitVec 6) (a : BitVec 6) (b : BitVec 6)
  /-- XWR (R391): Supervisor writes a register of a cord. -/
  | xwr (v : BitVec 6) (a : BitVec 6) (b : BitVec 6)
  /-- XRES (R392): Supervisor resumes a cord or terminates its launch. -/
  | xres (a : BitVec 6) (b : BitVec 6)
  /-- MMA (R191): Matrix product accumulated into a tile. -/
  | mma (a : BitVec 6) (n : BitVec 4) (x : BitVec 4) (y : BitVec 4) (k : BitVec 4) (l : BitVec 4)
  /-- MMAX (R192): Matrix product taking A from a tile through the down-converter. -/
  | mmax (a : BitVec 6) (n : BitVec 4) (x : BitVec 4) (y : BitVec 4) (l : BitVec 4)
  /-- MMLUT (R193): Matrix product with table-lookup weights. -/
  | mmlut (a : BitVec 6) (n : BitVec 4) (x : BitVec 4) (y : BitVec 4) (k : BitVec 4) (l : BitVec 4)
  /-- MMZ (R194): Zeroes a tile. -/
  | mmz (n : BitVec 4) (l : BitVec 4)
  /-- MMLD (R194): Loads a tile from scratch. -/
  | mmld (a : BitVec 6) (n : BitVec 4) (l : BitVec 4)
  /-- MMST (R194): Stores a tile to scratch, down-converting without ReLU. -/
  | mmst (a : BitVec 6) (n : BitVec 4) (f : BitVec 4) (l : BitVec 4)
  /-- MMST_RELU (R194): Stores a tile to scratch, down-converting with ReLU. -/
  | mmstRelu (a : BitVec 6) (n : BitVec 4) (f : BitVec 4) (l : BitVec 4)
  /-- CPY (R201): Contributes one slice to a collective copy. -/
  | cpy (a : BitVec 6) (s : BitVec 3) (l : BitVec 4)
  /-- LMTST (R202): Tests a word of a landing map. -/
  | lmtst (a : BitVec 6) (w : BitVec 3) (l : BitVec 4)
  /-- LMWT (R202): Waits for landing-map bits, then acquires at cluster scope. -/
  | lmwt (a : BitVec 6) (w : BitVec 3)
  /-- LMCLR (R202): Clears bits of a landing map. -/
  | lmclr (a : BitVec 6) (w : BitVec 3)
  /-- GTH (R208): Gathers table elements into scratch. -/
  | gth (a : BitVec 6) (s : BitVec 3) (i : BitVec 1) (l : BitVec 4)
  /-- SCT (R209): Scatters elements from scratch into a global table. -/
  | sct (a : BitVec 6) (c : BitVec 2) (s : BitVec 3) (i : BitVec 1) (l : BitVec 4)
  /-- RDXT (R213): Contributes to a reduction slot by index tree. -/
  | rdxt (a : BitVec 6) (s : BitVec 3) (l : BitVec 4)
  /-- RDXA (R213): Contributes to a reduction slot in arrival order. -/
  | rdxa (a : BitVec 6) (s : BitVec 3) (l : BitVec 4)
  /-- NBCFG (R217): Configures a neighbour grid descriptor. -/
  | nbcfg (a : BitVec 6) (r : BitVec 1) (s : BitVec 3) (l : BitVec 4)
  /-- NBIN (R219): Commands a grid rebin. -/
  | nbin (a : BitVec 6) (r : BitVec 1) (s : BitVec 3) (l : BitVec 4)
  /-- NPAIR_H (R221): Commands half-list pair streaming into a ring. -/
  | npairH (a : BitVec 6) (r : BitVec 1) (s : BitVec 3) (l : BitVec 4)
  /-- NPAIR_F (R221): Commands full-list pair streaming into a ring. -/
  | npairF (a : BitVec 6) (r : BitVec 1) (s : BitVec 3) (l : BitVec 4)
  /-- NCHK (R220): Commands a displacement check of the grid. -/
  | nchk (a : BitVec 6) (r : BitVec 1) (s : BitVec 3) (l : BitVec 4)
  /-- NBST (R216): Reads a grid's STATE and MAXD2 behind the engine's queue. -/
  | nbst (a : BitVec 6) (s : BitVec 3) (l : BitVec 4)
  /-- CBIN_K (R225): Commands class binning by key. -/
  | cbinK (a : BitVec 6) (r : BitVec 1) (s : BitVec 3) (l : BitVec 4)
  /-- CBIN_L (R225): Commands class binning by row length. -/
  | cbinL (a : BitVec 6) (r : BitVec 1) (s : BitVec 3) (l : BitVec 4)
  /-- HTXB (R156): Starts a host transaction with a fallback target. -/
  | htxb (i : BitVec 12) (d : BitVec 5)
  /-- HTXB_F (R156): Takes the fallback lock and runs plainly until HTXC. -/
  | htxbF (d : BitVec 5)
  /-- HTXA (R319): Aborts the host transaction with EXPLICIT and a code. -/
  | htxa (c : BitVec 6)
  /-- HTXS (R319): Reads the host transaction status word. -/
  | htxs (d : BitVec 5)
  /-- PAIR_WORD (R57): Issues two compact lane operations together as one pair word. -/
  | pairWord (x y : CompactOp)
  /-- VABS (R348): Lane absolute value. -/
  | vabs (o : LaneOp)
  /-- VADD (R348): Lane integer add. -/
  | vadd (o : LaneOp)
  /-- VAND (R348): Lane bitwise AND. -/
  | vand (o : LaneOp)
  /-- VCLZ (R348): Lane count of leading zeros. -/
  | vclz (o : LaneOp)
  /-- VBFX (R349): Lane bit-field extract. -/
  | vbfx (o : LaneOp)
  /-- VCMP (R350): Lane signed compare into a predicate. -/
  | vcmp (o : LaneOp)
  /-- VCMPN (R350): Lane unsigned compare into a predicate. -/
  | vcmpn (o : LaneOp)
  /-- VFADD (R351): Lane floating-point add. -/
  | vfadd (o : LaneOp)
  /-- VFSUB (R351): Lane floating-point subtract. -/
  | vfsub (o : LaneOp)
  /-- VFMUL (R351): Lane floating-point multiply. -/
  | vfmul (o : LaneOp)
  /-- VFMA (R351): Lane fused multiply-add. -/
  | vfma (o : LaneOp)
  /-- VHFMA (R352): FP16 pair dot product accumulated into FP32. -/
  | vhfma (o : LaneOp)
  /-- VBFMA (R352): BF16 pair dot product accumulated into FP32. -/
  | vbfma (o : LaneOp)
  /-- VFMIN (R353): Lane floating-point minimum. -/
  | vfmin (o : LaneOp)
  /-- VFMAX (R353): Lane floating-point maximum. -/
  | vfmax (o : LaneOp)
  /-- VFSGN (R353): Lane sign injection. -/
  | vfsgn (o : LaneOp)
  /-- VFCLS (R354): Lane floating-point class mask. -/
  | vfcls (o : LaneOp)
  /-- VFCMP (R355): Lane FP32 compare into a predicate. -/
  | vfcmp (o : LaneOp)
  /-- VCVT (R357): Lane element format conversion. -/
  | vcvt (o : LaneOp)
  /-- VCVTS (R358): Lane conversion after exact power-of-two scaling. -/
  | vcvts (o : LaneOp)
  /-- VCRSC (R359): CORDIC sine and cosine. -/
  | vcrsc (o : LaneOp)
  /-- VCRAT (R359): CORDIC two-argument arctangent. -/
  | vcrat (o : LaneOp)
  /-- VCRHY (R359): CORDIC hyperbolic sine and cosine. -/
  | vcrhy (o : LaneOp)
  /-- VCREX (R359): CORDIC power of two. -/
  | vcrex (o : LaneOp)
  /-- VCRLG (R359): CORDIC base-2 logarithm. -/
  | vcrlg (o : LaneOp)
  /-- VCRSQ (R359): CORDIC square root. -/
  | vcrsq (o : LaneOp)
  /-- VCRRS (R359): CORDIC reciprocal square root. -/
  | vcrrs (o : LaneOp)
  /-- VCRDV (R359): CORDIC division. -/
  | vcrdv (o : LaneOp)
  /-- VCRTH (R359): CORDIC hyperbolic tangent. -/
  | vcrth (o : LaneOp)
  /-- VLD (R363): Lane plain load. -/
  | vld (o : LaneOp)
  /-- VLDC (R363): Lane contiguous scratch load. -/
  | vldc (o : LaneOp)
  /-- VLDM (R363): Lane read-mostly load whose reads may be absorbed. -/
  | vldm (o : LaneOp)
  /-- VATOM (R364): Lane atomic read-modify-write. -/
  | vatom (o : LaneOp)
  /-- VATOM_NTF (R365): Lane atomic update followed by flag increments. -/
  | vatomNtf (o : LaneOp)
  /-- VCAS (R366): Lane compare-and-swap. -/
  | vcas (o : LaneOp)
  /-- VBCST (R367): Broadcasts one lane's value to all active lanes. -/
  | vbcst (o : LaneOp)
  /-- VLANE (R368): Writes each lane's number plus a constant. -/
  | vlane (o : LaneOp)
  /-- VMAD (R370): Lane integer multiply-add. -/
  | vmad (o : LaneOp)
  /-- VMUL (R370): Lane integer multiply. -/
  | vmul (o : LaneOp)
  /-- VMULH (R370): Lane signed high product. -/
  | vmulh (o : LaneOp)
  /-- VMULHN (R370): Lane unsigned high product. -/
  | vmulhn (o : LaneOp)
  /-- VSUB (R370): Lane integer subtract. -/
  | vsub (o : LaneOp)
  /-- VMIN (R370): Lane signed minimum. -/
  | vmin (o : LaneOp)
  /-- VMAX (R370): Lane signed maximum. -/
  | vmax (o : LaneOp)
  /-- VMINN (R370): Lane unsigned minimum. -/
  | vminn (o : LaneOp)
  /-- VMAXN (R370): Lane unsigned maximum. -/
  | vmaxn (o : LaneOp)
  /-- VOR (R370): Lane bitwise OR. -/
  | vor (o : LaneOp)
  /-- VXOR (R370): Lane bitwise XOR. -/
  | vxor (o : LaneOp)
  /-- VPOPC (R370): Lane population count. -/
  | vpopc (o : LaneOp)
  /-- VSHL (R371): Lane shift left. -/
  | vshl (o : LaneOp)
  /-- VSHR (R371): Lane logical shift right. -/
  | vshr (o : LaneOp)
  /-- VSAR (R371): Lane arithmetic shift right. -/
  | vsar (o : LaneOp)
  /-- VSEL (R372): Lane select by the value in vd. -/
  | vsel (o : LaneOp)
  /-- VMOV (R373): Lane register or scalar move. -/
  | vmov (o : LaneOp)
  /-- VMOV_IND (R374): Moves into the lane register a scalar register names. -/
  | vmovInd (o : LaneOp)
  /-- VMOVS (R373): Moves an immediate into every active lane. -/
  | vmovs (o : LaneOp)
  /-- VPACK (R375): Packs two 32-bit operands into a packed register. -/
  | vpack (o : LaneOp)
  /-- VUNPK (R376): Widens both packed elements into a register pair. -/
  | vunpk (o : LaneOp)
  /-- VPLOG (R377): Combines two predicates by a truth table. -/
  | vplog (o : LaneOp)
  /-- VPMOV_S (R378): Moves one beat of a predicate into a scalar register. -/
  | vpmovS (o : LaneOp)
  /-- VPMOV_P (R378): Moves a scalar register into one beat of a predicate. -/
  | vpmovP (o : LaneOp)
  /-- VRNG (R379): Counter-based random numbers. -/
  | vrng (o : LaneOp)
  /-- VPRF (R380): Prefetches lines into the cluster cache. -/
  | vprf (o : LaneOp)
  /-- VST (R381): Lane plain store. -/
  | vst (o : LaneOp)
  /-- VSTC (R381): Lane contiguous scratch store. -/
  | vstc (o : LaneOp)
  /-- VSTN (R382): Lane notify-store. -/
  | vstn (o : LaneOp)
  /-- VSHFL (R383): Lane shuffle from arbitrary source lanes. -/
  | vshfl (o : LaneOp)
  /-- VROT (R383): Lane rotation. -/
  | vrot (o : LaneOp)
  /-- VRED (R384): Reduces the active lanes into a scalar by the fixed tree. -/
  | vred (o : LaneOp)
  /-- VSCAN (R384): Inclusive prefix over the active lanes. -/
  | vscan (o : LaneOp)
  /-- VVOTE (R385): Counts a predicate over active lanes into scalars. -/
  | vvote (o : LaneOp)
  /-- BANK_MODE_CHANGE_COMPLETE (R102): A bank finishes write-back and clearing and takes its new mode. -/
  | bankModeChangeComplete (c : ClusterId) (bank : BitVec 4)
  /-- LAUNCH_RECORD_FETCH (R258): Dispatcher fetches and checks a launch record, journalling or refusing it. -/
  | launchRecordFetch (q : QueueNo)
  /-- ROTATION_STREAK (R52): Streak count reaches 64 and the issue rotation advances. -/
  | rotationStreak (p : PartId)
  /-- QUANTUM_EXPIRY (R59): The host quantum runs out and an equal-priority context is made active. -/
  | quantumExpiry (c : CoreId)
  /-- IDLE_SWITCH_COUNT (R59): 512 clocks without an eligible stream switch to another context. -/
  | idleSwitchCount (c : CoreId)
  /-- CONTEXT_SWITCH (R59): The core makes a different resident context active. -/
  | contextSwitch (c : CoreId)
  /-- STREAM_OUT (R61): A context drains and writes its image to its save area. -/
  | streamOut (c : CoreId) (pasid : Pasid)
  /-- STREAM_IN (R60): A saved context streams back into a freed slot. -/
  | streamIn (c : CoreId) (pasid : Pasid)
  /-- PREEMPTED_STAND_RESUME (R63): Pre-empted stands stream back together onto their cluster. -/
  | preemptedStandResume (stand : StandKey)
  /-- FUSION (R36): Two arms at their join fuse into one fragment. -/
  | fusion (c : CordId) (split : Nat)
  /-- SERIAL_ARM_START (R35): A serialised taken arm starts at its target. -/
  | serialArmStart (c : CordId) (split : Nat)
  /-- CORD_END (R40): A cord with no lanes frees its slot once its accesses complete. -/
  | cordEnd (c : CordId)
  /-- LEVEL_GROUP_COMPLETE (R46): A level-k group completes and satisfies dependences. -/
  | levelGroupComplete (q : QueueNo) (seq : Nat) (level : Nat) (group : Nat)
  /-- LAUNCH_COMPLETE (R40): A launch completes when every stand ended and every engine operation completed. -/
  | launchComplete (q : QueueNo) (seq : Nat)
  /-- COMPLETION_RECORD_WRITE (R261): Device writes a completion record when ring room allows, then the interrupt. -/
  | completionRecordWrite (q : QueueNo)
  /-- MEMORY_REPLY (R113): An access's value or acknowledgement returns and lowers its path counter in order. -/
  | memoryReply (c : CordId) (id : Nat) (ecc : Ecc)
  /-- CORDIC_BEAT_WRITE (R91): The CORDIC unit writes one beat's results. -/
  | cordicBeatWrite (p : PartId)
  /-- TRAP_DELIVERY (R56): After both streams drain, the trap of the earliest faulting instruction is delivered. -/
  | trapDelivery (c : CordId)
  /-- SUPERVISOR_REQUEST (R390): The supervisor handler starts serving a queued trap request. -/
  | supervisorRequest (c : CoreId)
  /-- WALK_FILL (R162): A page walk completes and fills or is discarded and restarts. -/
  | walkFill (d : DieId) (pasid : Pasid) (page : Nat)
  /-- INBOUND_BUFFER_APPEND (R111): A held message is appended when its ring gains space. -/
  | inboundBufferAppend (c : ClusterId)
  /-- SNDM_RETRY (R111): The sending interface retries a refused message. -/
  | sndmRetry (c : CordId) (id : Nat)
  /-- MATRIX_COMMAND_START (R195): The matrix engine starts its next accepted command. -/
  | matrixCommandStart (p : PartId)
  /-- MATRIX_COMMAND_END (R195): A matrix operation ends and may complete lots. -/
  | matrixCommandEnd (p : PartId)
  /-- COPY_CHUNK_LANDING (R202): A copy chunk is written and its landing-map bit set. -/
  | copyChunkLanding (c : ClusterId) (copy : Nat) (chunk : BitVec 9)
  /-- GATHER_COMPLETE (R208): A gather finishes and writes its status word. -/
  | gatherComplete (d : DieId) (id : Nat)
  /-- SCATTER_COMPLETE (R209): A scatter finishes and writes its status word. -/
  | scatterComplete (d : DieId) (id : Nat)
  /-- REDUCTION_CONTRIBUTION (R213): The reduction unit takes one contribution to a slot. -/
  | reductionContribution (d : DieId)
  /-- NBCFG_PERFORM (R217): The neighbour engine performs an accepted NBCFG. -/
  | nbcfgPerform (e : QuadId)
  /-- NBIN_RUN (R219): The neighbour engine rebuilds the grid. -/
  | nbinRun (e : QuadId)
  /-- NCHK_RUN (R220): The neighbour engine measures displacements. -/
  | nchkRun (e : QuadId)
  /-- NPAIR_RUN (R221): The neighbour engine starts pair streaming. -/
  | npairRun (e : QuadId)
  /-- GROUP_PUBLISH (R221): A pair group is written and published when ring space allows. -/
  | groupPublish (e : QuadId)
  /-- CBIN_RUN (R225): The engine performs a class-binning pass. -/
  | cbinRun (e : QuadId)
  /-- NBST_READ (R216): NBST reads STATE and MAXD2 after earlier commands end. -/
  | nbstRead (e : QuadId)
  /-- STUMP_INSTALL (R250): Copy acknowledged: the old owner installs the stump and relays held accesses. -/
  | stumpInstall (gfn : Gfn)
  /-- ANNOUNCEMENT_DRAINED (R252): After earlier accesses to the old owner complete, the package acknowledges. -/
  | announcementDrained (gfn : Gfn)
  /-- LINK_FAILURE_LIMIT (R242): 16 consecutive failures retrain a link or fail a fibre. -/
  | linkFailureLimit (via : Port)
  /-- RELAY_FORWARD (R246): An intermediate forwards relayed flits at its direct match. -/
  | relayForward (dst : PkgNo)
  /-- CLOCK_CHANGE_COMPLETE (R265): A commanded die clock change takes effect. -/
  | clockChangeComplete (d : DieId)
  /-- PARK_COMPLETE (R265): A park completes when its resident cords have ended. -/
  | parkComplete (p : PartId)
  /-- FIBRE_GROUP_ASLEEP (R265): A fibre group sleeps once its flits are acknowledged. -/
  | fibreGroupAsleep (g : BitVec 3)
  /-- FIBRE_GROUP_WAKE (R265): A fibre group finishes waking after 100 µs. -/
  | fibreGroupWake (g : BitVec 3)
  /-- PC_SAMPLE (R268): The sampler interval expires and a sample is written. -/
  | pcSample (p : PartId)
  /-- ERROR_THRESHOLD_REACHED (R266): An error class reaches its threshold and raises an event. -/
  | errorThresholdReached (cls : ErrClass)
  /-- ILLEGAL_INSTRUCTION (R291): A scalar, lane or pair word that no encoding assigns reaches issue and traps with code 0x01 without effect. -/
  | illegalInstruction (w : IllegalWord)
  /-- RET (R336): Returns through the link register d29. -/
  | ret
  /-- EXIT (R39): Removes the fragment's active lanes from the cord. -/
  | exit
  /-- NOP (R332): Does nothing. -/
  | nop
  /-- TRAP (R342): Raises trap code 0x0E. -/
  | trap
  /-- TRET (R343): Returns from the user handler and resumes both streams. -/
  | tret
  /-- TXC (R149): Commits the fragment's transactional lanes in ticket order. -/
  | txc
  /-- HTXC (R156): Commits a host transaction or releases the fallback lock. -/
  | htxc
  /-- CYCLES_LO_READ (R328): MFS of %cycles.lo latches the high half for %cycles.hi. -/
  | cyclesLoRead (d : Reg)
  /-- BANKMODE_WRITE (R102): Write to %bankmode requests bank mode changes. -/
  | bankmodeWrite (c : ClusterId) (v : Word)
  /-- BANKSTAT_WRITE (R101): Write-one-to-clear of REFUSED bits in %bankstat. -/
  | bankstatWrite (c : ClusterId) (v : Word)
  /-- FDLREL_WRITE (R171): Write to %fdlrel frees the oldest discarded log entries. -/
  | fdlrelWrite (c : CoreId) (v : Word)
  /-- RING_HEAD_STORE (R108): Store to a ring control block's HEAD, ignored past TAIL. -/
  | ringHeadStore (c : ClusterId) (ring : BitVec 6) (h : Word)
  /-- TAIL_WRITE (R258): Host kick write of a queue's TAIL, accepted or putting the queue in error. -/
  | tailWrite (q : QueueNo) (t : Word)
  /-- CHEAD_WRITE (R258): Host write of CHEAD consuming completion records. -/
  | cheadWrite (q : QueueNo) (h : Word)
  /-- GANG_PLACEMENT (R48): Dispatcher places a ready gang on a die. -/
  | gangPlacement
  /-- PAGE_RESPONSE_SUCCESS (R166): Success response re-translates waiters and replays the log. -/
  | pageResponseSuccess (r : PageRef)
  /-- PAGE_RESPONSE_INVALID_REQUEST (R166): Invalid Request response faults every waiting access. -/
  | pageResponseInvalidRequest (r : PageRef)
  /-- PAGE_RESPONSE_FAILURE (R166): Response Failure faults waiters and stops page requests on the die. -/
  | pageResponseFailure (r : PageRef)
  /-- PAGE_REQUEST_TIMEOUT (R166): No response within the host timeout acts as Response Failure. -/
  | pageRequestTimeout (r : PageRef)
  /-- INVALIDATION (R162): An IOTINVAL.VMA or ATS invalidation is processed by each die. -/
  | invalidation (pasid : Option Pasid) (page : Option Nat)
  /-- FALLBACK_LOCK_TAKE (R152): A waiting fallback lane or host thread takes the fallback lock. -/
  | fallbackLockTake
  /-- HOST_INTERRUPT_IN_BODY (R155): A host interrupt aborts the transaction and is taken at the fallback target. -/
  | hostInterruptInBody (h : HostNo)
  /-- MIGRATION_DEQUEUE (R249): A waiting migration request starts when a slot or the granule frees. -/
  | migrationDequeue
  /-- FLIT_RECEIVE (R242): A flit is received, checked and delivered in SEQ order. -/
  | flitReceive (via : Port) (bytes : List Byte)
  /-- DWELL_OPENER (R244): An OPEN filler names the peer of the dwell. -/
  | dwellOpener (fibre : BitVec 7) (src : PkgNo)
  /-- ROTOR_SLOT (R243): A 3.0 µs slot begins and switches reconfigure. -/
  | rotorSlot
  /-- RESEND_TIMEOUT (R242): An unacknowledged flit is resent after timeout or dwell end. -/
  | resendTimeout (peer : PkgNo) (via : Port)
  /-- LINK_RETRAIN_RESULT (R242): A link retrain finishes, or the link is marked down. -/
  | linkRetrainResult (link : BitVec 2) (ok : Bool)
  /-- RD (R240): Remote read request. -/
  | rd (r : Req)
  /-- WR (R240): Remote write request. -/
  | wr (r : Req)
  /-- WRM (R240): Remote masked line write. -/
  | wrm (r : Req)
  /-- AT (R240): Remote atomic request. -/
  | atReq (r : Req)
  /-- NST (R247): Remote notify-store request. -/
  | nst (r : Req)
  /-- MSG (R240): Remote SNDM message delivery. -/
  | msg (r : Req)
  /-- BWR (R240): Bulk write request. -/
  | bwr (r : Req)
  /-- BRD (R240): Bulk read request. -/
  | brd (r : Req)
  /-- REG (R231): Owner record request to the registrar. -/
  | reg (r : Req)
  /-- COH_FETCH_SHARED (R234): Node partner fetches a line shared. -/
  | cohFetchShared (r : Req)
  /-- COH_FETCH_EXCLUSIVE (R234): Node partner fetches a line exclusive. -/
  | cohFetchExclusive (r : Req)
  /-- COH_INVALIDATE (R234): Owner invalidates a partner's copy. -/
  | cohInvalidate (r : Req)
  /-- COH_RECALL (R234): Owner recalls a partner's dirty bytes. -/
  | cohRecall (r : Req)
  /-- MIG_RESERVE (R250): New owner reserves a frame or answers NOFRAME. -/
  | migReserve (r : Req)
  /-- MIG_RECORD_UPDATE (R250): Registrar updates the owner record. -/
  | migRecordUpdate (r : Req)
  /-- MIG_ANNOUNCE (R252): A package invalidates its owner-cache entry for a moved granule. -/
  | migAnnounce (r : Req)
  /-- MIG_ACKNOWLEDGE (R254): Old owner receives a package's acknowledgement. -/
  | migAcknowledge (r : Req)
  /-- MIG_RECLAIM (R254): Registrar lowers STUMPS on reclamation. -/
  | migReclaim (r : Req)
  /-- MIG_OUTCOME (R249): Requesting package writes the migration status word. -/
  | migOutcome (r : Req)
  /-- MIG_REQUEST (R249): Old owner receives and checks a migration request. -/
  | migRequest (r : Req)
  /-- RDX_TREE (R240): Remote RDXT contribution arrives. -/
  | rdxTree (r : Req)
  /-- RDX_ARRIVAL (R240): Remote RDXA contribution arrives. -/
  | rdxArrival (r : Req)
  /-- ACK (R238): Acknowledgement response arrives. -/
  | ack (r : Resp)
  /-- DATA (R238): Data response arrives. -/
  | data (r : Resp)
  /-- LINKACK (R237): Link acknowledgement frees sent flits. -/
  | linkack (peer : PkgNo) (seq : Word)
  /-- LINKNAK (R242): Link negative acknowledgement triggers resend. -/
  | linknak (peer : PkgNo) (seq : Word)
  /-- NEG (R172): Negative reply: re-resolve or trap. -/
  | neg (n : NegMsg)
  /-- REDIR (R251): Redirect replaces an owner-cache entry. -/
  | redir (r : RedirMsg)
  /-- CREATEQ (R262): Admin command creating a user queue. -/
  | createq (c : AdminCmd)
  /-- DESTROYQ (R262): Admin command destroying a queue. -/
  | destroyq (c : AdminCmd)
  /-- SUSPENDQ (R262): Admin command pre-empting and suspending a queue. -/
  | suspendq (c : AdminCmd)
  /-- RESUMEQ (R262): Admin command resuming a queue. -/
  | resumeq (c : AdminCmd)
  /-- RESERVE (R100): Admin command reserving memory for a core. -/
  | reserve (c : AdminCmd)
  /-- LOADHANDLER (R262): Admin command installing the supervisor handler. -/
  | loadhandler (c : AdminCmd)
  /-- SETBANKS (R262): Admin command requesting cluster bank mode changes. -/
  | setbanks (c : AdminCmd)
  /-- SETQUANTUM (R59): Admin command setting the context quantum. -/
  | setquantum (c : AdminCmd)
  /-- PRI (R262): Admin command setting a die's page-request state and timeout. -/
  | pri (c : AdminCmd)
  /-- STRIPE (R119): Admin command placing a node-striped region. -/
  | stripe (c : AdminCmd)
  /-- MIGRATE (R262): Admin command making a migration request. -/
  | migrate (c : AdminCmd)
  /-- POWER_CLOCK (R265): Sets a die's clock. -/
  | powerClock (c : AdminCmd)
  /-- POWER_PARK (R265): Parks or unparks partitions. -/
  | powerPark (c : AdminCmd)
  /-- POWER_RETAIN (R265): Sets the slice retention threshold. -/
  | powerRetain (c : AdminCmd)
  /-- POWER_SLEEP (R265): Puts fibre groups to sleep or wakes them. -/
  | powerSleep (c : AdminCmd)
  /-- OBSERVE_SAMPLER (R268): Starts or stops the PC sampler. -/
  | observeSampler (c : AdminCmd)
  /-- OBSERVE_EVENT_RING (R262): Sets the event ring. -/
  | observeEventRing (c : AdminCmd)
  /-- OBSERVE_ARM_WATCHPOINT (R270): Arms a watchpoint at a line's owning slice. -/
  | observeArmWatchpoint (c : AdminCmd)
  /-- OBSERVE_DISARM_WATCHPOINT (R270): Disarms a watchpoint. -/
  | observeDisarmWatchpoint (c : AdminCmd)
  /-- OBSERVE_CLEAR_COUNTERS (R262): Clears selected counter classes. -/
  | observeClearCounters (c : AdminCmd)
  /-- STOP (R269): Freezes a partition's cords and writes the stop dump. -/
  | stop (c : AdminCmd)
  /-- STOP_RESUME (R269): Restarts issue on a stopped partition. -/
  | stopResume (c : AdminCmd)
  /-- JOURNAL (R263): Admin command setting the journal ring. -/
  | journal (c : AdminCmd)
  /-- BANK_RETENTION_DROP (R118): An untouched slice bank drops to retention voltage. -/
  | bankRetentionDrop (s : SliceBank)
  /-- WATCH_EVENT_WRITE (R270): A watchpoint hit is written to the event ring. -/
  | watchEventWrite
  /-- TEMPERATURE_CURRENT_LIMIT (R265): A temperature or current limit is reported as an event. -/
  | temperatureCurrentLimit (source : Nat) (detail : Nat)
  /-- RESET (R271): Rails ramp and reset is released. -/
  | reset
  /-- FIRMWARE_IMAGE_LOAD (R264): Boot ROM checks and runs an image written into BAR 4. -/
  | firmwareImageLoad (image : List Byte)
  /-- MAILBOX_EXPOSED_COUNTS (R229): Host sets pool exposed counts through the mailbox. -/
  | mailboxExposedCounts (x : List Nat)
  /-- MAILBOX_DECK_SIZE (R246): Host sets the relay-deck size through the mailbox. -/
  | mailboxDeckSize (units : Nat)
  /-- MAILBOX_ADMIN_QUEUE (R258): Host sets the admin queue rings and vector. -/
  | mailboxAdminQueue (a : AdminRings)
  /-- FABRIC_JOIN (R271): Firmware joins the fabric: numbers, fibre alignment, owner records. -/
  | fabricJoin (num : PkgNo) (members : List (PkgNo × List Nat))
  /-- CLUSTER_CACHE_EVICTION (R125): A cluster cache writes back dirty bytes of a line, or drops clean bytes, at a moment of its own choosing. -/
  | clusterCacheEviction (c : ClusterId) (line : Nat) (writeBack : Bool)
  /-- DIRECTORY_ENTRY_EVICTION (R234): An owner's directory entry is evicted, and every copy it tracks is first recalled or invalidated. -/
  | directoryEntryEviction (line : Nat)
  /-- PARTNER_LINE_EVICTION (R234): A node partner evicts a line it holds in M from its LLC and writes the dirty bytes back to the owner. -/
  | partnerLineEviction (line : Nat)
  /-- HOST_CORE_ACCESS (R131): A host core's plain load, store, atomic or FENCE reaches the memory system and the owning slices. -/
  | hostCoreAccess (a : HostAccess)
  /-- POWER_REMOVAL (R265): The board removes power beyond the absolute temperature or current limit, which acts as a reset. -/
  | powerRemoval
  deriving DecidableEq, Repr

/-- The lane operations by name. -/
inductive LaneKind where
  | vabs | vadd | vand | vclz | vbfx | vcmp | vcmpn | vfadd | vfsub | vfmul
  | vfma | vhfma | vbfma | vfmin | vfmax | vfsgn | vfcls | vfcmp | vcvt | vcvts
  | vcrsc | vcrat | vcrhy | vcrex | vcrlg | vcrsq | vcrrs | vcrdv | vcrth | vld
  | vldc | vldm | vatom | vatomNtf | vcas | vbcst | vlane | vmad | vmul | vmulh
  | vmulhn | vsub | vmin | vmax | vminn | vmaxn | vor | vxor | vpopc | vshl
  | vshr | vsar | vsel | vmov | vmovInd | vmovs | vpack | vunpk | vplog | vpmovS
  | vpmovP | vrng | vprf | vst | vstc | vstn | vshfl | vrot | vred | vscan
  | vvote
  deriving DecidableEq, Repr

/-- The lane operation of a kind with given fields. -/
def LaneKind.instr : LaneKind → LaneOp → Instr
  | .vabs, o => .vabs o
  | .vadd, o => .vadd o
  | .vand, o => .vand o
  | .vclz, o => .vclz o
  | .vbfx, o => .vbfx o
  | .vcmp, o => .vcmp o
  | .vcmpn, o => .vcmpn o
  | .vfadd, o => .vfadd o
  | .vfsub, o => .vfsub o
  | .vfmul, o => .vfmul o
  | .vfma, o => .vfma o
  | .vhfma, o => .vhfma o
  | .vbfma, o => .vbfma o
  | .vfmin, o => .vfmin o
  | .vfmax, o => .vfmax o
  | .vfsgn, o => .vfsgn o
  | .vfcls, o => .vfcls o
  | .vfcmp, o => .vfcmp o
  | .vcvt, o => .vcvt o
  | .vcvts, o => .vcvts o
  | .vcrsc, o => .vcrsc o
  | .vcrat, o => .vcrat o
  | .vcrhy, o => .vcrhy o
  | .vcrex, o => .vcrex o
  | .vcrlg, o => .vcrlg o
  | .vcrsq, o => .vcrsq o
  | .vcrrs, o => .vcrrs o
  | .vcrdv, o => .vcrdv o
  | .vcrth, o => .vcrth o
  | .vld, o => .vld o
  | .vldc, o => .vldc o
  | .vldm, o => .vldm o
  | .vatom, o => .vatom o
  | .vatomNtf, o => .vatomNtf o
  | .vcas, o => .vcas o
  | .vbcst, o => .vbcst o
  | .vlane, o => .vlane o
  | .vmad, o => .vmad o
  | .vmul, o => .vmul o
  | .vmulh, o => .vmulh o
  | .vmulhn, o => .vmulhn o
  | .vsub, o => .vsub o
  | .vmin, o => .vmin o
  | .vmax, o => .vmax o
  | .vminn, o => .vminn o
  | .vmaxn, o => .vmaxn o
  | .vor, o => .vor o
  | .vxor, o => .vxor o
  | .vpopc, o => .vpopc o
  | .vshl, o => .vshl o
  | .vshr, o => .vshr o
  | .vsar, o => .vsar o
  | .vsel, o => .vsel o
  | .vmov, o => .vmov o
  | .vmovInd, o => .vmovInd o
  | .vmovs, o => .vmovs o
  | .vpack, o => .vpack o
  | .vunpk, o => .vunpk o
  | .vplog, o => .vplog o
  | .vpmovS, o => .vpmovS o
  | .vpmovP, o => .vpmovP o
  | .vrng, o => .vrng o
  | .vprf, o => .vprf o
  | .vst, o => .vst o
  | .vstc, o => .vstc o
  | .vstn, o => .vstn o
  | .vshfl, o => .vshfl o
  | .vrot, o => .vrot o
  | .vred, o => .vred o
  | .vscan, o => .vscan o
  | .vvote, o => .vvote o

/-- The op10 of a lane operation (R288); moves by VMOV.ind, VATOM.NTF and VPMOV share one with their siblings. -/
def LaneKind.op10 : LaneKind → BitVec 10
  | .vabs => 0x020
  | .vadd => 0x010
  | .vand => 0x016
  | .vclz => 0x021
  | .vbfx => 0x023
  | .vcmp => 0x027
  | .vcmpn => 0x028
  | .vfadd => 0x040
  | .vfsub => 0x041
  | .vfmul => 0x042
  | .vfma => 0x043
  | .vhfma => 0x049
  | .vbfma => 0x04A
  | .vfmin => 0x044
  | .vfmax => 0x045
  | .vfsgn => 0x046
  | .vfcls => 0x048
  | .vfcmp => 0x047
  | .vcvt => 0x060
  | .vcvts => 0x061
  | .vcrsc => 0x080
  | .vcrat => 0x081
  | .vcrhy => 0x082
  | .vcrex => 0x083
  | .vcrlg => 0x084
  | .vcrsq => 0x085
  | .vcrrs => 0x086
  | .vcrdv => 0x087
  | .vcrth => 0x088
  | .vld => 0x0C0
  | .vldc => 0x0C1
  | .vldm => 0x0C2
  | .vatom => 0x0C7
  | .vatomNtf => 0x0C7
  | .vcas => 0x0C8
  | .vbcst => 0x0E2
  | .vlane => 0x102
  | .vmad => 0x015
  | .vmul => 0x012
  | .vmulh => 0x013
  | .vmulhn => 0x014
  | .vsub => 0x011
  | .vmin => 0x01C
  | .vmax => 0x01D
  | .vminn => 0x01E
  | .vmaxn => 0x01F
  | .vor => 0x017
  | .vxor => 0x018
  | .vpopc => 0x022
  | .vshl => 0x019
  | .vshr => 0x01A
  | .vsar => 0x01B
  | .vsel => 0x024
  | .vmov => 0x025
  | .vmovInd => 0x025
  | .vmovs => 0x026
  | .vpack => 0x062
  | .vunpk => 0x063
  | .vplog => 0x100
  | .vpmovS => 0x101
  | .vpmovP => 0x101
  | .vrng => 0x103
  | .vprf => 0x0C6
  | .vst => 0x0C3
  | .vstc => 0x0C4
  | .vstn => 0x0C5
  | .vshfl => 0x0E0
  | .vrot => 0x0E1
  | .vred => 0x0E4
  | .vscan => 0x0E3
  | .vvote => 0x0E5

/-- The kind and fields of a lane operation. -/
def Instr.lane? : Instr → Option (LaneKind × LaneOp)
  | .vabs o => some (.vabs, o)
  | .vadd o => some (.vadd, o)
  | .vand o => some (.vand, o)
  | .vclz o => some (.vclz, o)
  | .vbfx o => some (.vbfx, o)
  | .vcmp o => some (.vcmp, o)
  | .vcmpn o => some (.vcmpn, o)
  | .vfadd o => some (.vfadd, o)
  | .vfsub o => some (.vfsub, o)
  | .vfmul o => some (.vfmul, o)
  | .vfma o => some (.vfma, o)
  | .vhfma o => some (.vhfma, o)
  | .vbfma o => some (.vbfma, o)
  | .vfmin o => some (.vfmin, o)
  | .vfmax o => some (.vfmax, o)
  | .vfsgn o => some (.vfsgn, o)
  | .vfcls o => some (.vfcls, o)
  | .vfcmp o => some (.vfcmp, o)
  | .vcvt o => some (.vcvt, o)
  | .vcvts o => some (.vcvts, o)
  | .vcrsc o => some (.vcrsc, o)
  | .vcrat o => some (.vcrat, o)
  | .vcrhy o => some (.vcrhy, o)
  | .vcrex o => some (.vcrex, o)
  | .vcrlg o => some (.vcrlg, o)
  | .vcrsq o => some (.vcrsq, o)
  | .vcrrs o => some (.vcrrs, o)
  | .vcrdv o => some (.vcrdv, o)
  | .vcrth o => some (.vcrth, o)
  | .vld o => some (.vld, o)
  | .vldc o => some (.vldc, o)
  | .vldm o => some (.vldm, o)
  | .vatom o => some (.vatom, o)
  | .vatomNtf o => some (.vatomNtf, o)
  | .vcas o => some (.vcas, o)
  | .vbcst o => some (.vbcst, o)
  | .vlane o => some (.vlane, o)
  | .vmad o => some (.vmad, o)
  | .vmul o => some (.vmul, o)
  | .vmulh o => some (.vmulh, o)
  | .vmulhn o => some (.vmulhn, o)
  | .vsub o => some (.vsub, o)
  | .vmin o => some (.vmin, o)
  | .vmax o => some (.vmax, o)
  | .vminn o => some (.vminn, o)
  | .vmaxn o => some (.vmaxn, o)
  | .vor o => some (.vor, o)
  | .vxor o => some (.vxor, o)
  | .vpopc o => some (.vpopc, o)
  | .vshl o => some (.vshl, o)
  | .vshr o => some (.vshr, o)
  | .vsar o => some (.vsar, o)
  | .vsel o => some (.vsel, o)
  | .vmov o => some (.vmov, o)
  | .vmovInd o => some (.vmovInd, o)
  | .vmovs o => some (.vmovs, o)
  | .vpack o => some (.vpack, o)
  | .vunpk o => some (.vunpk, o)
  | .vplog o => some (.vplog, o)
  | .vpmovS o => some (.vpmovS, o)
  | .vpmovP o => some (.vpmovP, o)
  | .vrng o => some (.vrng, o)
  | .vprf o => some (.vprf, o)
  | .vst o => some (.vst, o)
  | .vstc o => some (.vstc, o)
  | .vstn o => some (.vstn, o)
  | .vshfl o => some (.vshfl, o)
  | .vrot o => some (.vrot, o)
  | .vred o => some (.vred, o)
  | .vscan o => some (.vscan, o)
  | .vvote o => some (.vvote, o)
  | _ => none

/-- The single form whose fields a compact operation fills (R287). -/
def CompactKind.full : CompactKind → LaneKind
  | .vadd => .vadd
  | .vsub => .vsub
  | .vmul => .vmul
  | .vand => .vand
  | .vor => .vor
  | .vxor => .vxor
  | .vshl => .vshl
  | .vshr => .vshr
  | .vsar => .vsar
  | .vmin => .vmin
  | .vmax => .vmax
  | .vsel => .vsel
  | .vmov => .vmov
  | .vcmp => .vcmp
  | .vfadd => .vfadd
  | .vfsub => .vfsub
  | .vfmul => .vfmul
  | .vfma => .vfma
  | .vfmin => .vfmin
  | .vfmax => .vfmax
  | .vld => .vld
  | .vst => .vst
  | .vshfl => .vshfl

/-- A compact operation as its single form (R287): no vc, ss or imm32, but compact VFMA adds its vd. -/
def CompactOp.toLane (c : CompactOp) : LaneOp :=
  { vd := c.vd, va := c.va, vb := c.vb, vc := if c.kind = .vfma then c.vd else 0, pneg := c.pneg, pidx := c.pidx, la := c.la
    ss := 0, ty := c.ty, var := c.var, imm := 0, compact := true }

end Sys2Proof
end

