-- ==== Sys2Proof/WellFormed.lean ====
section
/-! DEFINITION. Which operands an encoding admits (R27, R30, R54, R57, R104, R126, R142, R184, R204, R214, R274 to R291, R347, R369). -/

namespace Sys2Proof

/-- A pair base is even (R281). -/
def evenReg (r : Reg) : Bool := r.toNat % 2 == 0

/-- An operand block of n registers lies within s1 to s60 (R184). -/
def blockOk (sa : Reg) (n : Nat) : Bool := decide (1 ≤ sa.toNat) && decide (sa.toNat + n ≤ 61)

/-- Special-register numbers 30 to 47 name nothing (R328). -/
def spNumOk (r : Reg) : Bool := decide (r.toNat < 30) || decide (48 ≤ r.toNat)

/-- Scopes lo to 5 (R199, R204, R207, R211, R214). -/
def scopeOk {w : Nat} (lo : Nat) (s : BitVec w) : Bool := decide (lo ≤ s.toNat) && decide (s.toNat ≤ 5)

/-- An ATOM: even address pair, fn 0 to 10, an even sb for CAS (R302). -/
def atomOk (a b : Reg) (f : BitVec 4) : Bool := evenReg a && decide (f.toNat ≤ 10) && (f != 9 || evenReg b)

/-- The type and variant combinations each lane operation accepts (R347, R369). -/
def LaneKind.combo : LaneKind → LaneTy → Variant → Bool
  | .vabs, t, v => (t == .i32 || t == .i16x2 || t == .i64) && (v == .base || v == .sat)
  | .vadd, t, v | .vsub, t, v =>
    (t == .i32 || t == .n32 || t == .i16x2 || t == .n16x2 || t == .i64) && (v == .base || v == .sat)
  | .vmul, t, v | .vmad, t, v => (t == .i32 || t == .n32 || t == .i16x2 || t == .n16x2) && (v == .base || v == .sat)
  | .vand, t, v | .vor, t, v | .vxor, t, v | .vsel, t, v | .vmov, t, v | .vmovs, t, v | .vbcst, t, v | .vrot, t, v
  | .vshfl, t, v | .vcmp, t, v => (t == .i32 || t == .i64) && v == .base
  | .vmovInd, t, v => t == .i32 && v == .alt6
  | .vcmpn, t, v => (t == .n32 || t == .i64) && v == .base
  | .vatom, t, v | .vatomNtf, t, v | .vcas, t, v | .vlane, t, v | .vplog, t, v | .vpmovS, t, v | .vpmovP, t, v | .vprf, t, v
  | .vvote, t, v => t == .i32 && v == .base
  | .vbfma, t, v => t == .bf16x2 && (v == .base || v == .x)
  | .vhfma, t, v => t == .f16x2 && (v == .base || v == .x)
  | .vbfx, t, v => (t == .i32 || t == .n32) && v == .base
  | .vclz, t, v | .vpopc, t, v => (t == .i32 || t == .i16x2) && v == .base
  | .vcrsc, t, v | .vcrat, t, v | .vcrhy, t, v | .vcrex, t, v | .vcrlg, t, v | .vcrsq, t, v | .vcrrs, t, v | .vcrdv, t, v
  | .vcrth, t, v => t == .f32 && (v == .base || v == .x)
  | .vcvt, t, v | .vcvts, t, v => t == .i32 && !(v == .alt6 || v == .alt7)
  | .vfadd, t, v | .vfsub, t, v | .vfmul, t, v | .vfma, t, v =>
    (t == .f32 || t == .f16x2 || t == .bf16x2) && (v == .base || v == .x)
  | .vfcls, t, v | .vfmin, t, v | .vfmax, t, v => (t == .f32 || t == .f16x2 || t == .bf16x2) && v == .base
  | .vfsgn, t, v => (t == .f32 || t == .f16x2 || t == .bf16x2) && (v == .base || v == .alt6 || v == .alt7)
  | .vfcmp, t, v => t == .f32 && v == .base
  | .vld, t, v | .vldc, t, v | .vldm, t, v | .vst, t, v | .vstc, t, v =>
    ((t == .i32 || t == .n32 || t == .f32 || t == .i64) && v == .base) || ((t == .i32 || t == .n32) && (v == .alt6 || v == .alt7))
  | .vstn, t, v => (t == .i32 || t == .n32 || t == .f32 || t == .i64) && v == .base
  | .vmax, t, v | .vmin, t, v | .vshl, t, v | .vshr, t, v | .vsar, t, v => (t == .i32 || t == .i16x2 || t == .i64) && v == .base
  | .vmaxn, t, v | .vminn, t, v => (t == .n32 || t == .n16x2 || t == .i64) && v == .base
  | .vmulh, t, v => (t == .i32 || t == .i16x2) && v == .base
  | .vmulhn, t, v => (t == .n32 || t == .n16x2) && v == .base
  | .vpack, t, v =>
    ((t == .f16x2 || t == .bf16x2) && (v == .base || v == .sat || v == .rz || v == .ru || v == .rd)) ||
    ((t == .i16x2 || t == .n16x2) && (v == .base || v == .sat))
  | .vunpk, t, v => (t == .f16x2 || t == .bf16x2 || t == .i16x2 || t == .n16x2) && v == .base
  | .vred, t, v | .vscan, t, v => (t == .i32 || t == .n32 || t == .f32 || t == .i64) && v == .base
  | .vrng, t, v => (t == .n32 || t == .f32) && v == .base

/-- The operations that take a lookahead field (R54, R347, R369). -/
def LaneKind.long : LaneKind → Bool
  | .vatom | .vatomNtf | .vcas | .vbcst | .vld | .vldc | .vldm | .vprf | .vred | .vscan | .vrot | .vshfl | .vst | .vstc | .vstn
  | .vvote | .vcrsc | .vcrat | .vcrhy | .vcrex | .vcrlg | .vcrsq | .vcrrs | .vcrdv | .vcrth => true
  | _ => false

/-- How an operation uses vb and ss (R345). -/
inductive BUse where
  | useNone | useB | useVb | useSs | useOther
  deriving DecidableEq, Repr

/-- The use of vb and ss by each operation (R345 and the entries). -/
def LaneKind.bUse : LaneKind → BUse
  | .vadd | .vand | .vcmp | .vcmpn | .vfadd | .vfsub | .vfmul | .vfma | .vhfma | .vbfma | .vfmin | .vfmax | .vfsgn | .vfcmp
  | .vcvts | .vatom | .vmad | .vmul | .vmulh | .vmulhn | .vsub | .vmin | .vmax | .vminn | .vmaxn | .vor | .vxor | .vshl | .vshr
  | .vsar | .vsel | .vmov | .vpack | .vshfl => .useB
  | .vcrat | .vcrdv | .vcas | .vstn => .useVb
  | .vbfx | .vldc | .vstc | .vmovInd | .vrng | .vbcst | .vrot | .vred | .vvote | .vpmovS | .vpmovP => .useSs
  | .vatomNtf | .vplog => .useOther
  | _ => .useNone

/-- The operations that read vc (R345, R366). -/
def LaneKind.usesVc : LaneKind → Bool
  | .vfma | .vhfma | .vbfma | .vmad | .vcas => true
  | _ => false

/-- The operations that do not use va. -/
def LaneKind.noVa : LaneKind → Bool
  | .vlane | .vmov | .vmovs | .vldc | .vstc | .vpmovP => true
  | _ => false

/-- The operations that do not use vd. -/
def LaneKind.noVd : LaneKind → Bool
  | .vprf | .vmovInd | .vred | .vvote | .vpmovS | .vatomNtf => true
  | _ => false

/-- The operations whose va names an address pair (R361). -/
def LaneKind.addrPair : LaneKind → Bool
  | .vld | .vldm | .vst | .vstn | .vprf | .vatom | .vatomNtf | .vcas => true
  | _ => false

/-- The operations whose vd names a predicate (R346). -/
def LaneKind.predDest : LaneKind → Bool
  | .vcmp | .vcmpn | .vfcmp | .vplog | .vpmovP => true
  | _ => false

/-- Whether the vd field is one the operation admits (R346, R350, R355, R376, R377, R378, R90). -/
def LaneKind.vdOk (k : LaneKind) (o : LaneOp) : Bool :=
  match k with
  | .vcmp | .vcmpn => decide (o.vd.toNat / 8 ≤ 5)
  | .vfcmp => decide (o.vd.toNat / 8 ≤ 7)
  | .vplog | .vpmovP => decide (o.vd.toNat < 8)
  | .vcrsc | .vcrhy | .vunpk => o.vd.toNat % 2 == 0
  | k => if k.noVd then o.vd == 0 else o.ty != .i64 || o.vd.toNat % 2 == 0

/-- Whether the va field is one the operation admits. -/
def LaneKind.vaOk (k : LaneKind) (o : LaneOp) : Bool :=
  match k with
  | .vplog | .vpmovS => decide (o.va.toNat < 8)
  | .vvote => decide (o.va.toNat < 16)
  | k =>
    if k.noVa then o.va == 0
    else if k.addrPair then o.va.toNat % 2 == 0
    else o.ty != .i64 || o.va.toNat % 2 == 0

/-- Whether vb and ss are ones the operation admits (R345). -/
def LaneKind.bOk (k : LaneKind) (o : LaneOp) : Bool :=
  match k.bUse with
  | .useNone => o.vb == 0 && o.ss == 0
  | .useB => if o.ss == 0 then (o.ty != .i64 || o.vb.toNat % 2 == 0) else o.vb == 0
  | .useVb => o.ss == 0 && (k != .vstn || o.vb.toNat % 2 == 0)
  | .useSs => o.vb == 0
  | .useOther => if k = .vplog then decide (o.vb.toNat < 8) && o.ss == 0 else true

/-- The VRED and VSCAN operations each type accepts (R384). -/
def redOk (ty : LaneTy) (op : Nat) : Bool :=
  match ty with
  | .i32 => decide (op ≤ 5)
  | .n32 => op == 1 || op == 2
  | .f32 => decide (op ≤ 2)
  | _ => op == 0 || (decide (3 ≤ op) && decide (op ≤ 5))

/-- A VCVT element code and index (R356). -/
def cvtElemOk (code idx : Nat) : Bool :=
  match code with
  | 0 | 10 | 11 => idx == 0
  | 1 | 2 | 13 | 14 => decide (idx < 2)
  | 3 | 4 | 8 | 12 => decide (idx < 4)
  | 5 | 6 => decide (idx < 5)
  | 7 | 9 => decide (idx < 8)
  | _ => false

/-- Whether imm32, and an ss whose range the entry limits, are ones the operation admits. -/
def LaneKind.immOk (k : LaneKind) (o : LaneOp) : Bool :=
  let n := o.imm.toNat
  match k with
  | .vbfx => if o.ss == 0 then decide (n < 1024) else n == 0
  | .vcvt | .vcvts => decide (n < 65536) && cvtElemOk (n % 16) (n / 16 % 16) && cvtElemOk (n / 256 % 16) (n / 4096)
  | .vcrsc | .vcrat | .vcrhy | .vcrex | .vcrlg | .vcrsq | .vcrrs | .vcrdv | .vcrth => decide (n < 16)
  | .vld | .vldc | .vldm | .vst | .vstc | .vstn | .vprf | .vlane | .vmovs | .vrng => true
  | .vatom => decide (n < 128) && (n % 16 ≤ 8 || n % 16 == 10) && decide (1 ≤ n / 16) && decide (n / 16 ≤ 5)
  | .vatomNtf =>
    decide (128 ≤ n) && decide (n < 256) && (n % 16 ≤ 8 || n % 16 == 10) && decide (1 ≤ n / 16 - 8) && decide (n / 16 - 8 ≤ 5)
  | .vcas => n % 16 == 0 && decide (16 ≤ n) && decide (n ≤ 80)
  | .vbcst => if o.ss == 0 then decide (n < 128) else n == 0
  | .vrot => if o.ss == 0 then decide (n < 96) else n == 0
  | .vplog => decide (n < 16)
  | .vpmovS => n % 2 == 0 && decide (n < 6) && o.ss != 0
  | .vpmovP => n % 2 == 1 && decide (n < 6) && o.ss != 0
  | .vred =>
    decide (n < 8) && redOk o.ty n && decide (1 ≤ o.ss.toNat) && decide (o.ss.toNat ≤ 60) && (o.ty != .i64 || evenReg o.ss)
  | .vscan => decide (n < 8) && redOk o.ty n && o.ss == 0
  | .vvote => decide (n ≤ 4) && decide (1 ≤ o.ss.toNat) && decide (o.ss.toNat ≤ (if n = 4 then 61 else 60))
  | _ => n == 0

/-- A lane operation that some encoding assigns (R285, R347, R369). -/
def LaneKind.ok (k : LaneKind) (o : LaneOp) : Bool :=
  k.combo o.ty o.var && (k.long || o.la == 0) && k.vdOk o && k.vaOk o && k.bOk o && (k.usesVc || o.vc == 0) && k.immOk o &&
  !o.compact

/-- The registers N to N + n - 1. -/
def regRun (r : VReg) (pair : Bool) : List Nat := if pair then [r.toNat, r.toNat + 1] else [r.toNat]

/-- The lane registers an operation reads (R57, R345, R357, R361, R372). -/
def LaneKind.reads (k : LaneKind) (o : LaneOp) : List Nat :=
  let p := o.ty == .i64
  (if k.addrPair then regRun o.va true
   else if k.noVa || k.predDest && k != .vcmp && k != .vcmpn && k != .vfcmp || k == .vpmovS || k == .vvote then []
   else regRun o.va p) ++
  (match k.bUse with
   | .useB => if o.ss == 0 then regRun o.vb p else []
   | .useVb => regRun o.vb (k == .vstn)
   | .useOther => if k == .vatomNtf then regRun o.vb false else []
   | _ => []) ++
  (if k.usesVc then regRun o.vc false else []) ++
  (if k == .vst || k == .vstc || k == .vstn || k == .vsel then regRun o.vd p
   else if k == .vcvt || k == .vcvts then regRun o.vd false else [])

/-- The lane registers an operation writes (R346); VMOV.ind writes the one its scalar source names (R374). -/
def LaneKind.writes (k : LaneKind) (o : LaneOp) : List Nat :=
  if k.noVd || k.predDest || k == .vst || k == .vstc || k == .vstn then []
  else regRun o.vd (o.ty == .i64 || k == .vcrsc || k == .vcrhy || k == .vunpk)

/-- The predicate an operation writes, p0 counting as none (R57, R346). -/
def LaneKind.predWrite (k : LaneKind) (o : LaneOp) : Option Nat :=
  if k.predDest && o.vd.toNat % 8 != 0 then some (o.vd.toNat % 8) else none

/-- Operation Y may be of the ALU classes or VLD, VST, VSHFL; X of the ALU classes only (R57 condition 1). -/
def CompactKind.xOk : CompactKind → Bool
  | .vld | .vst | .vshfl => false
  | _ => true

/-- At most one register of each bank is in the list, a register counting once (R57 condition 2). -/
def oneEachBank (rs : List Nat) : Bool :=
  rs.all (fun a => rs.all (fun b => a == b || a % 4 != b % 4))

/-- The conditions a compact operation meets by itself (R287, R289, R347, R369). -/
def CompactOp.ok (c : CompactOp) : Bool :=
  let k := c.kind.full
  let o := c.toLane
  k.combo c.ty c.var && (k.long || c.la == 0) && k.vdOk o && k.vaOk o && k.bOk o && (c.kind != .vmov || c.va == 0) &&
  ((c.kind != .vld && c.kind != .vst) || c.vb == 0)

/-- The conditions of R57 on the pair, other than those on each operation alone. -/
def pairOk (x y : CompactOp) : Bool :=
  let kx := x.kind.full; let ky := y.kind.full
  let wx := kx.writes x.toLane; let wy := ky.writes y.toLane
  x.kind.xOk && oneEachBank (kx.reads x.toLane ++ ky.reads y.toLane) &&
  wx.all (fun a => wy.all (fun b => a % 4 != b % 4)) &&
  (match kx.predWrite x.toLane, ky.predWrite y.toLane with
   | some a, some b => a != b
   | _, _ => true)

/-- The words whose operands an encoding admits; a word that fails is an illegal instruction (R291). -/
def wellFormed (i : Instr) : Bool :=
  match i with
  | .dadd d a b | .dsub d a b => evenReg d && evenReg a && evenReg b
  | .ldw _ a _ _ | .stw _ a _ _ => evenReg a
  | .ldd d a _ _ | .std d a _ _ => evenReg d && evenReg a
  | .stn _ a _ _ => evenReg a && decide (a.toNat ≤ 60)
  | .atomClu _ a b f _ | .atomDie _ a b f _ | .atomPkg _ a b f _ | .atomNode _ a b f _ | .atomPod _ a b f _ => atomOk a b f
  | .bc _ c _ => decide (c.toNat ≤ 5)
  | .bd _ _ _ j => j != 0
  | .bx a | .callr a => evenReg a
  | .fenceAcq s | .fenceRel s | .fenceFull s => decide (s.toNat ≤ 5)
  | .bari a _ => evenReg a
  | .arv c a _ | .waitb c a _ => scopeOk 1 c && evenReg a
  | .wpath n _ => decide (n.toNat ≤ 5)
  | .mfs _ r | .mts _ r => spNumOk r
  | .sndm _ b => b.toNat % 4 == 0 && decide (b.toNat ≤ 56)
  | .pgmv _ a _ _ => evenReg a
  | .txb _ a n | .txbF _ a n => evenReg a && n != 0
  | .mma a _ _ _ _ _ | .mmax a _ _ _ _ | .mmlut a _ _ _ _ _ => blockOk a 5
  | .mmld a _ _ => blockOk a 2
  | .mmst a _ f _ => blockOk a 3 && decide (f.toNat ≤ 7)
  | .mmstRelu a _ f _ => blockOk a 3 && decide (1 ≤ f.toNat) && decide (f.toNat ≤ 7)
  | .cpy a s _ => blockOk a 5 && scopeOk 1 s
  | .lmtst a _ _ => blockOk a 3
  | .lmwt a _ | .lmclr a _ => blockOk a 3
  | .gth a s _ _ => blockOk a 9 && scopeOk 2 s
  | .sct a c s _ _ => blockOk a 8 && scopeOk 2 s && c != 3
  | .rdxt a s _ | .rdxa a s _ => blockOk a 5 && scopeOk 2 s
  | .nbcfg a _ s _ | .nbin a _ s _ | .nchk a _ s _ => blockOk a 4 && scopeOk 2 s
  | .nbst a s _ => blockOk a 4 && scopeOk 2 s
  | .npairH a _ s _ | .npairF a _ s _ => blockOk a 7 && scopeOk 2 s
  | .cbinK a _ s _ | .cbinL a _ s _ => blockOk a 5 && scopeOk 2 s
  | .pairWord x y => x.ok && y.ok && pairOk x y
  | i =>
    match i.lane? with
    | some (k, o) => k.ok o
    | none => true

end Sys2Proof
end

