-- ==== Sys2Proof/Decode.lean ====
section
/-! DEFINITION. The decoder, total on any bits and refusing by name, and the encoder (13_encoding.md). -/

namespace Sys2Proof

/-- Why a word decodes to no instruction (R290, R291). -/
inductive DecodeError where
  /-- A scalar major opcode that R283 calls illegal. -/
  | reservedOpcode
  /-- A scalar fn or sub that R283 does not list. -/
  | reservedFn
  /-- A nonzero field that the instruction does not use. -/
  | nonzeroField
  /-- A lane word of kind 0b10 or 0b11. -/
  | laneKind
  /-- An op10 that R288 does not list. -/
  | reservedOp10
  /-- An op8 outside R289, or fn7[6] set. -/
  | reservedCompact
  /-- A host-core word outside R143. -/
  | hostWord
  deriving DecidableEq, Repr

/-- The type codes of R286. -/
def laneTyOf (c : BitVec 3) : LaneTy :=
  match c.toNat with
  | 0 => .i32 | 1 => .n32 | 2 => .f32 | 3 => .f16x2 | 4 => .bf16x2 | 5 => .i16x2 | 6 => .n16x2 | _ => .i64

/-- The code of a type (R286). -/
def laneTyCode : LaneTy → BitVec 3
  | .i32 => 0 | .n32 => 1 | .f32 => 2 | .f16x2 => 3 | .bf16x2 => 4 | .i16x2 => 5 | .n16x2 => 6 | .i64 => 7

/-- The variant codes of R74. -/
def variantOf (c : BitVec 3) : Variant :=
  match c.toNat with
  | 0 => .base | 1 => .x | 2 => .sat | 3 => .rz | 4 => .ru | 5 => .rd | 6 => .alt6 | _ => .alt7

/-- The code of a variant (R74). -/
def variantCode : Variant → BitVec 3
  | .base => 0 | .x => 1 | .sat => 2 | .rz => 3 | .ru => 4 | .rd => 5 | .alt6 => 6 | .alt7 => 7

/-- The words of short arithmetic (R283 opcode 0x01), by fn or sub. -/
def decodeOp01 (w : BitVec 32) : Except DecodeError Instr :=
  match (w.extractLsb' 4 4).toNat with
  | 0 => if w &&& 0x0000000F#32 = 0x00000000#32 then .ok (.add (w.extractLsb' 20 6) (w.extractLsb' 14 6) (w.extractLsb' 8 6)) else .error .nonzeroField
  | 1 => if w &&& 0x0000000F#32 = 0x00000000#32 then .ok (.sub (w.extractLsb' 20 6) (w.extractLsb' 14 6) (w.extractLsb' 8 6)) else .error .nonzeroField
  | 2 => if w &&& 0x0000000F#32 = 0x00000000#32 then .ok (.and (w.extractLsb' 20 6) (w.extractLsb' 14 6) (w.extractLsb' 8 6)) else .error .nonzeroField
  | 3 => if w &&& 0x0000000F#32 = 0x00000000#32 then .ok (.or (w.extractLsb' 20 6) (w.extractLsb' 14 6) (w.extractLsb' 8 6)) else .error .nonzeroField
  | 4 => if w &&& 0x0000000F#32 = 0x00000000#32 then .ok (.xor (w.extractLsb' 20 6) (w.extractLsb' 14 6) (w.extractLsb' 8 6)) else .error .nonzeroField
  | 5 => if w &&& 0x0000000F#32 = 0x00000000#32 then .ok (.shl (w.extractLsb' 20 6) (w.extractLsb' 14 6) (w.extractLsb' 8 6)) else .error .nonzeroField
  | 6 => if w &&& 0x0000000F#32 = 0x00000000#32 then .ok (.shr (w.extractLsb' 20 6) (w.extractLsb' 14 6) (w.extractLsb' 8 6)) else .error .nonzeroField
  | 7 => if w &&& 0x0000000F#32 = 0x00000000#32 then .ok (.sar (w.extractLsb' 20 6) (w.extractLsb' 14 6) (w.extractLsb' 8 6)) else .error .nonzeroField
  | 8 => if w &&& 0x0000000F#32 = 0x00000000#32 then .ok (.min (w.extractLsb' 20 6) (w.extractLsb' 14 6) (w.extractLsb' 8 6)) else .error .nonzeroField
  | 9 => if w &&& 0x0000000F#32 = 0x00000000#32 then .ok (.max (w.extractLsb' 20 6) (w.extractLsb' 14 6) (w.extractLsb' 8 6)) else .error .nonzeroField
  | 10 => if w &&& 0x0000000F#32 = 0x00000000#32 then .ok (.minn (w.extractLsb' 20 6) (w.extractLsb' 14 6) (w.extractLsb' 8 6)) else .error .nonzeroField
  | 11 => if w &&& 0x0000000F#32 = 0x00000000#32 then .ok (.maxn (w.extractLsb' 20 6) (w.extractLsb' 14 6) (w.extractLsb' 8 6)) else .error .nonzeroField
  | 12 => if w &&& 0x0000000F#32 = 0x00000000#32 then .ok (.slt (w.extractLsb' 20 6) (w.extractLsb' 14 6) (w.extractLsb' 8 6)) else .error .nonzeroField
  | 13 => if w &&& 0x0000000F#32 = 0x00000000#32 then .ok (.sltn (w.extractLsb' 20 6) (w.extractLsb' 14 6) (w.extractLsb' 8 6)) else .error .nonzeroField
  | 14 => if w &&& 0x0000000F#32 = 0x00000000#32 then .ok (.seq (w.extractLsb' 20 6) (w.extractLsb' 14 6) (w.extractLsb' 8 6)) else .error .nonzeroField
  | _ => if w &&& 0x0000000F#32 = 0x00000000#32 then .ok (.sel (w.extractLsb' 20 6) (w.extractLsb' 14 6) (w.extractLsb' 8 6)) else .error .nonzeroField

/-- The words of multiplies, counts and pairs (opcode 0x02), by fn or sub. -/
def decodeOp02 (w : BitVec 32) : Except DecodeError Instr :=
  match (w.extractLsb' 4 4).toNat with
  | 0 => .ok (.mul (w.extractLsb' 20 6) (w.extractLsb' 14 6) (w.extractLsb' 8 6) (w.extractLsb' 0 4))
  | 1 => .ok (.mulh (w.extractLsb' 20 6) (w.extractLsb' 14 6) (w.extractLsb' 8 6) (w.extractLsb' 0 4))
  | 2 => .ok (.mulhn (w.extractLsb' 20 6) (w.extractLsb' 14 6) (w.extractLsb' 8 6) (w.extractLsb' 0 4))
  | 3 => if w &&& 0x00003F0F#32 = 0x00000000#32 then .ok (.clz (w.extractLsb' 20 6) (w.extractLsb' 14 6)) else .error .nonzeroField
  | 4 => if w &&& 0x00003F0F#32 = 0x00000000#32 then .ok (.popc (w.extractLsb' 20 6) (w.extractLsb' 14 6)) else .error .nonzeroField
  | 5 => if w &&& 0x0000000F#32 = 0x00000000#32 then .ok (.dadd (w.extractLsb' 20 6) (w.extractLsb' 14 6) (w.extractLsb' 8 6)) else .error .nonzeroField
  | 6 => if w &&& 0x0000000F#32 = 0x00000000#32 then .ok (.dsub (w.extractLsb' 20 6) (w.extractLsb' 14 6) (w.extractLsb' 8 6)) else .error .nonzeroField
  | _ => .error .reservedFn

/-- The words of register branches and stream control (opcode 0x1F), by fn or sub. -/
def decodeOp1F (w : BitVec 32) : Except DecodeError Instr :=
  match (w.extractLsb' 4 4).toNat with
  | 0 => if w &&& 0x03F03F0F#32 = 0x00000000#32 then .ok (.bx (w.extractLsb' 14 6)) else .error .nonzeroField
  | 1 => if w &&& 0x03F03F0F#32 = 0x00000000#32 then .ok (.callr (w.extractLsb' 14 6)) else .error .nonzeroField
  | 2 => if w &&& 0x03FFFF0F#32 = 0x00000000#32 then .ok (.ret) else .error .nonzeroField
  | 3 => if w &&& 0x03FFFF0F#32 = 0x00000000#32 then .ok (.exit) else .error .nonzeroField
  | 4 => if w &&& 0x03FFFF0F#32 = 0x00000000#32 then .ok (.nop) else .error .nonzeroField
  | 5 => if w &&& 0x03FFFF0F#32 = 0x00000000#32 then .ok (.trap) else .error .nonzeroField
  | 6 => if w &&& 0x03FFFF0F#32 = 0x00000000#32 then .ok (.tret) else .error .nonzeroField
  | _ => .error .reservedFn

/-- The words of synchronisation (opcode 0x20), by fn or sub. -/
def decodeOp20 (w : BitVec 32) : Except DecodeError Instr :=
  match (w.extractLsb' 4 4).toNat with
  | 0 => if w &&& 0x03FFC00F#32 = 0x00000000#32 then .ok (.fenceAcq (w.extractLsb' 8 6)) else .error .nonzeroField
  | 1 => if w &&& 0x03FFC00F#32 = 0x00000000#32 then .ok (.fenceRel (w.extractLsb' 8 6)) else .error .nonzeroField
  | 2 => if w &&& 0x03FFC00F#32 = 0x00000000#32 then .ok (.fenceFull (w.extractLsb' 8 6)) else .error .nonzeroField
  | 3 => if w &&& 0x03F0000F#32 = 0x00000000#32 then .ok (.bari (w.extractLsb' 14 6) (w.extractLsb' 8 6)) else .error .nonzeroField
  | 4 => if w &&& 0x0000000F#32 = 0x00000000#32 then .ok (.arv (w.extractLsb' 20 6) (w.extractLsb' 14 6) (w.extractLsb' 8 6)) else .error .nonzeroField
  | 5 => if w &&& 0x0000000F#32 = 0x00000000#32 then .ok (.waitb (w.extractLsb' 20 6) (w.extractLsb' 14 6) (w.extractLsb' 8 6)) else .error .nonzeroField
  | 6 => if w &&& 0x000FC00F#32 = 0x00000000#32 then .ok (.wpath (w.extractLsb' 20 6) (w.extractLsb' 8 6)) else .error .nonzeroField
  | 7 => if w &&& 0x0000000F#32 = 0x00000000#32 then .ok (.rngw (w.extractLsb' 20 6) (w.extractLsb' 14 6) (w.extractLsb' 8 6)) else .error .nonzeroField
  | 8 => if w &&& 0x000FFF0F#32 = 0x00000000#32 then .ok (.lot (w.extractLsb' 20 6)) else .error .nonzeroField
  | 9 => if w &&& 0x03F03F0F#32 = 0x00000000#32 then .ok (.wlot (w.extractLsb' 14 6)) else .error .nonzeroField
  | _ => .error .reservedFn

/-- The words of system (opcode 0x21), by fn or sub. -/
def decodeOp21 (w : BitVec 32) : Except DecodeError Instr :=
  match (w.extractLsb' 4 4).toNat with
  | 0 => if w &&& 0x000FC00F#32 = 0x00000000#32 then .ok (.mfs (w.extractLsb' 20 6) (w.extractLsb' 8 6)) else .error .nonzeroField
  | 1 => if w &&& 0x03F0000F#32 = 0x00000000#32 then .ok (.mts (w.extractLsb' 14 6) (w.extractLsb' 8 6)) else .error .nonzeroField
  | 2 => if w &&& 0x03F0000F#32 = 0x00000000#32 then .ok (.lq (w.extractLsb' 14 6) (w.extractLsb' 8 6)) else .error .nonzeroField
  | 3 => if w &&& 0x00003F0F#32 = 0x00000000#32 then .ok (.gjoin (w.extractLsb' 20 6) (w.extractLsb' 14 6)) else .error .nonzeroField
  | 4 => if w &&& 0x000FFF0F#32 = 0x00000000#32 then .ok (.gleave (w.extractLsb' 20 6)) else .error .nonzeroField
  | 5 => if w &&& 0x03F0000F#32 = 0x00000000#32 then .ok (.sndm (w.extractLsb' 14 6) (w.extractLsb' 8 6)) else .error .nonzeroField
  | 6 => .ok (.pgmv (w.extractLsb' 20 6) (w.extractLsb' 14 6) (w.extractLsb' 8 6) (w.extractLsb' 0 4))
  | 7 => if w &&& 0x0000300F#32 = 0x00000000#32 then .ok (.txb (w.extractLsb' 20 6) (w.extractLsb' 14 6) (w.extractLsb' 8 4)) else if w &&& 0x0000300F#32 = 0x00001000#32 then .ok (.txbF (w.extractLsb' 20 6) (w.extractLsb' 14 6) (w.extractLsb' 8 4)) else .error .nonzeroField
  | 8 => if w &&& 0x03FFFF0F#32 = 0x00000000#32 then .ok (.txc) else .error .nonzeroField
  | 9 => if w &&& 0x03FFC00F#32 = 0x00000000#32 then .ok (.txa (w.extractLsb' 8 6)) else .error .nonzeroField
  | 10 => if w &&& 0x000FFF0F#32 = 0x00000000#32 then .ok (.txst (w.extractLsb' 20 6)) else .error .nonzeroField
  | 11 => if w &&& 0x0000000F#32 = 0x00000000#32 then .ok (.xrd (w.extractLsb' 20 6) (w.extractLsb' 14 6) (w.extractLsb' 8 6)) else .error .nonzeroField
  | 12 => if w &&& 0x0000000F#32 = 0x00000000#32 then .ok (.xwr (w.extractLsb' 20 6) (w.extractLsb' 14 6) (w.extractLsb' 8 6)) else .error .nonzeroField
  | 13 => if w &&& 0x03F0000F#32 = 0x00000000#32 then .ok (.xres (w.extractLsb' 14 6) (w.extractLsb' 8 6)) else .error .nonzeroField
  | _ => .error .reservedFn

/-- The words of tile moves (opcode 0x25), by fn or sub. -/
def decodeOp25 (w : BitVec 32) : Except DecodeError Instr :=
  match (w.extractLsb' 4 4).toNat with
  | 0 => if w &&& 0x03F0FF00#32 = 0x00000000#32 then .ok (.mmz (w.extractLsb' 16 4) (w.extractLsb' 0 4)) else .error .nonzeroField
  | 1 => if w &&& 0x0000FF00#32 = 0x00000000#32 then .ok (.mmld (w.extractLsb' 20 6) (w.extractLsb' 16 4) (w.extractLsb' 0 4)) else .error .nonzeroField
  | 2 => if w &&& 0x00000F00#32 = 0x00000000#32 then .ok (.mmst (w.extractLsb' 20 6) (w.extractLsb' 16 4) (w.extractLsb' 12 4) (w.extractLsb' 0 4)) else if w &&& 0x00000F00#32 = 0x00000800#32 then .ok (.mmstRelu (w.extractLsb' 20 6) (w.extractLsb' 16 4) (w.extractLsb' 12 4) (w.extractLsb' 0 4)) else .error .nonzeroField
  | _ => .error .reservedFn

/-- The words of copies and landing maps (opcode 0x26), by fn or sub. -/
def decodeOp26 (w : BitVec 32) : Except DecodeError Instr :=
  match (w.extractLsb' 4 4).toNat with
  | 0 => if w &&& 0x000FF800#32 = 0x00000000#32 then .ok (.cpy (w.extractLsb' 20 6) (w.extractLsb' 8 3) (w.extractLsb' 0 4)) else .error .nonzeroField
  | 1 => if w &&& 0x000FF800#32 = 0x00000000#32 then .ok (.lmtst (w.extractLsb' 20 6) (w.extractLsb' 8 3) (w.extractLsb' 0 4)) else .error .nonzeroField
  | 2 => if w &&& 0x000FF80F#32 = 0x00000000#32 then .ok (.lmwt (w.extractLsb' 20 6) (w.extractLsb' 8 3)) else .error .nonzeroField
  | 3 => if w &&& 0x000FF80F#32 = 0x00000000#32 then .ok (.lmclr (w.extractLsb' 20 6) (w.extractLsb' 8 3)) else .error .nonzeroField
  | _ => .error .reservedFn

/-- The words of gathers and reductions (opcode 0x27), by fn or sub. -/
def decodeOp27 (w : BitVec 32) : Except DecodeError Instr :=
  match (w.extractLsb' 4 4).toNat with
  | 0 => if w &&& 0x000FF000#32 = 0x00000000#32 then .ok (.gth (w.extractLsb' 20 6) (w.extractLsb' 9 3) (w.extractLsb' 8 1) (w.extractLsb' 0 4)) else .error .nonzeroField
  | 1 => if w &&& 0x000FC000#32 = 0x00000000#32 then .ok (.sct (w.extractLsb' 20 6) (w.extractLsb' 12 2) (w.extractLsb' 9 3) (w.extractLsb' 8 1) (w.extractLsb' 0 4)) else .error .nonzeroField
  | 2 => if w &&& 0x000FF800#32 = 0x00000000#32 then .ok (.rdxt (w.extractLsb' 20 6) (w.extractLsb' 8 3) (w.extractLsb' 0 4)) else .error .nonzeroField
  | 3 => if w &&& 0x000FF800#32 = 0x00000000#32 then .ok (.rdxa (w.extractLsb' 20 6) (w.extractLsb' 8 3) (w.extractLsb' 0 4)) else .error .nonzeroField
  | _ => .error .reservedFn

/-- The words of the neighbour engine (opcode 0x28), by fn or sub. -/
def decodeOp28 (w : BitVec 32) : Except DecodeError Instr :=
  match (w.extractLsb' 4 4).toNat with
  | 0 => if w &&& 0x000FF000#32 = 0x00000000#32 then .ok (.nbcfg (w.extractLsb' 20 6) (w.extractLsb' 11 1) (w.extractLsb' 8 3) (w.extractLsb' 0 4)) else .error .nonzeroField
  | 1 => if w &&& 0x000FF000#32 = 0x00000000#32 then .ok (.nbin (w.extractLsb' 20 6) (w.extractLsb' 11 1) (w.extractLsb' 8 3) (w.extractLsb' 0 4)) else .error .nonzeroField
  | 2 => if w &&& 0x000FF000#32 = 0x00000000#32 then .ok (.npairH (w.extractLsb' 20 6) (w.extractLsb' 11 1) (w.extractLsb' 8 3) (w.extractLsb' 0 4)) else .error .nonzeroField
  | 3 => if w &&& 0x000FF000#32 = 0x00000000#32 then .ok (.npairF (w.extractLsb' 20 6) (w.extractLsb' 11 1) (w.extractLsb' 8 3) (w.extractLsb' 0 4)) else .error .nonzeroField
  | 4 => if w &&& 0x000FF000#32 = 0x00000000#32 then .ok (.nchk (w.extractLsb' 20 6) (w.extractLsb' 11 1) (w.extractLsb' 8 3) (w.extractLsb' 0 4)) else .error .nonzeroField
  | 5 => if w &&& 0x000FF800#32 = 0x00000000#32 then .ok (.nbst (w.extractLsb' 20 6) (w.extractLsb' 8 3) (w.extractLsb' 0 4)) else .error .nonzeroField
  | 6 => if w &&& 0x000FF000#32 = 0x00000000#32 then .ok (.cbinK (w.extractLsb' 20 6) (w.extractLsb' 11 1) (w.extractLsb' 8 3) (w.extractLsb' 0 4)) else .error .nonzeroField
  | 7 => if w &&& 0x000FF000#32 = 0x00000000#32 then .ok (.cbinL (w.extractLsb' 20 6) (w.extractLsb' 11 1) (w.extractLsb' 8 3) (w.extractLsb' 0 4)) else .error .nonzeroField
  | _ => .error .reservedFn

/-- The scalar word of 32 bits by its major opcode (R280, R283). -/
def decodeScalar (w : BitVec 32) : Except DecodeError Instr :=
  match (w.extractLsb' 26 6).toNat with
  | 0x01 => decodeOp01 w
  | 0x02 => decodeOp02 w
  | 0x03 => .ok (.addImm (w.extractLsb' 20 6) (w.extractLsb' 14 6) (w.extractLsb' 0 14))
  | 0x04 => .ok (.andImm (w.extractLsb' 20 6) (w.extractLsb' 14 6) (w.extractLsb' 0 14))
  | 0x05 => .ok (.orImm (w.extractLsb' 20 6) (w.extractLsb' 14 6) (w.extractLsb' 0 14))
  | 0x06 => .ok (.xorImm (w.extractLsb' 20 6) (w.extractLsb' 14 6) (w.extractLsb' 0 14))
  | 0x07 => if w &&& 0x00003FE0#32 = 0x00000000#32 then .ok (.shlImm (w.extractLsb' 20 6) (w.extractLsb' 14 6) (w.extractLsb' 0 5)) else .error .nonzeroField
  | 0x08 => if w &&& 0x00003FE0#32 = 0x00000000#32 then .ok (.shrImm (w.extractLsb' 20 6) (w.extractLsb' 14 6) (w.extractLsb' 0 5)) else .error .nonzeroField
  | 0x09 => if w &&& 0x00003FE0#32 = 0x00000000#32 then .ok (.sarImm (w.extractLsb' 20 6) (w.extractLsb' 14 6) (w.extractLsb' 0 5)) else .error .nonzeroField
  | 0x0A => .ok (.sltImm (w.extractLsb' 20 6) (w.extractLsb' 14 6) (w.extractLsb' 0 14))
  | 0x0B => .ok (.sltnImm (w.extractLsb' 20 6) (w.extractLsb' 14 6) (w.extractLsb' 0 14))
  | 0x0C => .ok (.seqImm (w.extractLsb' 20 6) (w.extractLsb' 14 6) (w.extractLsb' 0 14))
  | 0x0D => if w &&& 0x00003C00#32 = 0x00000000#32 then .ok (.bfx (w.extractLsb' 20 6) (w.extractLsb' 14 6) (w.extractLsb' 5 5) (w.extractLsb' 0 5)) else .error .nonzeroField
  | 0x0E => if w &&& 0x00003C00#32 = 0x00000000#32 then .ok (.bfi (w.extractLsb' 20 6) (w.extractLsb' 14 6) (w.extractLsb' 5 5) (w.extractLsb' 0 5)) else .error .nonzeroField
  | 0x0F => .ok (.li (w.extractLsb' 20 6) (w.extractLsb' 0 20))
  | 0x10 => .ok (.lih (w.extractLsb' 20 6) (w.extractLsb' 0 20))
  | 0x11 => .ok (.ldw (w.extractLsb' 20 6) (w.extractLsb' 14 6) (w.extractLsb' 4 10) (w.extractLsb' 0 4))
  | 0x12 => .ok (.ldd (w.extractLsb' 20 6) (w.extractLsb' 14 6) (w.extractLsb' 4 10) (w.extractLsb' 0 4))
  | 0x13 => .ok (.stw (w.extractLsb' 20 6) (w.extractLsb' 14 6) (w.extractLsb' 4 10) (w.extractLsb' 0 4))
  | 0x14 => .ok (.std (w.extractLsb' 20 6) (w.extractLsb' 14 6) (w.extractLsb' 4 10) (w.extractLsb' 0 4))
  | 0x15 => .ok (.stn (w.extractLsb' 20 6) (w.extractLsb' 14 6) (w.extractLsb' 4 10) (w.extractLsb' 0 4))
  | 0x16 => .ok (.atomClu (w.extractLsb' 20 6) (w.extractLsb' 14 6) (w.extractLsb' 8 6) (w.extractLsb' 4 4) (w.extractLsb' 0 4))
  | 0x17 => .ok (.atomDie (w.extractLsb' 20 6) (w.extractLsb' 14 6) (w.extractLsb' 8 6) (w.extractLsb' 4 4) (w.extractLsb' 0 4))
  | 0x18 => .ok (.atomPkg (w.extractLsb' 20 6) (w.extractLsb' 14 6) (w.extractLsb' 8 6) (w.extractLsb' 4 4) (w.extractLsb' 0 4))
  | 0x19 => .ok (.atomNode (w.extractLsb' 20 6) (w.extractLsb' 14 6) (w.extractLsb' 8 6) (w.extractLsb' 4 4) (w.extractLsb' 0 4))
  | 0x1A => .ok (.atomPod (w.extractLsb' 20 6) (w.extractLsb' 14 6) (w.extractLsb' 8 6) (w.extractLsb' 4 4) (w.extractLsb' 0 4))
  | 0x1B => .ok (.b (w.extractLsb' 0 26))
  | 0x1C => .ok (.call (w.extractLsb' 0 26))
  | 0x1D => .ok (.bc (w.extractLsb' 20 6) (w.extractLsb' 16 4) (w.extractLsb' 0 16))
  | 0x1E => .ok (.bd (w.extractLsb' 23 3) (w.extractLsb' 22 1) (w.extractLsb' 11 11) (w.extractLsb' 0 11))
  | 0x1F => decodeOp1F w
  | 0x20 => decodeOp20 w
  | 0x21 => decodeOp21 w
  | 0x22 => .ok (.mma (w.extractLsb' 20 6) (w.extractLsb' 16 4) (w.extractLsb' 12 4) (w.extractLsb' 8 4) (w.extractLsb' 4 4) (w.extractLsb' 0 4))
  | 0x23 => if w &&& 0x000000F0#32 = 0x00000010#32 then .ok (.mmax (w.extractLsb' 20 6) (w.extractLsb' 16 4) (w.extractLsb' 12 4) (w.extractLsb' 8 4) (w.extractLsb' 0 4)) else .error .nonzeroField
  | 0x24 => .ok (.mmlut (w.extractLsb' 20 6) (w.extractLsb' 16 4) (w.extractLsb' 12 4) (w.extractLsb' 8 4) (w.extractLsb' 4 4) (w.extractLsb' 0 4))
  | 0x25 => decodeOp25 w
  | 0x26 => decodeOp26 w
  | 0x27 => decodeOp27 w
  | 0x28 => decodeOp28 w
  | _ => .error .reservedOpcode

/-- The host-core words of R143. -/
def decodeHost (w : BitVec 32) : Except DecodeError Instr :=
  if w &&& 0x000FF07F#32 = 0x0000000B#32 then .ok (.htxb (w.extractLsb' 20 12) (w.extractLsb' 7 5))
  else if w &&& 0xFFFFF07F#32 = 0x0000800B#32 then .ok (.htxbF (w.extractLsb' 7 5))
  else if w &&& 0xFFFFFFFF#32 = 0x0000100B#32 then .ok (.htxc)
  else if w &&& 0xFC0FFFFF#32 = 0x0000200B#32 then .ok (.htxa (w.extractLsb' 20 6))
  else if w &&& 0xFFFFF07F#32 = 0x0000300B#32 then .ok (.htxs (w.extractLsb' 7 5))
  else .error .hostWord

/-- The operation of an op10, its variant and imm32 (R288; R374, R365 and R378 share an op10 between two operations). -/
def laneKindOf (op10 : BitVec 10) (var : Variant) (imm : Word) : Option LaneKind :=
  match op10.toNat with
  | 0x010 => some .vadd
  | 0x011 => some .vsub
  | 0x012 => some .vmul
  | 0x013 => some .vmulh
  | 0x014 => some .vmulhn
  | 0x015 => some .vmad
  | 0x016 => some .vand
  | 0x017 => some .vor
  | 0x018 => some .vxor
  | 0x019 => some .vshl
  | 0x01A => some .vshr
  | 0x01B => some .vsar
  | 0x01C => some .vmin
  | 0x01D => some .vmax
  | 0x01E => some .vminn
  | 0x01F => some .vmaxn
  | 0x020 => some .vabs
  | 0x021 => some .vclz
  | 0x022 => some .vpopc
  | 0x023 => some .vbfx
  | 0x024 => some .vsel
  | 0x025 => some (if var = .alt6 then .vmovInd else .vmov)
  | 0x026 => some .vmovs
  | 0x027 => some .vcmp
  | 0x028 => some .vcmpn
  | 0x040 => some .vfadd
  | 0x041 => some .vfsub
  | 0x042 => some .vfmul
  | 0x043 => some .vfma
  | 0x044 => some .vfmin
  | 0x045 => some .vfmax
  | 0x046 => some .vfsgn
  | 0x047 => some .vfcmp
  | 0x048 => some .vfcls
  | 0x049 => some .vhfma
  | 0x04A => some .vbfma
  | 0x060 => some .vcvt
  | 0x061 => some .vcvts
  | 0x062 => some .vpack
  | 0x063 => some .vunpk
  | 0x080 => some .vcrsc
  | 0x081 => some .vcrat
  | 0x082 => some .vcrhy
  | 0x083 => some .vcrex
  | 0x084 => some .vcrlg
  | 0x085 => some .vcrsq
  | 0x086 => some .vcrrs
  | 0x087 => some .vcrdv
  | 0x088 => some .vcrth
  | 0x0C0 => some .vld
  | 0x0C1 => some .vldc
  | 0x0C2 => some .vldm
  | 0x0C3 => some .vst
  | 0x0C4 => some .vstc
  | 0x0C5 => some .vstn
  | 0x0C6 => some .vprf
  | 0x0C7 => some (if imm.getLsbD 7 then .vatomNtf else .vatom)
  | 0x0C8 => some .vcas
  | 0x0E0 => some .vshfl
  | 0x0E1 => some .vrot
  | 0x0E2 => some .vbcst
  | 0x0E3 => some .vscan
  | 0x0E4 => some .vred
  | 0x0E5 => some .vvote
  | 0x100 => some .vplog
  | 0x101 => some (if imm.getLsbD 0 then .vpmovP else .vpmovS)
  | 0x102 => some .vlane
  | 0x103 => some .vrng
  | _ => none

/-- The compact set (R289). -/
def compactKindOf (op8 : BitVec 8) : Option CompactKind :=
  match op8.toNat with
  | 0x10 => some .vadd
  | 0x11 => some .vsub
  | 0x12 => some .vmul
  | 0x16 => some .vand
  | 0x17 => some .vor
  | 0x18 => some .vxor
  | 0x19 => some .vshl
  | 0x1A => some .vshr
  | 0x1B => some .vsar
  | 0x1C => some .vmin
  | 0x1D => some .vmax
  | 0x24 => some .vsel
  | 0x25 => some .vmov
  | 0x27 => some .vcmp
  | 0x40 => some .vfadd
  | 0x41 => some .vfsub
  | 0x42 => some .vfmul
  | 0x43 => some .vfma
  | 0x44 => some .vfmin
  | 0x45 => some .vfmax
  | 0xC0 => some .vld
  | 0xC3 => some .vst
  | 0xE0 => some .vshfl
  | _ => none

/-- The single form (R285). -/
def decodeSingle (w : BitVec 96) : Except DecodeError Instr :=
  let ty := laneTyOf (w.extractLsb' 35 3)
  let var := variantOf (w.extractLsb' 32 3)
  let imm := w.extractLsb' 0 32
  match laneKindOf (w.extractLsb' 84 10) var imm with
  | none => .error .reservedOp10
  | some k => .ok (k.instr
      { vd := w.extractLsb' 76 8, va := w.extractLsb' 68 8, vb := w.extractLsb' 60 8, vc := w.extractLsb' 52 8
        pneg := w.getLsbD 51, pidx := w.extractLsb' 48 3, la := w.extractLsb' 44 4, ss := w.extractLsb' 38 6
        ty := ty, var := var, imm := imm, compact := false })

/-- One operation of a pair word (R287). -/
def decodeCompact (w : BitVec 47) : Except DecodeError CompactOp :=
  match compactKindOf (w.extractLsb' 39 8) with
  | none => .error .reservedCompact
  | some k =>
    if w.getLsbD 6 then .error .reservedCompact
    else .ok { kind := k, vd := w.extractLsb' 31 8, va := w.extractLsb' 23 8, vb := w.extractLsb' 15 8
               pneg := w.getLsbD 14, pidx := w.extractLsb' 11 3, la := w.extractLsb' 7 4
               ty := laneTyOf (w.extractLsb' 3 3), var := variantOf (w.extractLsb' 0 3) }

/-- The pair form (R287); the first operation that does not decode names the error. -/
def decodePair (w : BitVec 96) : Except DecodeError Instr :=
  match decodeCompact (w.extractLsb' 47 47), decodeCompact (w.extractLsb' 0 47) with
  | .ok x, .ok y => .ok (.pairWord x y)
  | .error e, _ => .error e
  | _, .error e => .error e

/-- The lane word of 96 bits by its kind (R284). -/
def decodeLane (w : BitVec 96) : Except DecodeError Instr :=
  match (w.extractLsb' 94 2).toNat with
  | 0 => decodeSingle w
  | 1 => decodePair w
  | _ => .error .laneKind

/-- Little-endian bytes as one word: the first byte is the lowest (R2, R280, R284). -/
def wordOfBytes (n : Nat) (bs : List Byte) : BitVec n :=
  BitVec.ofNat n (bs.foldr (fun b acc => b.toNat + 256 * acc) 0)

/-- The bytes of a word, lowest first. -/
def bytesOfNat : Nat → Nat → List Byte
  | 0, _ => []
  | k + 1, x => BitVec.ofNat 8 x :: bytesOfNat k (x / 256)

/-- A scalar word from its bytes. -/
def decodeScalarBytes (bs : List Byte) : Except DecodeError Instr := decodeScalar (wordOfBytes 32 bs)
/-- A lane word from its bytes. -/
def decodeLaneBytes (bs : List Byte) : Except DecodeError Instr := decodeLane (wordOfBytes 96 bs)

/-- The instruction a word of the opcode table's numbering stands for: 32 bits a scalar word or else a host-core word, 96 bits a lane word. -/
def decodeTableWord (nbits w : Nat) : Option Instr :=
  if nbits ≤ 32 then
    match decodeScalarBytes (bytesOfNat 4 w) with
    | .ok i => some i
    | .error _ =>
      match decodeHost (wordOfBytes 32 (bytesOfNat 4 w)) with
      | .ok i => some i
      | .error _ => none
  else
    match decodeLaneBytes (bytesOfNat 12 w) with
    | .ok i => some i
    | .error _ => none

/-- The scalar word of an instruction (R280 to R283); none for the rest. -/
def encodeScalar (i : Instr) : Option (BitVec 32) :=
  match i with
  | .add d a b => some (1#6 ++ d ++ a ++ b ++ 0#8)
  | .addImm d a i => some (3#6 ++ d ++ a ++ i)
  | .sub d a b => some (1#6 ++ d ++ a ++ b ++ 16#8)
  | .and d a b => some (1#6 ++ d ++ a ++ b ++ 32#8)
  | .andImm d a i => some (4#6 ++ d ++ a ++ i)
  | .or d a b => some (1#6 ++ d ++ a ++ b ++ 48#8)
  | .orImm d a i => some (5#6 ++ d ++ a ++ i)
  | .xor d a b => some (1#6 ++ d ++ a ++ b ++ 64#8)
  | .xorImm d a i => some (6#6 ++ d ++ a ++ i)
  | .shl d a b => some (1#6 ++ d ++ a ++ b ++ 80#8)
  | .shlImm d a s => some (7#6 ++ d ++ a ++ 0#9 ++ s)
  | .shr d a b => some (1#6 ++ d ++ a ++ b ++ 96#8)
  | .shrImm d a s => some (8#6 ++ d ++ a ++ 0#9 ++ s)
  | .sar d a b => some (1#6 ++ d ++ a ++ b ++ 112#8)
  | .sarImm d a s => some (9#6 ++ d ++ a ++ 0#9 ++ s)
  | .min d a b => some (1#6 ++ d ++ a ++ b ++ 128#8)
  | .max d a b => some (1#6 ++ d ++ a ++ b ++ 144#8)
  | .minn d a b => some (1#6 ++ d ++ a ++ b ++ 160#8)
  | .maxn d a b => some (1#6 ++ d ++ a ++ b ++ 176#8)
  | .slt d a b => some (1#6 ++ d ++ a ++ b ++ 192#8)
  | .sltImm d a i => some (10#6 ++ d ++ a ++ i)
  | .sltn d a b => some (1#6 ++ d ++ a ++ b ++ 208#8)
  | .sltnImm d a i => some (11#6 ++ d ++ a ++ i)
  | .seq d a b => some (1#6 ++ d ++ a ++ b ++ 224#8)
  | .seqImm d a i => some (12#6 ++ d ++ a ++ i)
  | .sel d a b => some (1#6 ++ d ++ a ++ b ++ 240#8)
  | .mul d a b l => some (2#6 ++ d ++ a ++ b ++ 0#4 ++ l)
  | .mulh d a b l => some (2#6 ++ d ++ a ++ b ++ 1#4 ++ l)
  | .mulhn d a b l => some (2#6 ++ d ++ a ++ b ++ 2#4 ++ l)
  | .clz d a => some (2#6 ++ d ++ a ++ 48#14)
  | .popc d a => some (2#6 ++ d ++ a ++ 64#14)
  | .dadd d a b => some (2#6 ++ d ++ a ++ b ++ 80#8)
  | .dsub d a b => some (2#6 ++ d ++ a ++ b ++ 96#8)
  | .bfx d a p n => some (13#6 ++ d ++ a ++ 0#4 ++ p ++ n)
  | .bfi d a p n => some (14#6 ++ d ++ a ++ 0#4 ++ p ++ n)
  | .li d i => some (15#6 ++ d ++ i)
  | .lih d i => some (16#6 ++ d ++ i)
  | .ldw d a o l => some (17#6 ++ d ++ a ++ o ++ l)
  | .ldd d a o l => some (18#6 ++ d ++ a ++ o ++ l)
  | .stw d a o l => some (19#6 ++ d ++ a ++ o ++ l)
  | .std d a o l => some (20#6 ++ d ++ a ++ o ++ l)
  | .stn d a o l => some (21#6 ++ d ++ a ++ o ++ l)
  | .atomClu d a b f l => some (22#6 ++ d ++ a ++ b ++ f ++ l)
  | .atomDie d a b f l => some (23#6 ++ d ++ a ++ b ++ f ++ l)
  | .atomPkg d a b f l => some (24#6 ++ d ++ a ++ b ++ f ++ l)
  | .atomNode d a b f l => some (25#6 ++ d ++ a ++ b ++ f ++ l)
  | .atomPod d a b f l => some (26#6 ++ d ++ a ++ b ++ f ++ l)
  | .b d => some (27#6 ++ d)
  | .call d => some (28#6 ++ d)
  | .bc a c d => some (29#6 ++ a ++ c ++ d)
  | .bd p n d j => some (30#6 ++ p ++ n ++ d ++ j)
  | .bx a => some (1984#12 ++ a ++ 0#14)
  | .callr a => some (1984#12 ++ a ++ 16#14)
  | .ret => some (2080374816#32)
  | .exit => some (2080374832#32)
  | .nop => some (2080374848#32)
  | .trap => some (2080374864#32)
  | .tret => some (2080374880#32)
  | .fenceAcq s => some (131072#18 ++ s ++ 0#8)
  | .fenceRel s => some (131072#18 ++ s ++ 16#8)
  | .fenceFull s => some (131072#18 ++ s ++ 32#8)
  | .bari a b => some (2048#12 ++ a ++ b ++ 48#8)
  | .arv c a b => some (32#6 ++ c ++ a ++ b ++ 64#8)
  | .waitb c a b => some (32#6 ++ c ++ a ++ b ++ 80#8)
  | .wpath n b => some (32#6 ++ n ++ 0#6 ++ b ++ 96#8)
  | .rngw d a b => some (32#6 ++ d ++ a ++ b ++ 112#8)
  | .lot d => some (32#6 ++ d ++ 128#20)
  | .wlot a => some (2048#12 ++ a ++ 144#14)
  | .mfs d r => some (33#6 ++ d ++ 0#6 ++ r ++ 0#8)
  | .mts a r => some (2112#12 ++ a ++ r ++ 16#8)
  | .lq a b => some (2112#12 ++ a ++ b ++ 32#8)
  | .gjoin d a => some (33#6 ++ d ++ a ++ 48#14)
  | .gleave d => some (33#6 ++ d ++ 64#20)
  | .sndm a b => some (2112#12 ++ a ++ b ++ 80#8)
  | .pgmv c a b l => some (33#6 ++ c ++ a ++ b ++ 6#4 ++ l)
  | .txb d a n => some (33#6 ++ d ++ a ++ 0#2 ++ n ++ 112#8)
  | .txbF d a n => some (33#6 ++ d ++ a ++ 1#2 ++ n ++ 112#8)
  | .txc => some (2214592640#32)
  | .txa c => some (135168#18 ++ c ++ 144#8)
  | .txst d => some (33#6 ++ d ++ 160#20)
  | .xrd d a b => some (33#6 ++ d ++ a ++ b ++ 176#8)
  | .xwr v a b => some (33#6 ++ v ++ a ++ b ++ 192#8)
  | .xres a b => some (2112#12 ++ a ++ b ++ 208#8)
  | .mma a n x y k l => some (34#6 ++ a ++ n ++ x ++ y ++ k ++ l)
  | .mmax a n x y l => some (35#6 ++ a ++ n ++ x ++ y ++ 1#4 ++ l)
  | .mmlut a n x y k l => some (36#6 ++ a ++ n ++ x ++ y ++ k ++ l)
  | .mmz n l => some (2368#12 ++ n ++ 0#12 ++ l)
  | .mmld a n l => some (37#6 ++ a ++ n ++ 1#12 ++ l)
  | .mmst a n f l => some (37#6 ++ a ++ n ++ f ++ 2#8 ++ l)
  | .mmstRelu a n f l => some (37#6 ++ a ++ n ++ f ++ 130#8 ++ l)
  | .cpy a s l => some (38#6 ++ a ++ 0#9 ++ s ++ 0#4 ++ l)
  | .lmtst a w l => some (38#6 ++ a ++ 0#9 ++ w ++ 1#4 ++ l)
  | .lmwt a w => some (38#6 ++ a ++ 0#9 ++ w ++ 32#8)
  | .lmclr a w => some (38#6 ++ a ++ 0#9 ++ w ++ 48#8)
  | .gth a s i l => some (39#6 ++ a ++ 0#8 ++ s ++ i ++ 0#4 ++ l)
  | .sct a c s i l => some (39#6 ++ a ++ 0#6 ++ c ++ s ++ i ++ 1#4 ++ l)
  | .rdxt a s l => some (39#6 ++ a ++ 0#9 ++ s ++ 2#4 ++ l)
  | .rdxa a s l => some (39#6 ++ a ++ 0#9 ++ s ++ 3#4 ++ l)
  | .nbcfg a r s l => some (40#6 ++ a ++ 0#8 ++ r ++ s ++ 0#4 ++ l)
  | .nbin a r s l => some (40#6 ++ a ++ 0#8 ++ r ++ s ++ 1#4 ++ l)
  | .npairH a r s l => some (40#6 ++ a ++ 0#8 ++ r ++ s ++ 2#4 ++ l)
  | .npairF a r s l => some (40#6 ++ a ++ 0#8 ++ r ++ s ++ 3#4 ++ l)
  | .nchk a r s l => some (40#6 ++ a ++ 0#8 ++ r ++ s ++ 4#4 ++ l)
  | .nbst a s l => some (40#6 ++ a ++ 0#9 ++ s ++ 5#4 ++ l)
  | .cbinK a r s l => some (40#6 ++ a ++ 0#8 ++ r ++ s ++ 6#4 ++ l)
  | .cbinL a r s l => some (40#6 ++ a ++ 0#8 ++ r ++ s ++ 7#4 ++ l)
  | _ => none

/-- The host-core word of an instruction (R143). -/
def encodeHost (i : Instr) : Option (BitVec 32) :=
  match i with
  | .htxb i d => some (i ++ 0#8 ++ d ++ 11#7)
  | .htxbF d => some (8#20 ++ d ++ 11#7)
  | .htxc => some (4107#32)
  | .htxa c => some (0#6 ++ c ++ 8203#20)
  | .htxs d => some (3#20 ++ d ++ 11#7)
  | _ => none

/-- The op8 of a compact operation (R289). -/
def compactOp8 : CompactKind → BitVec 8
  | .vadd => 0x10
  | .vsub => 0x11
  | .vmul => 0x12
  | .vand => 0x16
  | .vor => 0x17
  | .vxor => 0x18
  | .vshl => 0x19
  | .vshr => 0x1A
  | .vsar => 0x1B
  | .vmin => 0x1C
  | .vmax => 0x1D
  | .vsel => 0x24
  | .vmov => 0x25
  | .vcmp => 0x27
  | .vfadd => 0x40
  | .vfsub => 0x41
  | .vfmul => 0x42
  | .vfma => 0x43
  | .vfmin => 0x44
  | .vfmax => 0x45
  | .vld => 0xC0
  | .vst => 0xC3
  | .vshfl => 0xE0

/-- The single form of a lane operation (R285). -/
def encodeSingle (k : LaneKind) (o : LaneOp) : BitVec 96 :=
  0#2 ++ k.op10 ++ o.vd ++ o.va ++ o.vb ++ o.vc ++ BitVec.ofBool o.pneg ++ o.pidx ++ o.la ++ o.ss ++ laneTyCode o.ty ++
    variantCode o.var ++ o.imm

/-- A compact operation's fields (R287). -/
def encodeCompact (c : CompactOp) : BitVec 47 :=
  compactOp8 c.kind ++ c.vd ++ c.va ++ c.vb ++ BitVec.ofBool c.pneg ++ c.pidx ++ c.la ++ 0#1 ++ laneTyCode c.ty ++
    variantCode c.var

/-- The lane word of an operation or a pair (R284, R285, R287). -/
def encodeLane (i : Instr) : Option (BitVec 96) :=
  match i with
  | .pairWord x y => some (1#2 ++ encodeCompact x ++ encodeCompact y)
  | i => match i.lane? with
    | some (k, o) => some (encodeSingle k o)
    | none => none

/-- A word by the stream or core that executes it. -/
inductive CodeWord where
  | scalar (w : BitVec 32)
  | host (w : BitVec 32)
  | lane (w : BitVec 96)
  deriving DecidableEq, Repr

/-- The word of an instruction; an event of the machine has none. -/
def encode (i : Instr) : Option CodeWord :=
  match encodeScalar i with
  | some w => some (.scalar w)
  | none => match encodeHost i with
    | some w => some (.host w)
    | none => (encodeLane i).map .lane

/-- The instruction a word stands for. -/
def decode : CodeWord → Except DecodeError Instr
  | .scalar w => decodeScalar w
  | .host w => decodeHost w
  | .lane w => decodeLane w

end Sys2Proof
end

