-- ==== Sys2Proof/Config.lean ====
section
/-! DEFINITION. What an implementation of the EN9240 decides and the manual leaves open: free values, which no proof can see. -/

namespace Sys2Proof

/-- The choice of which enabled agent acts next, by a plain counter (R52 orders one partition only; log entry 2). -/
opaque Config.pick : Nat → Nat

/-- A byte whose contents the manual does not define, by a plain counter (R60, R212, R219; log entry 4). -/
opaque Config.freeByte : Nat → Byte

/-- A 32-bit value the manual does not state, by a plain counter (log entry 5). -/
opaque Config.freeWord : Nat → Word

/-- The value a CORDIC unit proposes for function code fn, n iterations and operands a, b; second for the second result (R92; log entry 7). -/
opaque Config.cordic : (fn n : Nat) → (second : Bool) → (a b : Word) → Word

/-- The bit of a 512-bit signature that a line sets (R153): two lines with one bit hit each other's signatures (log entry 8). -/
opaque Config.sigHash : Nat → Nat

/-- The bank, modulo 8, of its slice that holds a line (R118; log entry 66). -/
opaque Config.sliceBank : Nat → Nat

/-- Size of a cache line in bytes (R115). -/
def Config.lineBytes : Nat := 128
/-- Size of a granule in bytes (R228). -/
def Config.granuleBytes : Nat := 2097152
/-- Frames of a pool (R229). -/
def Config.poolFrames (pool : Nat) : Nat := if pool < 4 then 65536 else 524288

end Sys2Proof
end

