-- ==== Sys2Proof/Machine/Numbers.lean ====
section
/-! DEFINITION. Number formats, exact arithmetic, rounding, conversions and the index tree (04_numbers.md). -/

namespace Sys2Proof.Machine

/-- An exact value: NaN, an infinity, or (-1)^neg x m x 2^e (R64); m = 0 is a signed zero. -/
inductive FVal where
  | nan
  | inf (neg : Bool)
  | num (neg : Bool) (m : Nat) (e : Int)
  deriving DecidableEq, Repr

/-- A floating-point format (R64): exponent and mantissa widths, bias, whether it has infinities and NaNs, its largest finite magnitude and canonical NaN (R65). -/
structure FloatFmt where
  ebits : Nat
  mbits : Nat
  bias : Nat
  hasInf : Bool
  hasNan : Bool
  maxEnc : Nat
  nan : Nat
  deriving DecidableEq, Repr

/-- The element formats of R64, R67, R68 and R356. -/
inductive NumFmt where
  | fp32 | bf16 | fp16 | e5m2 | e4m3 | e3m2 | e2m3 | e2m1 | int8 | int4 | int32 | n32 | e8m0 | int16 | n16
  deriving DecidableEq, Repr

/-- The format codes of VCVT (R356). -/
def NumFmt.ofCode : Nat → Option NumFmt
  | 0 => some .fp32 | 1 => some .bf16 | 2 => some .fp16 | 3 => some .e5m2 | 4 => some .e4m3 | 5 => some .e3m2
  | 6 => some .e2m3 | 7 => some .e2m1 | 8 => some .int8 | 9 => some .int4 | 10 => some .int32 | 11 => some .n32
  | 12 => some .e8m0 | 13 => some .int16 | 14 => some .n16 | _ => none

/-- The width of an element in bits (R64, R68, R356). -/
def NumFmt.width : NumFmt → Nat
  | .fp32 => 32 | .bf16 => 16 | .fp16 => 16 | .e5m2 => 8 | .e4m3 => 8 | .e3m2 => 6 | .e2m3 => 6 | .e2m1 => 4
  | .int8 => 8 | .int4 => 4 | .int32 => 32 | .n32 => 32 | .e8m0 => 8 | .int16 => 16 | .n16 => 16

/-- The floating-point formats of R64 and R65; none for integers and E8M0. -/
def NumFmt.float : NumFmt → Option FloatFmt
  | .fp32 => some ⟨8, 23, 127, true, true, 0x7F7FFFFF, 0x7FC00000⟩
  | .bf16 => some ⟨8, 7, 127, true, true, 0x7F7F, 0x7FC0⟩
  | .fp16 => some ⟨5, 10, 15, true, true, 0x7BFF, 0x7E00⟩
  | .e5m2 => some ⟨5, 2, 15, true, true, 0x7B, 0x7E⟩
  | .e4m3 => some ⟨4, 3, 7, false, true, 0x7E, 0x7F⟩
  | .e3m2 => some ⟨3, 2, 3, false, false, 0x1F, 0⟩
  | .e2m3 => some ⟨2, 3, 1, false, false, 0x1F, 0⟩
  | .e2m1 => some ⟨2, 1, 1, false, false, 0x7, 0⟩
  | _ => none

/-- The range of an integer format (R68). -/
def NumFmt.range : NumFmt → Int × Int
  | .int8 => (-128, 127) | .int4 => (-8, 7) | .int16 => (-32768, 32767) | .n16 => (0, 65535)
  | .n32 => (0, 4294967295) | _ => (-2147483648, 2147483647)

/-- Whether the integer format is unsigned (R68). -/
def NumFmt.unsigned : NumFmt → Bool
  | .n32 | .n16 => true
  | _ => false

/-- The value of an encoding of a floating-point format (R64). -/
def FloatFmt.value (f : FloatFmt) (x : Nat) : FVal :=
  let neg := (x >>> (f.ebits + f.mbits)) % 2 == 1
  let e := (x >>> f.mbits) % 2 ^ f.ebits
  let m := x % 2 ^ f.mbits
  let mag := x % 2 ^ (f.ebits + f.mbits)
  if f.hasInf && e == 2 ^ f.ebits - 1 then (if m == 0 then .inf neg else .nan)
  else if f.hasNan && !f.hasInf && mag == f.maxEnc + 1 then .nan
  else if e == 0 then .num neg m (1 - (f.bias : Int) - f.mbits)
  else .num neg (2 ^ f.mbits + m) ((e : Int) - f.bias - f.mbits)

/-- A w-bit pattern read as two's complement. -/
def signedOf (w x : Nat) : Int := if x % 2 ^ w < 2 ^ (w - 1) then ((x % 2 ^ w : Nat) : Int) else ((x % 2 ^ w : Nat) : Int) - (2 ^ w : Nat)

/-- An integer as an exact value. -/
def FVal.ofInt (i : Int) : FVal := .num (decide (i < 0)) i.natAbs 0

/-- The value of an element (R64, R67, R68). -/
def NumFmt.value (f : NumFmt) (x : Nat) : FVal :=
  match f.float with
  | some ff => ff.value x
  | none =>
    if f = .e8m0 then (if x % 256 == 255 then .nan else .num false 1 ((x % 256 : Nat) - 127))
    else if f.unsigned then .ofInt ((x % 2 ^ f.width : Nat) : Int)
    else .ofInt (signedOf f.width x)

/-- Rounding modes (R74). -/
inductive RoundMode where
  | rne | rz | ru | rd
  deriving DecidableEq, Repr

/-- The mode a variant names (R74, R78). -/
def roundModeOf : Variant → RoundMode
  | .rz => .rz | .ru => .ru | .rd => .rd | _ => .rne

/-- m x 2^(-d) rounded to a whole number (R72, R74). -/
def roundShift (mode : RoundMode) (neg : Bool) (m d : Nat) : Nat :=
  let r := m >>> d
  let rem := m % 2 ^ d
  let up := match mode with
    | .rne => decide (2 ^ d < 2 * rem) || (decide (2 * rem = 2 ^ d) && decide (r % 2 = 1))
    | .rz => false
    | .ru => !neg && decide (0 < rem)
    | .rd => neg && decide (0 < rem)
  if d = 0 then m else if up then r + 1 else r

/-- m x 2^e scaled to a whole number of quanta 2^q, rounded (R72). -/
def roundScaled (mode : RoundMode) (neg : Bool) (m : Nat) (e q : Int) : Nat :=
  if q ≤ e then m <<< (e - q).toNat else roundShift mode neg m (q - e).toNat

/-- The result above the largest finite value (R78). -/
def FloatFmt.overflow (f : FloatFmt) (v : Variant) (neg : Bool) : Nat :=
  let inf := (2 ^ f.ebits - 1) <<< f.mbits
  if !f.hasInf then f.maxEnc
  else match v with
    | .sat | .rz => f.maxEnc
    | .ru => if neg then f.maxEnc else inf
    | .rd => if neg then inf else f.maxEnc
    | _ => inf

/-- The sign bit of a format. -/
def FloatFmt.sign (f : FloatFmt) (neg : Bool) : Nat := if neg then 2 ^ (f.ebits + f.mbits) else 0

/-- Conversion of an exact value to a floating-point format (R72, R78). -/
def FloatFmt.convert (f : FloatFmt) (v : Variant) : FVal → Nat × Bool
  | .nan => (f.nan, !f.hasNan)
  | .inf neg =>
    (f.sign neg + (if f.hasInf && v != .sat then (2 ^ f.ebits - 1) <<< f.mbits else f.maxEnc), false)
  | .num neg m e =>
    if m = 0 then (f.sign neg, false)
    else
      let top : Int := (Nat.log2 m : Int) + e
      let q : Int := max top (1 - (f.bias : Int)) - f.mbits
      let r := roundScaled (roundModeOf v) neg m e q
      let enc := if r < 2 ^ f.mbits then r else ((q + f.mbits + f.bias - 1).toNat) * 2 ^ f.mbits + r
      (f.sign neg + (if f.maxEnc < enc then f.overflow v neg else enc), false)

/-- The nearest whole number under a mode, with its sign. -/
def FVal.toInt (mode : RoundMode) : FVal → Int
  | .num neg m e => let r := roundScaled mode neg m e 0; if neg then -(r : Int) else r
  | _ => 0

/-- An integer clamped to a range. -/
def clampInt (lo hi x : Int) : Int := if x < lo then lo else if hi < x then hi else x

/-- A whole number as a w-bit pattern. -/
def wrapNat (w : Nat) (x : Int) : Nat := (x % (2 ^ w : Nat)).toNat

/-- Conversion to an integer format (R78). -/
def NumFmt.toInteger (f : NumFmt) (v : Variant) : FVal → Nat × Bool
  | .nan => (0, true)
  | .inf neg => (wrapNat f.width (if neg then f.range.1 else f.range.2), false)
  | x => (wrapNat f.width (clampInt f.range.1 f.range.2 (x.toInt (roundModeOf v))), false)

/-- Conversion to E8M0 (R79). -/
def toE8M0 : FVal → Nat
  | .num _ m e =>
    if m = 0 then 0
    else
      let k := (Nat.log2 m : Int) + e
      if k < -127 then 0 else if 127 < k then 0xFE else (k + 127).toNat
  | _ => 0xFF

/-- ConvertTo (R294): the bits and whether the invalid condition is raised (R75, R78, R79). -/
def NumFmt.convert (f : NumFmt) (v : Variant) (x : FVal) : Nat × Bool :=
  match f.float with
  | some ff => ff.convert v x
  | none => if f = .e8m0 then (toE8M0 x, false) else f.toInteger v x

/-- RoundF32 (R294). -/
def roundF32 (x : FVal) : Word := BitVec.ofNat 32 ((NumFmt.convert .fp32 .base x).1)

/-- An FP32 word as a value. -/
def f32 (x : Word) : FVal := NumFmt.value .fp32 x.toNat

/-- The canonical FP32 NaN (R65). -/
def nanF32 : Word := 0x7FC00000

/-- The signed whole number of quanta 2^q in a finite value. -/
def FVal.scaled (q : Int) : FVal → Int
  | .num neg m e => let k := (m <<< (e - q).toNat : Nat); if neg then -(k : Int) else k
  | _ => 0

/-- The exponent of a finite value. -/
def FVal.exp : FVal → Int
  | .num _ _ e => e
  | _ => 0

/-- The sign of a value. -/
def FVal.neg : FVal → Bool
  | .num n _ _ => n
  | .inf n => n
  | .nan => false

/-- Whether a value is a NaN. -/
def FVal.isNan : FVal → Bool
  | .nan => true
  | _ => false
/-- Whether a value is an infinity. -/
def FVal.isInf : FVal → Bool
  | .inf _ => true
  | _ => false
/-- Whether a value is a zero. -/
def FVal.isZero : FVal → Bool
  | .num _ m _ => m == 0
  | _ => false
/-- Whether a value is finite. -/
def FVal.isFinite : FVal → Bool
  | .num _ _ _ => true
  | _ => false

/-- The exact sum of finite values; an exact zero is -0 only when every term is -0 (R72, R81). -/
def sumFinite (xs : List FVal) : FVal :=
  let q := xs.foldl (fun a x => min a x.exp) ((xs.headD (.num false 0 0)).exp)
  let t : Int := xs.foldl (fun a x => a + x.scaled q) 0
  if t = 0 then .num (xs.all (fun x => x.neg)) 0 q else .num (decide (t < 0)) t.natAbs q

/-- The exact sum of values and whether infinities of opposite sign met with no NaN term (R73, R75, R82). -/
def sumVals (xs : List FVal) : FVal × Bool :=
  if xs.any FVal.isNan then (.nan, false)
  else
    let p := xs.any (fun x => x.isInf && !x.neg)
    let n := xs.any (fun x => x.isInf && x.neg)
    if p && n then (.nan, true)
    else if p then (.inf false, false)
    else if n then (.inf true, false)
    else (sumFinite xs, false)

/-- The exact product and whether it is a product of a zero and an infinity (R72, R75). -/
def mulVals (a b : FVal) : FVal × Bool :=
  match a, b with
  | .nan, _ => (.nan, false)
  | _, .nan => (.nan, false)
  | .num n1 m1 e1, .num n2 m2 e2 => (.num (n1 != n2) (m1 * m2) (e1 + e2), false)
  | a, b => if a.isZero || b.isZero then (.nan, true) else (.inf (a.neg != b.neg), false)

/-- Negation of a value (its sign bit inverted). -/
def FVal.negate : FVal → FVal
  | .num n m e => .num (!n) m e
  | .inf n => .inf (!n)
  | .nan => .nan

/-- Order of two values that are not NaN; -0 equals +0. -/
def FVal.lt : FVal → FVal → Bool
  | .inf a, .inf b => a && !b
  | .inf a, _ => a
  | _, .inf b => !b
  | a, b => let q := min a.exp b.exp; decide (a.scaled q < b.scaled q)

/-- VFMIN (R73). -/
def fminVal (a b : FVal) : FVal :=
  if a.isNan then b else if b.isNan then a
  else if a.lt b then a else if b.lt a then b else if a.neg then a else b

/-- VFMAX (R73). -/
def fmaxVal (a b : FVal) : FVal :=
  if a.isNan then b else if b.isNan then a
  else if a.lt b then b else if b.lt a then a else if a.neg then b else a

/-- An element of format f in base rounding. -/
def NumFmt.round (f : NumFmt) (x : FVal) : Nat := (f.convert .base x).1

/-- DownConvert (R85). -/
def downConvert (x scale : Word) (relu : Bool) (f : NumFmt) : Nat :=
  let y := f32 (roundF32 (mulVals (f32 scale) (f32 x)).1)
  let y := if relu && !y.isNan && y.neg then FVal.num false 0 0 else y
  f.round y

/-- The index tree over leaves whose keys lie below 2^levels (R86); a repeated key is combined first. -/
def tree {α : Type} (op : α → α → α) : Nat → List (Nat × α) → Option α
  | 0, xs => match xs with
    | [] => none
    | (_, x) :: rest => some (rest.foldl (fun a p => op a p.2) x)
  | k + 1, xs =>
    if xs.isEmpty then none
    else
      match tree op k (xs.filter (fun p => !(p.1.testBit k))), tree op k (xs.filter (fun p => p.1.testBit k)) with
      | none, b => b
      | a, none => a
      | some a, some b => some (op a b)

/-- The combine of two FP32 words by an exact operation, rounded once (R86). -/
def addF32 (a b : Word) : Word := roundF32 (sumVals [f32 a, f32 b]).1
/-- The smaller FP32 word (R73). -/
def minF32 (a b : Word) : Word := roundF32 (fminVal (f32 a) (f32 b))
/-- The larger FP32 word (R73). -/
def maxF32 (a b : Word) : Word := roundF32 (fmaxVal (f32 a) (f32 b))

end Sys2Proof.Machine
end

