-- ==== Sys2Proof/Machine/State.lean ====
section
/-! DEFINITION. The state of one EN9240 package as plain data, and its state after reset. -/

namespace Sys2Proof.Machine

/-- Memory as (address, byte) pairs, addresses strictly rising, no entry equal to the byte an unlisted address reads as. -/
abbrev Memory := List Host.Cell

/-- What an unlisted address reads as: 0 (scratch windows: R96; global memory: DESIGN CHOICE, log entry 1). -/
def Memory.unlisted : Byte := 0

/-- The two streams of a fragment (R26). -/
inductive Stream where
  | scalar | lane
  deriving DecidableEq, Repr

/-- A lane block: the words first to first + count - 1 of the lane text, of which done have issued (R27, R343);
ord is the program position of its LQ (R120). -/
structure Block where
  first : Nat
  count : Nat
  done : Nat
  ord : Nat
  deriving DecidableEq, Repr

/-- One side of a split that encloses a fragment (R31, R151): side 0 the not-taken arm or P, 1 the taken arm or Q, 2 E; trans marks a
transaction's split. -/
structure Arm where
  split : Nat
  side : Nat
  join : Word
  top : Bool
  trans : Bool
  deriving DecidableEq, Repr

/-- What a fragment is doing: running, waiting with a stall code of R267, stopped at its join, or waiting as a serialised arm. -/
inductive FragStatus where
  | running
  | waiting (stall : Nat)
  | atJoin
  | serial
  deriving DecidableEq, Repr

/-- The lookahead window of an incomplete long-latency instruction: how many more followers may issue (R55). -/
structure Window where
  id : Nat
  left : Nat
  deriving DecidableEq, Repr

/-- What an access names after steering (R94, R97, R99). -/
inductive Target where
  | win (stand : StandKey) (off : Nat)
  | ringRec (c : ClusterId) (ring : BitVec 6) (off : Nat)
  | ringCtl (c : ClusterId) (ring : BitVec 6) (off : Nat)
  | phys (pa : Nat)
  | stack (pa : Nat)
  | virt
  deriving DecidableEq, Repr

/-- How far one lane's access has come: not yet performed, waiting for a page walk, parked on a page request (R166),
sent to another package under a TAG, the first half of a notify-store done, done with a value, translated to a fault (code 0 for a page
with pending log entries; 256 and more for one that is delivered at once), failed with a code and subcode, or dropped with no effect (R150, R165). A parked access keeps the code with which a
refusal answers it. -/
inductive AccState where
  | todo
  | walking
  | parked (code : Nat)
  | sent (dst : PkgNo) (tag : BitVec 14)
  | half
  | done (v : DWord)
  | missed (code : Nat)
  | failed (code sub : Nat)
  | dropped
  deriving DecidableEq, Repr

/-- One lane's access (a scalar access is lane 0): its address, place, data and the place of its flag; consecutive 0x0A replies and page
requests that ended in Success; mode 0 plain, 1 transactional (R148), 2 under the fallback lock (R152); stage 1 is a notify
form at its flag, or a contribution in arrival order. at_ is the physical address that a global load goes to, got the value of a load that has been written (R121), stamp the
cluster cache's epoch when its line was asked for, and rows the lines of a stack access that have come (R99). -/
structure LaneAcc where
  lane : Nat
  va : DWord
  tgt : Target
  st : AccState
  data : DWord
  data2 : DWord
  fva : DWord
  ftgt : Target
  stage : Nat
  naks : Nat
  tries : Nat
  mode : Nat
  at_ : Option Nat
  got : Option DWord
  stamp : Nat
  rows : List (Nat × BitVec 1024)
  deriving DecidableEq, Repr

/-- What an access does (R294, R302, R365, R366, R139, R111, R333, R216). -/
inductive MemOp where
  | load | loadM | prefetch | store
  | atom (fn : Nat)
  | cas
  | notify
  | ntf (fn : Nat)
  | sndm | pgmv | nbst | cordic | rdx | lmtst | fetch | engine
  deriving DecidableEq, Repr

/-- Where a returning value goes. -/
inductive Dest where
  | none
  | sreg (bank : Bool) (r : Reg)
  | spair (bank : Bool) (r : Reg)
  | vreg (r : VReg)
  | vpair (r : VReg)
  deriving DecidableEq, Repr

/-- An access in flight (R112, R113). paths lists the paths it raised and whether each has returned; ord is its
program position in its fragment (R120): the LQ's for a lane word, and the word's place after it. splits are the splits that enclosed its fragment when
it issued (R36), and la is how many more followers may issue before it completes, when it is put back for a replay (R55, R56). -/
structure Flight where
  id : Nat
  frag : Nat
  splits : List Nat
  la : Nat
  stream : Stream
  pc : Word
  isY : Bool
  op : MemOp
  scope : Nat
  size : Nat
  signed : Bool
  dest : Dest
  lanes : List LaneAcc
  paths : List (Nat × Bool)
  ord : Nat × Nat
  deriving DecidableEq, Repr

/-- What is replayed when a trap returns (R56): nothing, the instruction itself, or the marked lanes of an access. -/
inductive Replay where
  | none
  | reissue
  | access (f : Flight)
  deriving DecidableEq, Repr

/-- A fault that a stream has met (R56, R174, R178); lot is the lot whose fault a WLOT reports (R198). -/
structure PendFault where
  stream : Stream
  pc : Word
  code : Nat
  sub : Nat
  lanes : Mask
  addr : DWord
  x : Bool
  y : Bool
  remote : Bool
  deferred : Bool
  replay : Replay
  ord : Nat × Nat
  lot : Option Nat := none
  deriving DecidableEq, Repr

/-- A transactional lane (R148, R150, R153): its read log, write buffer with byte masks, and, once doomed, cause and code. -/
structure LaneTx where
  lane : Nat
  doomed : Option (Nat × Nat)
  reads : List (Nat × Word)
  writes : List (Nat × Word × BitVec 4)
  deriving DecidableEq, Repr

/-- The transaction record of a fragment (R146, R147, R149, R152). spec counts its speculative attempts (R144), and nested the further entries that nested first TXBs
reserved (R147). -/
structure TxRec where
  restart : Word
  target : Word
  budget : Nat
  fb : Bool
  vreg : VReg
  attempt : Nat
  qarm : Bool
  lock : Bool
  lanes : List LaneTx
  fallback : List Nat
  reserved : Bool
  split : Nat
  spec : Nat
  nested : List Nat
  deriving DecidableEq, Repr

/-- No transaction (R146: every field of %txstatus reads 0). -/
def TxRec.idle : TxRec :=
  { restart := 0, target := 0, budget := 0, fb := false, vreg := 0, attempt := 0, qarm := false, lock := false
    lanes := [], fallback := [], reserved := false, split := 0, spec := 0, nested := [] }

/-- A fragment of a cord (R25, R30 to R37). after is the resume point of a re-issued instruction (R56); cur is the
block of the lane word issued last; count and words number its scalar instructions and lane words. -/
structure Fragment where
  id : Nat
  pc : Word
  after : Option Word
  mask : Mask
  owned : Mask
  bank : Bool
  arms : List Arm
  status : FragStatus
  queue : List Block
  cur : Block
  count : Nat
  words : Nat
  cyclesHi : Word
  winS : List Window
  winL : List Window
  faults : List PendFault
  tx : TxRec
  deriving DecidableEq, Repr

/-- A fragment that owns no lane. -/
def Fragment.blank : Fragment :=
  { id := 0, pc := 0, after := .none, mask := 0, owned := 0, bank := false, arms := [], status := .running, queue := []
    cur := { first := 0, count := 0, done := 0, ord := 0 }, count := 0, words := 0, cyclesHi := 0, winS := [], winL := [], faults := [], tx := TxRec.idle }

/-- The trap record (R178). -/
structure TrapRec where
  cause : Word
  pc : Word
  resume : Word
  lanes : Mask
  addr : DWord
  info : Word
  deriving DecidableEq, Repr

/-- The trap record before the first trap (R328). -/
def TrapRec.zero : TrapRec := { cause := 0, pc := 0, resume := 0, lanes := 0, addr := 0, info := 0 }

/-- Whether a cord runs, drains towards a trap (R56), holds a trap for the supervisor (R181), is stopped by XRD or XWR (R391),
or has ended (R40). -/
inductive CordMode where
  | running | draining | trapped | stopped | ended
  deriving DecidableEq, Repr

/-- One batch of matrix operations, which the LOT that closes it makes lot (n + 1) mod 256 (R197, R198). -/
structure Batch where
  n : Nat
  left : Nat
  fault : Option (Nat × DWord)
  deriving DecidableEq, Repr

/-- A cord: its identity, registers, fragments, accesses and trap record (R4, R21, R112, R177 to R180, R187, R197). While the user
handler runs, pend and asideOuter keep the fragment's pending faults and set-aside queue, and handlerLane the stream that trapped; handlerFrag is the fragment that it runs in, and the other
fragments older than trapNext stay stopped. trapFrag is the fragment of the trap record, stopFrag that of a cord that XRD or XWR has stopped (R390), and exitSeen tells that the PC sampler
has reported the cord's end (R268). -/
structure Cord where
  id : CordId
  mode : CordMode
  queue : QueueNo
  seq : Nat
  order : Nat
  pasid : Pasid
  stand : StandKey
  work : DWord
  index : Nat
  ncords : Nat
  alloc : Nat
  tiles : Nat
  stackSize : Nat
  text : DWord
  ltext : DWord
  lwords : Nat
  bank0 : Vector Word 64
  bank1 : Vector Word 64
  vregs : Vector LaneVec 256
  preds : Vector Mask 8
  acc : Vector (Vector Word 4096) 16
  frag : Fragment
  frags : List Fragment
  nextId : Nat
  topSplit : Bool
  flights : List Flight
  paths : Vector (BitVec 8) 6
  lots : Nat
  batches : List Batch
  trap : TrapRec
  stopPc : Word
  trapFrag : Nat
  stopFrag : Nat
  handlerFrag : Nat
  trapNext : Nat
  trapReplay : Replay
  aside : List Block
  asideOuter : List Block
  pend : List PendFault
  handlerLane : Bool
  handlerFlag : Bool
  uhandler : DWord
  cycles : DWord
  lastPcs : List Word
  exitPc : Word
  exitSeen : Bool
  deriving DecidableEq, Repr

/-- A zeroed scalar bank. -/
def zeroBank : Vector Word 64 := Vector.replicate 64 0

/-- A cord slot that holds no cord; lane registers and predicates at 0 (DESIGN CHOICE, log entry 3). -/
def Cord.blank : Cord :=
  { id := { core := 0, slot := 0, handler := false }, mode := .ended, queue := 0, seq := 0, order := 0, pasid := 0
    stand := { queue := 0, seq := 0, num := 0 }, work := 0, index := 0, ncords := 0, alloc := 16, tiles := 0
    stackSize := 0, text := 0, ltext := 0, lwords := 0, bank0 := zeroBank, bank1 := zeroBank
    vregs := Vector.replicate 256 (Vector.replicate 96 0), preds := Vector.replicate 8 0
    acc := Vector.replicate 16 (Vector.replicate 4096 0), frag := Fragment.blank, frags := [], nextId := 1
    topSplit := false, flights := [], paths := Vector.replicate 6 0, lots := 0, batches := [], trap := TrapRec.zero
    stopPc := 0, trapFrag := 0, stopFrag := 0, handlerFrag := 0, trapNext := 0, trapReplay := .none, aside := [], asideOuter := [], pend := [], handlerLane := false, handlerFlag := false, uhandler := 0, cycles := 0
    lastPcs := [], exitPc := 0, exitSeen := false }

/-- A matrix command (R188, R192 to R194) with its operand block; batch names the batch it joins (R197). -/
inductive MatOp where
  | mma (fa fb k : Nat)
  | mmax (fa fb src : Nat) (relu : Bool) (scale : Word)
  | mmlut (fa fb k : Nat)
  | mmz
  | mmld
  | mmst (fmt : Nat) (relu : Bool) (scale : Word)
  deriving DecidableEq, Repr

/-- A byte of a stand's window, and the scratch operand that named it (R184). -/
structure WinPos where
  key : StandKey
  off : Nat
  raw : Nat
  deriving DecidableEq, Repr

/-- A matrix command in its engine's queue: operands a, b, sa, sb and strides in bytes (R189); stand names its cord among those that use the slot one
after another; pc and frag are those of its instruction; fork is the identity below which the cord's accesses precede it (R137); snap holds the windows it reads as they were when it started
(R195). -/
structure MatCmd where
  cord : CordId
  pc : Word
  frag : Nat
  stand : StandKey
  op : MatOp
  tile : Nat
  a : WinPos
  b : WinPos
  sa : WinPos
  sb : WinPos
  strideA : Nat
  strideB : Nat
  batch : Nat
  fork : Nat
  running : Bool
  snap : List (StandKey × Memory)
  deriving DecidableEq, Repr

/-- The CORDIC functions (R92). -/
inductive CordicFn where
  | sc | rat | hy | ex | lg | sq | rs | dv | th
  deriving DecidableEq, Repr

/-- A CORDIC instruction in its partition's queue: per lane its results, the next beat to write, and the lanes that trap for an invalid
operand or a division by zero (R76, R91, R93). -/
structure CordicOp where
  cord : CordId
  flight : Nat
  vd : VReg
  two : Bool
  writes : Mask
  inv : Mask
  dz : Mask
  r0 : LaneVec
  r1 : LaneVec
  beat : Nat
  deriving DecidableEq, Repr

/-- What outlasts a cord that has ended with matrix operations running (R40, R198): its tiles and its batches. -/
structure DeadCord where
  cord : CordId
  stand : StandKey
  tiles : Nat
  acc : Vector (Vector Word 4096) 16
  batches : List Batch
  deriving DecidableEq, Repr

/-- A partition of a core (R51, R53, R186, R267, R268). rot is the age key (R51) of the cord at the rotation offset, and streakAt the clock that streak
counted last (R52). pipeA, pipeB and pipeX are the clocks from which FMA pipe A, FMA pipe B and the auxiliary pipe are free (R53). -/
structure Partition where
  mq : List MatCmd
  cordic : List CordicOp
  dead : List DeadCord
  rot : Option (Nat × Nat × Nat)
  streak : Nat
  streakAt : Option DWord
  pipeA : DWord
  pipeB : DWord
  pipeX : DWord
  parking : Bool
  parked : Bool
  stopped : Bool
  hist : Vector DWord 17
  stalls : Vector DWord 16
  sampleSlot : Nat
  exits : List (Nat × Word)
  deriving DecidableEq, Repr

/-- A partition after reset: nothing resident, unparked (R265). -/
def Partition.reset : Partition :=
  { mq := [], cordic := [], dead := [], rot := none, streak := 0, streakAt := none, pipeA := 0, pipeB := 0, pipeX := 0, parking := false, parked := false, stopped := false
    hist := Vector.replicate 17 0, stalls := Vector.replicate 16 0, sampleSlot := 0, exits := [] }

/-- A resident context: its PASID, since when it has been inactive, and whether it had an eligible stream in the idle clock counted last (R58, R59). -/
structure Ctx where
  pasid : Pasid
  inactive : Nat
  eligible : Bool
  deriving DecidableEq, Repr

/-- A reservation of R100. -/
structure Reservation where
  kind : Nat
  pasid : Pasid
  base : Nat
  size : Nat
  stackMax : Nat
  deriving DecidableEq, Repr

/-- A context streamed out to its save area (R60). -/
structure Saved where
  pasid : Pasid
  cords : List Cord
  deriving DecidableEq, Repr

/-- A record of a log entry: value, word index in the page, byte mask (R168). -/
structure LogRec where
  value : Word
  word : Nat
  mask : BitVec 4
  deriving DecidableEq, Repr

/-- An entry of the fault-deferral log (R168): flight is the access that it holds bytes of, stand names its cord among those that use the slot one after another, code is that of its page's translation fault, again tells that its page request has ended in Success, and pa is the physical page once its replay is
translated (R170). -/
structure LogEntry where
  index : Nat
  flight : Nat
  page : Nat
  pasid : Pasid
  slot : BitVec 6
  stand : StandKey
  discarded : Bool
  pc : Word
  atom : Option Nat
  scope : Nat
  seq : DWord
  recs : List LogRec
  code : Nat
  again : Bool
  pa : Option Nat
  deriving DecidableEq, Repr

/-- A cached translation: page size in address bits, permissions R, W, X (R161). -/
structure TlbEntry where
  pasid : Pasid
  page : Nat
  shift : Nat
  frame : Nat
  r : Bool
  w : Bool
  x : Bool
  deriving DecidableEq, Repr

/-- The supervisor handler image (R181, R262). -/
structure HandlerImage where
  base : Nat
  size : Nat
  entry : Nat
  deriving DecidableEq, Repr

/-- A compute core (R58, R59, R100, R161, R168, R181); handler is the supervisor handler image installed on it. -/
structure Core where
  ctxs : List Ctx
  active : Option Pasid
  quantumLeft : Nat
  idle : Nat
  resv : List Reservation
  saved : List Saved
  log : List LogEntry
  logSeq : DWord
  reqs : List CordId
  held : List CordId
  serving : Option CordId
  handler : Option HandlerImage
  tlb : List TlbEntry
  clock : DWord
  deriving DecidableEq, Repr

/-- A core after reset. -/
def Core.reset : Core :=
  { ctxs := [], active := none, quantumLeft := 0, idle := 0, resv := [], saved := [], log := [], logSeq := 0, reqs := []
    held := [], serving := none, handler := none, tlb := [], clock := 0 }

/-- A line of a cluster cache: its way, which is a bank in CACHE mode (R103), per-byte masks of held and of dirty bytes (R115, R124); stack marks a stack
line (R99). -/
structure CacheLine where
  addr : Nat
  way : BitVec 4
  valid : BitVec 128
  dirty : BitVec 128
  data : BitVec 1024
  stack : Bool
  deriving DecidableEq, Repr

/-- A grove: its PASID, key and members by grove index (R105); leaving holds members whose window others may no longer reach (R106). -/
structure Grove where
  pasid : Pasid
  key : Word
  members : List (Nat × StandKey)
  leaving : List StandKey
  deriving DecidableEq, Repr

/-- A ring in the cluster's ring table (R107, R108); recs is its record area, and failed holds its 128-byte runs that are marked failed (R173). -/
structure Ring where
  index : BitVec 6
  stand : StandKey
  pasid : Pasid
  j : Nat
  kind : Nat
  c : Nat
  bank : BitVec 4
  head : Word
  tail : Word
  recs : Memory
  failed : List Nat
  ended : Bool
  deriving DecidableEq, Repr

/-- A message for a ring (R111); local names the sending access of this package, or the request to acknowledge. -/
structure RingMsg where
  ring : BitVec 6
  payload : BitVec 128
  fromCord : Option (CordId × Nat)
  fromReq : Option Req
  deriving DecidableEq, Repr

/-- A slice of a copy: its source, offset and count, its contributing cord, and its fork (R137, R199, R201). -/
structure Slice where
  src : DWord
  win : Option WinPos
  off : Nat
  count : Nat
  cord : CordId
  stand : StandKey
  pasid : Pasid
  scope : Nat
  fork : Nat
  deriving DecidableEq, Repr

/-- A copy assembly or running copy (R201): desc, map and barrier lie in windows; chunk is the one being written; step 1 has every map bit set, step 2 its
STATUS written. -/
structure Copy where
  id : Nat
  desc : WinPos
  opener : StandKey
  dest : DWord
  win : Option WinPos
  map : WinPos
  barrier : Option WinPos
  expect : Nat
  arvn : Nat
  scope : Nat
  slices : List Slice
  started : Bool
  landed : BitVec 512
  chunk : Option Nat
  step : Nat
  fail : Option (Nat × Nat)
  deriving DecidableEq, Repr

/-- A cluster (R101 to R108, R111, R161, R186). epoch counts the times its cache has dropped bytes: a line that was asked for before is not kept when it comes (R127, R134). failed holds
the 128-byte runs of windows that are marked failed, badWays the lines of banks in CACHE mode that are, by way and set, and loose the runs of banks in the other modes on which no window
or ring lies now, by bank and run of a page (R173). -/
structure Cluster where
  bankmode : Word
  bankstat : Word
  changing : List (BitVec 4 × BitVec 2)
  lines : List CacheLine
  epoch : Nat
  groves : List Grove
  rings : List Ring
  inbound : List RingMsg
  copies : List Copy
  tlb : List TlbEntry
  failed : List (StandKey × Nat)
  badWays : List (BitVec 4 × Nat)
  loose : List (BitVec 4 × Nat)
  deriving DecidableEq, Repr

/-- A cluster after reset: every bank in CACHE mode (R101). -/
def Cluster.reset : Cluster :=
  { bankmode := 0, bankstat := 0, changing := [], lines := [], epoch := 0, groves := [], rings := [], inbound := [], copies := [], tlb := [], failed := [], badWays := [], loose := [] }

/-- A page walk in flight with its stamp and the permissions its accesses need (R161, R162): bit 0 R, bit 1 W, bit 2 X; engines are the engine commands that wait for it, each with
what it needs. -/
structure Walk where
  pasid : Pasid
  page : Nat
  stamp : DWord
  need : List Nat
  engines : List (Nat × Nat)
  deriving DecidableEq, Repr

/-- An outstanding page request with the content of its message (R165); engines names the engine commands that wait for it, each with the code that a refusal gives it (R166). -/
structure PageReq where
  pasid : Pasid
  page : Nat
  write : Bool
  read : Bool
  privileged : Bool
  last : Bool
  engines : List (Nat × Nat)
  deriving DecidableEq, Repr

/-- An invalidation that a die has begun (R162): its sequence number, the physical frames of the entries it dropped, and the accesses that they had
translated. -/
structure Inval where
  isn : DWord
  frames : List (Nat × Nat)
  flights : List (CordId × Nat)
  deriving DecidableEq, Repr

/-- A gather or scatter (R207): its operands, its fork (R137), how many elements it has handled, and the first failure (R210). -/
structure GatherCmd where
  id : Nat
  cord : CordId
  stand : StandKey
  pasid : Pasid
  scatter : Bool
  idx64 : Bool
  combine : Nat
  scope : Nat
  list : DWord
  listWin : Option WinPos
  count : Nat
  table : DWord
  size : Nat
  data : WinPos
  map : WinPos
  status : WinPos
  fork : Nat
  next : Nat
  first : Option (Nat × Nat)
  deriving DecidableEq, Repr

/-- A contribution to a reduction slot (R211, R213): the launch that issued it here, or the remote request to acknowledge. -/
structure Contribution where
  launch : Option (QueueNo × Nat)
  tree : Bool
  slot : Nat
  index : Word
  value : DWord
  scope : Nat
  reply : Option Req
  deriving DecidableEq, Repr

/-- A compute die (R49, R161 to R166, R186, R232, R265). once holds the registrar's replies that serve one access and are not kept (R232). -/
structure Die where
  ats : List TlbEntry
  walks : List Walk
  isn : DWord
  invals : List Inval
  invDone : Nat
  pageReqs : List PageReq
  requestsOff : Bool
  timeout : Word
  gathers : List GatherCmd
  rdx : List Contribution
  ownerCache : List (Gfn × PkgNo × Nat)
  once : List (Gfn × PkgNo)
  ownerInv : Nat
  clock10 : Nat
  clockNext : Option Nat
  reserved : Option (QueueNo × Nat × Nat)
  deriving DecidableEq, Repr

/-- A die after reset: 0.8 GHz (R265), page requests enabled (DESIGN CHOICE, log entry 3), no timeout (R166). -/
def Die.reset : Die :=
  { ats := [], walks := [], isn := 0, invals := [], invDone := 0, pageReqs := [], requestsOff := false, timeout := 0, gathers := [], rdx := []
    ownerCache := [], once := [], ownerInv := 0, clock10 := 8, clockNext := none, reserved := none }

/-- The neighbour-engine commands (R214). -/
inductive NbOp where
  | cfg | bin | chk | st
  | pair (full : Bool) (first count : Nat) (ring : ClusterId × BitVec 6)
  | cbin (byLen : Bool) (ring : Option (ClusterId × BitVec 6))
  deriving DecidableEq, Repr

/-- A command in a neighbour engine's queue (R216) and its progress: its fork (R137), phase 1 once it has started, the bytes of its descriptor that it checked then (R217, R224), the EPOCH
it read first or has still to write, the next particle or item, the pairs published, the particles skipped (R221), the coordinates read (R219), the largest squared displacement (R220), the
classes (R225), the records of a group that are written and not yet published (R221), and the fault that stops an NBIN (R219). -/
structure NbCmd where
  id : Nat
  op : NbOp
  cord : CordId
  stand : StandKey
  pasid : Pasid
  scope : Nat
  desc : DWord
  status : WinPos
  barrier : Option WinPos
  fork : Nat
  phase : Nat
  desc0 : BitVec 1024
  epoch : Word
  next : Nat
  pairs : Nat
  skipped : Nat
  firstSkip : Nat
  parts : List (Word × Word × Word)
  far : FVal
  classes : List (Option Nat)
  recs : List Nat
  stop : Option Nat
  deriving DecidableEq, Repr

/-- A user queue or the admin queue (R44, R45, R258, R261, R262). -/
structure Queue where
  num : QueueNo
  live : Bool
  priority : Nat
  pasid : Pasid
  ring : Nat
  q : Nat
  comp : Nat
  c : Nat
  vector : Option Nat
  dump : Nat
  dumpSize : Nat
  tail : Word
  head : Word
  chead : Word
  state : Nat
  suspended : Bool
  errored : Bool
  written : Word
  nextSeq : Nat
  destroying : Option Word
  deriving DecidableEq, Repr

/-- Queue 0 before the mailbox sets it: it fetches nothing (R258). -/
def Queue.reset : Queue :=
  { num := 0, live := false, priority := 0, pasid := 0, ring := 0, q := 0, comp := 0, c := 0, vector := none, dump := 0
    dumpSize := 0, tail := 0, head := 0, chead := 0, state := 0, suspended := false, errored := false, written := 0, nextSeq := 1, destroying := none }

/-- A launch the dispatcher has fetched (R45 to R48, R259, R261). nextGang counts gangs placed, ended the stands that ended, groups the level groups that
have completed; cleared names the dependences whose queue has since been destroyed. -/
structure Launch where
  queue : QueueNo
  seq : Nat
  record : BitVec 1024
  order : Option Nat
  nextGang : Nat
  placed : Nat
  ended : Nat
  depFailed : Bool
  groups : List (Nat × Nat)
  cleared : List Nat
  outcome : Option (Nat × Nat)
  done : Bool
  written : Bool
  deriving DecidableEq, Repr

/-- A completion record waiting to be written (R261); extra is bytes 24 to 27. -/
structure Completion where
  queue : QueueNo
  seq : Nat
  tag : Word
  status : Nat
  code : Nat
  extra : Word
  jseq : Nat
  cint : Bool
  deriving DecidableEq, Repr

/-- A placed stand (R20, R23, R96): its window, the bank of each page, its cords that have not ended. phase is 0 while it is resident, 1 once it is pre-empted
(R62), 2 while it streams back (R63); together names the stands that stream with it. -/
structure Stand where
  key : StandKey
  pasid : Pasid
  priority : Nat
  order : Nat
  cluster : ClusterId
  gang : Nat
  window : Memory
  size : Nat
  pages : List (BitVec 4)
  cordsLeft : Nat
  phase : Nat
  together : List StandKey
  deriving DecidableEq, Repr

/-- What an ended stand of a persistent launch still holds (R43): its slots with their registers in lane-register counts and their tiles, and the pages of its window. -/
structure HeldStand where
  key : StandKey
  cluster : ClusterId
  pages : List (BitVec 4)
  slots : List (CordId × Nat × Nat)
  deriving DecidableEq, Repr

/-- The dispatcher (R44, R49, R51). reserved is a package reservation. -/
structure Dispatcher where
  served : List (Nat × QueueNo)
  nextOrder : Nat
  reserved : Option (QueueNo × Nat)
  deriving DecidableEq, Repr

/-- The IOMMU's view of the compute side (R160): the register that names the device directory, and the device identity of the compute side's one device
context (layout: log entry 6); the invalidations it has forwarded, those that wait until the compute side's queue of 32 has room (R257), and the IOFENCE.C commands that wait, with the number each waits for (R162). -/
structure Iommu where
  ddtp : DWord
  device : BitVec 24
  sent : Nat
  queue : List (Option Pasid × Option Nat)
  fences : List (HostNo × Nat)
  deriving DecidableEq, Repr

/-- A checkpoint of a host core's registers (R156). -/
structure HostRegs where
  x : Vector DWord 32
  f : Vector DWord 32
  v : Vector (BitVec 256) 32
  deriving DecidableEq, Repr

/-- A host core: registers and transaction state (R11, R156, R157). waiting holds an HTXC or HTXB.F that waits, ticket an HTXC that has its ticket (R152), flush marks that an abort has left accesses of the
aborted path behind, exc is the exception of its own that it raised last: RISC-V cause, pc and value (R155, R290), and csrs holds the control and status registers that have been written,
by number (R11). -/
structure HostCore where
  regs : HostRegs
  pc : DWord
  active : Bool
  checkpoint : HostRegs
  rd : BitVec 5
  target : DWord
  reads : List Nat
  writes : Memory
  wlines : List Nat
  last : Word
  lock : Bool
  waiting : Bool
  ticket : Option Nat
  flush : Bool
  exc : Option (Nat × DWord × DWord)
  csrs : List (BitVec 12 × DWord)
  deriving DecidableEq, Repr

/-- Zeroed host registers (DESIGN CHOICE, log entry 3). -/
def HostRegs.zero : HostRegs := { x := Vector.replicate 32 0, f := Vector.replicate 32 0, v := Vector.replicate 32 0 }

/-- A host core after reset: no transaction, status 0 (R319). -/
def HostCore.reset : HostCore :=
  { regs := HostRegs.zero, pc := 0, active := false, checkpoint := HostRegs.zero, rd := 0, target := 0, reads := []
    writes := [], wlines := [], last := 0, lock := false, waiting := false, ticket := none, flush := false, exc := none, csrs := [] }

/-- Who holds the fallback lock (R152). -/
inductive LockHolder where
  | free
  | cord (c : CordId) (frag lane : Nat)
  | host (h : HostNo)
  deriving DecidableEq, Repr

/-- The almanac: ticket counter, fallback lock, and those that wait for it (R149, R152). -/
structure Almanac where
  tickets : Nat
  lock : LockHolder
  waiters : List LockHolder
  deriving DecidableEq, Repr

/-- The registrar's owner record (R231). -/
structure OwnerRec where
  gfn : Gfn
  owner : PkgNo
  pool : Nat
  moving : Bool
  retired : Bool
  stumps : Nat
  frame : Nat
  gen : Nat
  deriving DecidableEq, Repr

/-- A granule this package owns: pool and frame (R231). -/
structure Owned where
  gfn : Gfn
  pool : Nat
  frame : Nat
  deriving DecidableEq, Repr

/-- A stump (R251, R254): the new owner, the frame to free, the packages whose acknowledgement is missing. -/
structure Stump where
  gfn : Gfn
  owner : PkgNo
  gen : Nat
  pool : Nat
  frame : Nat
  missing : List PkgNo
  relayed : Bool
  deriving DecidableEq, Repr

/-- A migration request with the place of its status word: scratch of a stand (PGMV), or a physical address (MIGRATE). -/
inductive MigStatus where
  | scratch (stand : StandKey) (t : Target)
  | phys (pa : Nat)
  | remote
  | stripe
  deriving DecidableEq, Repr

/-- A migration request (R249). -/
structure MigReq where
  gfn : Gfn
  dest : PkgNo
  pool : Nat
  src : PkgNo
  tag : BitVec 14
  deriving DecidableEq, Repr

/-- A move in progress at the old owner (R250): its step, the generation it makes, the frame reserved at the new owner, the next chunk to copy, and the
accesses held. -/
structure Move where
  req : MigReq
  step : Nat
  gen : Nat
  frame : Nat
  chunk : Nat
  held : List (Nat × Req)
  deriving DecidableEq, Repr

/-- A granule on its way to this package as its new owner (R250): the frame reserved, who requested the move, and how many of its lines have still to arrive; at 0 the package serves it. -/
structure Incoming where
  gfn : Gfn
  old : PkgNo
  pool : Nat
  frame : Nat
  src : PkgNo
  tag : BitVec 14
  left : Nat
  deriving DecidableEq, Repr

/-- Who waits for the answer to a request this package sent (R238). -/
inductive Waiter where
  | none
  | access (c : CordId) (id lane : Nat) (flag : Bool)
  | writeBack (line : Nat)
  | engine (id pa : Nat) (write : Bool)
  | registrar (d : DieId) (gfn : Gfn) (inv : Nat)
  | rdx (c : CordId) (id : Nat)
  | migAcc (c : CordId) (id : Nat) (status : MigStatus)
  | mig (status : MigStatus)
  | reserve (gfn : Gfn)
  | copyChunk (gfn : Gfn)
  | announced (gfn : Gfn)
  | stumps (gfn : Gfn)
  | resend (tag : BitVec 14) (dst : PkgNo) (inv : Nat)
  | host (h : HostNo) (rd : BitVec 5) (hold : Bool)
  | hostWrite (h : HostNo)
  | device
  deriving DecidableEq, Repr

/-- A request sent and not yet answered (R238, R141): its operation, header, who waits, consecutive 0x0A replies (R172), whether it met one and is still to be sent again, and
whether it is bulk traffic (R246). -/
structure Outstanding where
  op : Nat
  req : Req
  waiter : Waiter
  naks : Nat
  held : Bool
  bulk : Bool
  deriving DecidableEq, Repr

/-- A message to another package (R237, R238). -/
inductive OutMsg where
  | req (op : Nat) (r : Req)
  | resp (op : Nat) (r : Resp)
  | neg (n : NegMsg)
  | redir (r : RedirMsg)
  deriving DecidableEq, Repr

/-- A sequenced flit sent and not acknowledged (R239, R242): its number, its 640 bytes, the messages that begin in it, the port that carried it last, its consecutive failures,
whether it has failed at all, and whether it is due to be sent again. -/
structure SentFlit where
  seq : Word
  bytes : List Byte
  msgs : List OutMsg
  port : Port
  fails : Nat
  failed : Bool
  due : Bool
  deriving DecidableEq, Repr

/-- A message of bulk traffic that waits for a match (R246): its destination, an address of the page that its route is taken from, and the message. -/
structure Bulk where
  dst : PkgNo
  addr : Nat
  msg : OutMsg
  deriving DecidableEq, Repr

/-- A message in the relay deck (R246): the package whose flit brought it, its destination, and the message. -/
structure Relayed where
  via : PkgNo
  dst : PkgNo
  msg : OutMsg
  deriving DecidableEq, Repr

/-- The sequence spaces shared with one peer (R239, R241, R242): messages that wait for a flit, payload still owed to headers of sent flits, next SEQ to send, SEQ expected,
unacknowledged flits, early flits, messages whose payload has not all arrived, whether later flits are discarded until the expected one comes, and whether a LINKACK or a LINKNAK is
due. -/
structure Peer where
  pkg : PkgNo
  out : List OutMsg
  owed : List Byte
  nextTx : Word
  expect : Word
  sent : List SentFlit
  early : List (Word × List Byte)
  part : List OutMsg
  dropping : Bool
  ackDue : Bool
  nakDue : Bool
  deriving DecidableEq, Repr

/-- A node link (R16, R233, R242, R271): idle before it is trained and while its partner position is empty, up, retraining, or down. -/
inductive LinkState where
  | idle | up | retraining | down
  deriving DecidableEq, Repr

/-- A line of a node partner held in this package's LLC (R124, R234). -/
structure PartnerLine where
  line : Nat
  owner : PkgNo
  modified : Bool
  data : BitVec 1024
  dirty : BitVec 128
  deriving DecidableEq, Repr

/-- A directory entry that is not I (R234): the partners named by node position, and whether one holds it in M. -/
structure DirEntry where
  line : Nat
  modified : Bool
  mask : BitVec 4
  deriving DecidableEq, Repr

/-- An announcement or redirect being applied: accesses to the granule sent to the old owner must end first (R141, R252). -/
structure Announce where
  gfn : Gfn
  old : PkgNo
  owner : PkgNo
  gen : Nat
  ackDue : Bool
  req : Option Req
  deriving DecidableEq, Repr

/-- The fabric side of the package (R228 to R256). Home granules not listed in gone lie where R229 puts them. slot counts the slots of the rotor switches; opened lists the fibres on
which this package has sent the opener of the present dwell, openers the peers that the openers of others have named; wire holds the last flit that each port has sent; deck is the relay
deck in units of 64 MiB, and relay what it holds (R243, R244, R246). -/
structure Fabric where
  joined : Bool
  num : PkgNo
  present : List PkgNo
  counts : List (PkgNo × List Nat)
  exposed : List Nat
  used : List (Nat × Nat)
  freed : List (Nat × Nat)
  retired : List (Nat × Nat)
  here : List Owned
  gone : List Gfn
  records : List OwnerRec
  stumps : List Stump
  moves : List Move
  waiting : List MigReq
  incoming : List Incoming
  pending : List OutMsg
  announces : List Announce
  gens : List (Gfn × Nat)
  peers : List Peer
  links : Vector LinkState 3
  failedFibres : List Nat
  slot : Nat
  opened : List Nat
  openers : List (Nat × PkgNo)
  wire : List (Port × List Byte)
  deck : Nat
  credits : List (PkgNo × Nat)
  bulk : List Bulk
  relay : List Relayed
  outstanding : List Outstanding
  outcomes : List (PkgNo × BitVec 14)
  nextTag : Nat
  partner : List PartnerLine
  directory : List DirEntry
  deriving DecidableEq, Repr

/-- The fabric before bring-up step 5: not joined (R271), nothing exposed or moved, sequence numbers 0 (R239). %package is 0 until the join assigns a number and the node links are idle
until the firmware trains them: R15 and R16 state neither value (DESIGN CHOICE, log entry 3). -/
def Fabric.reset : Fabric :=
  { joined := false, num := 0, present := [], counts := [], exposed := [0, 0, 0, 0, 0], used := [], freed := [], retired := [], here := []
    gone := [], records := [], stumps := [], moves := [], waiting := [], incoming := [], pending := [], announces := [], gens := []
    peers := [], links := Vector.replicate 3 .idle, failedFibres := [], slot := 0, opened := [], openers := [], wire := [], deck := 0, credits := []
    bulk := [], relay := [], outstanding := [], outcomes := [], nextTag := 0, partner := []
    directory := [] }

/-- A ring in memory that the device writes: base and log2 of its entries (R262, R263). -/
structure OutRing where
  base : Nat
  log2 : Nat
  deriving DecidableEq, Repr

/-- A watchpoint of a slice (R270). -/
structure Watch where
  line : Nat
  die : Nat
  slice : Nat
  mask : BitVec 128
  kinds : BitVec 3
  deriving DecidableEq, Repr

/-- A watchpoint hit (R270): kind 0 read, 1 write, 2 atomic; class 0 host, 1 cord, 2 engine, 3 remote; clock is the slice's clock count. -/
structure WatchHit where
  addr : Nat
  kind : Nat
  cls : Nat
  pkg : PkgNo
  clock : DWord
  deriving DecidableEq, Repr

/-- What a 32-byte event of the event ring holds: a watchpoint hit (R270), or an error event with its source and detail (R266). -/
inductive EventRec where
  | watch (h : WatchHit)
  | error (source detail : Nat)
  deriving DecidableEq, Repr

/-- An entry of the MSI-X table (R257): its vector, the address and data of its message, and whether it is masked. -/
structure MsixEntry where
  vector : Nat
  addr : DWord
  data : Word
  masked : Bool
  deriving DecidableEq, Repr

/-- Error counters of one class (R266). -/
structure ErrCount where
  cls : ErrClass
  count : Nat
  threshold : Option Nat
  vector : Option Nat
  raised : Bool
  deriving DecidableEq, Repr

/-- Management: journal, power, errors, observation, firmware (R262 to R271). eventData names what the entries of the event ring hold, by index; sliceClocks are the clock counts of the
slices of each die, touched the count at which each line was last accessed at its slice, and drowsy the banks at retention voltage (R118, R270); msixTable and msixPending are the table and
the pending bits of MSI-X, and msix the vectors whose messages have been sent (R257). trainFails is the mailbox's record of the training (R271). -/
structure Mgmt where
  journal : Option OutRing
  journalSeq : Nat
  quantum : Nat
  handlerNext : Option HandlerImage
  retain : Nat
  sleepAsked : BitVec 8
  asleep : BitVec 8
  waking : BitVec 8
  errors : List ErrCount
  sampler : Option (Nat × OutRing)
  sampleIndex : Nat
  sampleDropped : Nat
  events : Option OutRing
  eventIndex : Nat
  eventData : List (Nat × EventRec)
  watches : List Watch
  hits : List WatchHit
  sliceClocks : Vector DWord 5
  touched : List (Nat × DWord)
  drowsy : List SliceBank
  msixTable : List MsixEntry
  msixPending : List Nat
  msix : List Nat
  adminBusy : Option (Word × Nat × List Nat)
  image : Bool
  loadFail : Bool
  trainFails : BitVec 8
  countsSet : Bool
  deckSet : Bool
  step : Nat
  deriving DecidableEq, Repr

/-- Management after reset: bring-up goes on with step 2 (R59, R263 to R265, R271). -/
def Mgmt.reset : Mgmt :=
  { journal := none, journalSeq := 1, quantum := 0, handlerNext := none, retain := 0, sleepAsked := 0
    asleep := 0, waking := 0, errors := [], sampler := none, sampleIndex := 0, sampleDropped := 0, events := none
    eventIndex := 0, eventData := [], watches := [], hits := [], sliceClocks := Vector.replicate 5 0, touched := [], drowsy := []
    msixTable := [], msixPending := [], msix := [], adminBusy := none, image := false
    loadFail := false, trainFails := 0, countsSet := false, deckSet := false, step := 2 }

/-- A leaf of a reduction slot (R88, R213). -/
structure Leaf where
  slot : Nat
  index : Word
  value : DWord
  deriving DecidableEq, Repr

/-- What the unit latched at a slot's first contribution (R212). -/
structure Latch where
  slot : Nat
  kind : Nat
  expect : Nat
  leaves : Nat
  deriving DecidableEq, Repr

/-- The answer of a page request, or a negative reply, to an engine command (R166, R172): code 0 for Success. -/
structure EngAnswer where
  id : Nat
  page : Nat
  write : Bool
  code : Nat
  deriving DecidableEq, Repr

/-- A write of the device at virtual addresses, of which left bytes are still to be written: the low bytes of data, or bytes that the manual does not define. A core dump keeps what its
journal entry says, which follows it: queue, launch, place word and code (R183). -/
structure DevWrite where
  id : Nat
  die : DieId
  pasid : Pasid
  va : Nat
  left : Nat
  data : Option Nat
  dump : Option (QueueNo × Nat × Nat × Nat)
  deriving DecidableEq, Repr

/-- What an engine command has had done at an address of its own or of another package: a line read, or bytes written; code is that of a failure. -/
structure EngLine where
  id : Nat
  pa : Nat
  write : Bool
  code : Nat
  data : BitVec 1024
  deriving DecidableEq, Repr

/-- A line read of a VLDM in flight (R117, R135): its line, its cord and flight, and the values that the line has held at its point of coherence since the oldest read into which it
was absorbed. -/
structure MostlyRead where
  line : Nat
  cord : CordId
  flight : Nat
  values : List (BitVec 1024)
  deriving DecidableEq, Repr

/-- What a line of text held before a write, for the launches that had begun placement by then: those of a lower order (R293). -/
structure OldText where
  line : Nat
  order : Nat
  value : BitVec 1024
  deriving DecidableEq, Repr

/-- A WAITB that its bank holds (R205): the waiting fragment of a cord of a stand, in its user handler or not, the PC of its instruction, the barrier, the parity, and whether a change of PHASE
has released it. -/
structure BarrierWait where
  cord : CordId
  stand : StandKey
  frag : Nat
  inHandler : Bool
  pc : Word
  barrier : StandKey
  off : Nat
  parity : Bool
  released : Bool
  deriving DecidableEq, Repr

/-- A storage where a read has met an error that ECC finds (R173): a line of this package's memory, a run of a window, a run of a ring's records, a line of a cluster cache by way and set, or a cord's register files
or accumulators. -/
inductive EccPlace where
  | line (pa : Nat)
  | slice (pa : Nat)
  | run (stand : StandKey) (off : Nat)
  | ring (c : ClusterId) (i : BitVec 6) (off : Nat)
  | way (c : ClusterId) (way : BitVec 4) (set : Nat)
  | regs (c : CordId)
  deriving DecidableEq, Repr

/-- A turn: which agent acts (R52 orders one partition; the rest is open, log entry 2): a stream of a fragment, a host core's custom-0
word, an event of the table, a message that another package sent, an admin command, a host core's
access that waits, the log replay of a core (R170), an invalidation of a die (R162), a move of a granule (R250), a request of another package that waits here, the admin queue's next
command or the one being performed (R262), a write of the device at virtual addresses, an eviction from a cluster cache (R125), a directory entry or a partner line (R234), a drop to retention voltage (R118), a resend (R242), a flit that a port sends (R239), the firmware's training (R271), an error that a read of a storage meets, corrected by its retry or not (R173), or the host's setting of a threshold and an MSI-X vector for a class
of errors (R266). -/
inductive Turn where
  | scalar (c : CordId) (frag : Nat)
  | lane (c : CordId) (frag : Nat)
  | host (h : HostNo) (w : BitVec 32)
  | event (i : Instr)
  | message (m : OutMsg)
  | heard (p : PkgNo) (m : OutMsg)
  | link (peer : PkgNo) (nak : Bool) (seq : Word)
  | admin (c : AdminCmd)
  | hostAccess (h : HostNo)
  | replay (k : CoreId)
  | invalidate (d : DieId)
  | move (g : Gfn)
  | pending (n : Nat)
  | adminGo
  | device (id : Nat)
  | evict (c : ClusterId) (line : Nat) (writeBack : Bool)
  | dirEvict (line : Nat)
  | partnerEvict (line : Nat)
  | retention (b : SliceBank)
  | resend (p : PkgNo)
  | transmit (via : Port)
  | train
  | ecc (p : EccPlace) (corrected : Bool)
  | threshold (cls : ErrClass) (limit vector : Option Nat)
  deriving DecidableEq, Repr

/-- The state of the package. cord is the cord that issues, cords are the others; host is the host core that issues.
agenda, inputs, tick and nextId are the model's own (log entry 2); inputs holds what the outside brings; hostWords holds the custom-0 words of host cores that wait;
hostWait holds host accesses that wait for a line or an answer. oldText holds what lines held before later writes, and what lines of other packages held when text was fetched from them, while launches run (R293). -/
structure State where
  agenda : List Turn
  inputs : List Turn
  tick : Nat
  nextId : Nat
  cord : Cord
  cords : List Cord
  hostNo : HostNo
  hosts : Vector HostCore 96
  hostWait : List HostAccess
  hostWords : List (HostNo × BitVec 32)
  mem : Memory
  failed : List Nat
  leaves : List Leaf
  latches : List Latch
  mostly : List MostlyRead
  oldText : List OldText
  bwaits : List BarrierWait
  answers : List EngAnswer
  englines : List EngLine
  devWrites : List DevWrite
  parts : Vector Partition 1024
  cores : Vector Core 256
  clusters : Vector Cluster 64
  dies : Vector Die 4
  quads : Vector (List NbCmd) 16
  queues : List Queue
  launches : List Launch
  stands : List Stand
  held : List HeldStand
  completions : List Completion
  disp : Dispatcher
  iommu : Iommu
  almanac : Almanac
  fabric : Fabric
  mgmt : Mgmt
  deriving DecidableEq, Repr

/-- The package right after reset. -/
def State.reset : State :=
  { agenda := [], inputs := [], tick := 0, nextId := 1, cord := Cord.blank, cords := [], hostNo := 0
    hosts := Vector.replicate 96 HostCore.reset, hostWait := [], hostWords := [], mem := [], failed := [], leaves := [], latches := [], mostly := [], oldText := [], bwaits := [], answers := [], englines := [], devWrites := []
    parts := Vector.replicate 1024 Partition.reset, cores := Vector.replicate 256 Core.reset
    clusters := Vector.replicate 64 Cluster.reset, dies := Vector.replicate 4 Die.reset
    quads := Vector.replicate 16 [], queues := [Queue.reset], launches := [], stands := [], held := [], completions := []
    disp := { served := [], nextOrder := 0, reserved := none }, iommu := { ddtp := 0, device := 0, sent := 0, queue := [], fences := [] }
    almanac := { tickets := 0, lock := .free, waiters := [] }, fabric := Fabric.reset, mgmt := Mgmt.reset }

/-- Why the machine stops. The EN9240 reports every failure as a trap, a refusal word or a journal entry, so no meaning of
this model stops it; the one constructor is for a host that cannot supply a word (safe: nothing raises it). -/
inductive Fault where
  /-- Raised by no meaning; safe. -/
  | halted
  deriving DecidableEq, Repr

/-- Why a step has no meaning. -/
inductive Refusal where
  /-- Raised by an arm of exec whose instruction has no meaning yet; safe. -/
  | notModelled (mnemonic : String)
  deriving DecidableEq, Repr

/-- The outcome of a step of this machine. -/
abbrev Result := Host.Outcome State Fault Refusal

end Sys2Proof.Machine
end

