-- ==== Sys2Proof/Machine/Homes.lean ====
section
/-! DEFINITION. Where memory lies: granules, lines, the frames and slices that hold what this package owns, and the banks of a slice that an access wakes
(05 R115, R116, R118; 11 R228, R229, R231). -/

namespace Sys2Proof.Machine

/-! ### Addresses and owners -/

/-- The granule frame number of a physical address (R228). -/
def gfnOf (pa : Nat) : Gfn := BitVec.ofNat 36 (pa / 2097152)
/-- The line address of a physical address (R115). -/
def lineOf (pa : Nat) : Nat := pa / 128 * 128
/-- The home package of a granule (R228). -/
def homePkg (g : Gfn) : PkgNo := g.extractLsb' 20 7
/-- The home index of a granule (R228). -/
def homeIndex (g : Gfn) : Nat := (g.extractLsb' 0 20).toNat
/-- The pool a home index lies in (R229). -/
def homePool (i : Nat) : Nat := if i < 262144 then i / 65536 else 4
/-- The frame a home index maps to (R229). -/
def homeFrame (i : Nat) : Nat := if i < 262144 then i % 65536 else i - 262144
/-- Whether a granule is backed at its home, given that package's exposed counts (R229). -/
def backedBy (counts : List Nat) (g : Gfn) : Bool :=
  g.toNat < 2 ^ 27 && decide (homeIndex g < 786432) && decide (homeFrame (homeIndex g) < counts.getD (homePool (homeIndex g)) 0)

/-- The pool and frame of a granule that this package owns (R231). -/
def ownedAt (f : Fabric) (g : Gfn) : Option (Nat × Nat) :=
  match f.here.find? (fun o => o.gfn == g) with
  | some o => some (o.pool, o.frame)
  | none =>
    if homePkg g = f.num && backedBy f.exposed g && !f.gone.contains g then some (homePool (homeIndex g), homeFrame (homeIndex g))
    else none

/-- The slice of a pool's die that holds a local address (R116). -/
def sliceOf (pool la : Nat) : Nat :=
  let n := if pool < 4 then 48 else 32
  let i := la / 128
  let sq := i / n
  let h := (sq % 64) ^^^ (sq / 64 % 64) ^^^ (sq / 4096 % 64) ^^^ (sq / 262144 % 64) ^^^ (sq / 16777216 % 64)
  if n * (sq + 1) ≤ Config.poolFrames pool * 16384 then (i % n + h) % n else i % n

/-- The die and slice of an owned line: die 4 is the host die (R115, R116). -/
def sliceAt (s : State) (pa : Nat) : Option (Nat × Nat) :=
  (ownedAt s.fabric (gfnOf pa)).map (fun o => (o.1, sliceOf o.1 (o.2 * 2097152 + pa % 2097152)))

/-- The bank of its slice that holds a line. R118 does not say which of the eight it is: a free value names it (log entry 66). -/
def bankAt (s : State) (pa : Nat) : Option SliceBank :=
  (sliceAt s pa).map (fun x => { die := x.1, slice := x.2, bank := Config.sliceBank (lineOf pa) % 8 })

/-- The clock count of the slices of a line's die (R118, R270). -/
def sliceClockAt (s : State) (pa : Nat) : DWord := match sliceAt s pa with
  | some x => s.mgmt.sliceClocks.getD x.1 0
  | none => 0

/-- The state in which an access has reached the line of an address at its slice: the bank is awake, and the line notes the clock (R118). -/
def wakeLine (pa : Nat) (s : State) : State :=
  match bankAt s pa with
  | none => s
  | some b => { s with mgmt := { s.mgmt with drowsy := s.mgmt.drowsy.filter (fun x => x != b), touched := (lineOf pa, sliceClockAt s pa) :: s.mgmt.touched.filter (fun x => x.1 != lineOf pa) } }

/-- The state in which accesses have reached the lines of n bytes. -/
def wakeLines (pa n : Nat) (s : State) : State :=
  (List.range (if n = 0 then 0 else (pa + n - 1) / 128 - pa / 128 + 1)).foldl (fun s i => wakeLine (lineOf pa + 128 * i) s) s

end Sys2Proof.Machine
end

