-- ==== Sys2Proof/Machine/Basic.lean ====
section
/-! DEFINITION. The named reads and writes of memory, registers, fragments and places that every meaning is built from. -/

namespace Sys2Proof.Machine

/-! ### Memory -/

/-- The byte at an address. -/
def memGet : Memory → Nat → Byte
  | [], _ => Memory.unlisted
  | (k, w) :: r, a => if a = k then w else if a < k then Memory.unlisted else memGet r a

/-- Memory with one byte changed, in canonical form. -/
def memSet : Memory → Nat → Byte → Memory
  | [], a, v => if v = Memory.unlisted then [] else [(a, v)]
  | (k, w) :: r, a, v =>
    if a < k then (if v = Memory.unlisted then (k, w) :: r else (a, v) :: (k, w) :: r)
    else if a = k then (if v = Memory.unlisted then r else (k, v) :: r)
    else (k, w) :: memSet r a v

/-- The canonical form: addresses strictly rising, no entry equal to what an unlisted address reads as. -/
def Memory.wf : Memory → Bool
  | [] => true
  | (_, w) :: [] => w != Memory.unlisted
  | (k, w) :: (k', w') :: r => w != Memory.unlisted && decide (k < k') && Memory.wf ((k', w') :: r)

/-- n bytes at an address, little-endian (R2). -/
def memRead (m : Memory) (a : Nat) : Nat → Nat
  | 0 => 0
  | n + 1 => (memGet m a).toNat + 256 * memRead m (a + 1) n

/-- Memory with the low n bytes of a number stored little-endian (R2). -/
def memWrite (m : Memory) (a n v : Nat) : Memory :=
  match n with
  | 0 => m
  | n + 1 => memWrite (memSet m a (BitVec.ofNat 8 v)) (a + 1) n (v / 256)

/-- Memory with the bytes a mask names stored, of a value's bytes from byte 0. -/
def memWriteMask (m : Memory) (a n v : Nat) (mask : Nat) : Memory :=
  match n with
  | 0 => m
  | n + 1 =>
    memWriteMask (if mask % 2 = 1 then memSet m a (BitVec.ofNat 8 v) else m) (a + 1) n (v / 256) (mask / 2)

/-- Memory with the bytes from lo to below hi removed: they read as an unlisted address does. -/
def memClear (m : Memory) (lo hi : Nat) : Memory := m.filter (fun c => !(decide (lo ≤ c.1) && decide (c.1 < hi)))

/-! ### Lists of records -/

/-- The list with f applied to the entries that satisfy p. -/
def modifyWhere {α : Type} (p : α → Bool) (f : α → α) (xs : List α) : List α := xs.map (fun x => if p x then f x else x)

/-- A list with x put in before its first entry that x may stand before. -/
def insertSorted {α : Type} (le : α → α → Bool) (x : α) : List α → List α
  | [] => [x]
  | y :: ys => if le x y then x :: y :: ys else y :: insertSorted le x ys
/-- The list in an order; entries that stand equal keep their order. -/
def sortList {α : Type} (le : α → α → Bool) (xs : List α) : List α := xs.foldr (insertSorted le) []

/-! ### Places -/

/-- The core record of a core. -/
def coreOf (s : State) (c : CoreId) : Core := s.cores[c.toNat]'c.isLt
/-- The state with a core changed. -/
def setCore (s : State) (c : CoreId) (f : Core → Core) : State :=
  { s with cores := s.cores.set c.toNat (f (coreOf s c)) c.isLt }
/-- The cluster record of a cluster. -/
def clusterOf (s : State) (c : ClusterId) : Cluster := s.clusters[c.toNat]'c.isLt
/-- The state with a cluster changed. -/
def setCluster (s : State) (c : ClusterId) (f : Cluster → Cluster) : State :=
  { s with clusters := s.clusters.set c.toNat (f (clusterOf s c)) c.isLt }
/-- The partition record of a partition. -/
def partOf (s : State) (p : PartId) : Partition := s.parts[p.toNat]'p.isLt
/-- The state with a partition changed. -/
def setPart (s : State) (p : PartId) (f : Partition → Partition) : State :=
  { s with parts := s.parts.set p.toNat (f (partOf s p)) p.isLt }
/-- The record of a die. -/
def dieOf (s : State) (d : DieId) : Die := s.dies[d.toNat]'d.isLt
/-- The state with a die changed. -/
def setDie (s : State) (d : DieId) (f : Die → Die) : State :=
  { s with dies := s.dies.set d.toNat (f (dieOf s d)) d.isLt }
/-- The queue of a quadrant's neighbour engine. -/
def quadOf (s : State) (q : QuadId) : List NbCmd := s.quads[q.toNat]'q.isLt
/-- The state with a neighbour engine's queue changed. -/
def setQuad (s : State) (q : QuadId) (f : List NbCmd → List NbCmd) : State :=
  { s with quads := s.quads.set q.toNat (f (quadOf s q)) q.isLt }
/-- The four dies. -/
def allDies : List DieId := [0, 1, 2, 3]
/-- A fresh identity number, and the state that has used it. -/
def fresh (s : State) : Nat × State := (s.nextId, { s with nextId := s.nextId + 1 })
/-- A free value's index, and the state that has used it (log entry 2). -/
def draw (s : State) : Nat × State := (s.tick, { s with tick := s.tick + 1 })

/-! ### Cords and fragments -/

/-- A slot that holds a cord: a placed cord has at least one cord in its stand (R22). -/
def Cord.live (c : Cord) : Bool := c.ncords != 0

/-- Every cord of the package. -/
def allCords (s : State) : List Cord := if s.cord.live then s.cord :: s.cords else s.cords

/-- The state with a cord made the one that acts; unchanged when no such cord exists. -/
def selectCord (s : State) (id : CordId) : State :=
  if s.cord.live && s.cord.id == id then s
  else match s.cords.find? (fun c => c.id == id) with
    | none => s
    | some c => { s with cord := c, cords := (if s.cord.live then [s.cord] else []) ++ s.cords.filter (fun x => x.id != id) }

/-- Whether the cord that acts is the one named. -/
def onCord (s : State) (id : CordId) : Bool := s.cord.live && s.cord.id == id

/-- The state with every cord changed. -/
def mapCords (f : Cord → Cord) (s : State) : State := { s with cord := f s.cord, cords := s.cords.map f }

/-- The cord with a fragment made the one that acts. -/
def selectFrag (c : Cord) (id : Nat) : Cord :=
  if c.frag.id == id then c
  else match c.frags.find? (fun f => f.id == id) with
    | none => c
    | some f => { c with frag := f, frags := c.frag :: c.frags.filter (fun x => x.id != id) }

/-- The state with the acting cord changed. -/
def setCord (f : Cord → Cord) (s : State) : State := { s with cord := f s.cord }
/-- The state with the acting fragment changed. -/
def setFrag (f : Fragment → Fragment) (s : State) : State := { s with cord := { s.cord with frag := f s.cord.frag } }
/-- The fragments of a cord (R32). -/
def allFrags (c : Cord) : List Fragment := c.frag :: c.frags
/-- The cord with every fragment changed. -/
def mapFrags (f : Fragment → Fragment) (c : Cord) : Cord := { c with frag := f c.frag, frags := c.frags.map f }

/-- The core of the acting cord. -/
def thisCore (s : State) : CoreId := s.cord.id.core
/-- The cluster of the acting cord. -/
def thisCluster (s : State) : ClusterId := s.cord.id.core.cluster
/-- The die of the acting cord. -/
def thisDie (s : State) : DieId := s.cord.id.core.die
/-- The partition of the acting cord; the supervisor handler uses partition 0 (R182). -/
def thisPart (s : State) : PartId := if s.cord.id.handler then s.cord.id.core ++ 0#2 else s.cord.id.part

/-- Word k of a mask: k = 0 to 2 for s61 to s63 (R5). -/
def maskWord (m : Mask) (k : Nat) : Word := (m >>> (32 * k)).setWidth 32
/-- A mask with word k replaced. -/
def setMaskWord (m : Mask) (k : Nat) (v : Word) : Mask :=
  (m &&& ~~~(0xFFFFFFFF#96 <<< (32 * k))) ||| ((v.setWidth 96) <<< (32 * k))

/-- The fragment with mask register s(61 + k) written: the value is ANDed with the lanes it owns (R25). -/
def putMask (k : Nat) (v : Word) (f : Fragment) : Fragment := { f with mask := setMaskWord f.mask k (v &&& maskWord f.owned k) }

/-- The bank a fragment's scalar registers lie in (R34). -/
def bankOf (c : Cord) (b : Bool) : Vector Word 64 := if b then c.bank1 else c.bank0
/-- The cord with a register of a bank written. -/
def setBank (c : Cord) (b : Bool) (r : Reg) (v : Word) : Cord :=
  if b then { c with bank1 := c.bank1.set r.toNat v r.isLt } else { c with bank0 := c.bank0.set r.toNat v r.isLt }

/-- A scalar register of a fragment: s0 reads 0, s61 to s63 its mask, where a lane it does not own reads 0 (R25, R297). -/
def cordReg (c : Cord) (r : Reg) : Word :=
  if r = 0 then 0
  else if r.toNat < 61 then (bankOf c c.frag.bank)[r.toNat]'r.isLt
  else maskWord (c.frag.mask &&& c.frag.owned) (r.toNat - 61)

/-- The cord with a scalar register of its acting fragment written (R25, R297). -/
def setCordReg (c : Cord) (r : Reg) (v : Word) : Cord :=
  if r = 0 then c
  else if r.toNat < 61 then setBank c c.frag.bank r v
  else { c with frag := putMask (r.toNat - 61) v c.frag }

/-- A scalar register of the acting fragment (R297). -/
def reg (s : State) (r : Reg) : Word := cordReg s.cord r
/-- The state with a scalar register of the acting fragment written (R25, R297). -/
def setReg (s : State) (r : Reg) (v : Word) : State := { s with cord := setCordReg s.cord r v }
/-- The pair whose even register is r (R2). -/
def pair (s : State) (r : Reg) : DWord := reg s (r + 1) ++ reg s r
/-- The state with a pair written, the low word first. -/
def setPair (s : State) (r : Reg) (v : DWord) : State := setReg (setReg s r (DWord.lo v)) (r + 1) (DWord.hi v)

/-- A lane of a lane register; a lane number at or above 96 reads 0. -/
def laneGet (v : LaneVec) (l : Nat) : Word := v.getD l 0
/-- A lane register (R4). -/
def vreg (c : Cord) (r : VReg) : LaneVec := c.vregs[r.toNat]'r.isLt
/-- The cord with a lane register written. -/
def setVreg (c : Cord) (r : VReg) (v : LaneVec) : Cord := { c with vregs := c.vregs.set r.toNat v r.isLt }
/-- A predicate: p0 reads 1 in every lane (R346). -/
def predOf (c : Cord) (i : BitVec 3) : Mask := if i = 0 then ~~~0 else c.preds[i.toNat]'i.isLt
/-- The cord with a predicate written; a write to p0 is discarded (R346). -/
def setPred (c : Cord) (i : BitVec 3) (m : Mask) : Cord :=
  if i = 0 then c else { c with preds := c.preds.set i.toNat m i.isLt }

/-- The lanes 0 to 95 whose bits a mask has, ascending. -/
def lanesOf (m : Mask) : List Nat := (List.range 96).filter (fun l => m.getLsbD l)
/-- The mask of a list of lanes. -/
def maskOf (ls : List Nat) : Mask := ls.foldl (fun m l => m ||| (1#96 <<< l)) 0
/-- The number of lanes in a mask. -/
def countLanes (m : Mask) : Nat := (lanesOf m).length

/-- The state with a core's contexts that have no resident cord removed (R58, R59). -/
def dropContexts (k : CoreId) (s : State) : State :=
  let keep := fun (p : Pasid) => (allCords s).any (fun c => c.id.core == k && !c.id.handler && c.pasid == p)
  setCore s k (fun x => { x with ctxs := x.ctxs.filter (fun c => keep c.pasid)
                                 active := x.active.filter keep })

/-! ### Control flow -/

/-- A fragment at a new scalar PC: it stops when that is its join address (R36). -/
def atPc (pc : Word) (f : Fragment) : Fragment :=
  { f with pc := pc, after := none, status := match f.arms.head? with
      | some a => if a.join = pc then .atJoin else .running
      | none => .running }

/-- The PC after the instruction: the next word, or where issue continues after a replayed one (R56). -/
def nextPc (f : Fragment) : Word := f.after.getD (f.pc + 4)

/-- The state after an instruction that goes on to the next word. -/
def advance (s : State) : State := setFrag (fun f => atPc (nextPc f) f) s

/-- The state after a branch: the scalar PC is the target (R298). -/
def jump (s : State) (t : Word) : State := setFrag (atPc t) s

/-- The state of a stream that waits with a stall code of R267: its PC stays. -/
def wait (code : Nat) (s : State) : State := setFrag (fun f => { f with status := .waiting code }) s

/-! ### Launch records (R259) -/

/-- n bytes of a launch record at an offset. -/
def recField (r : BitVec 1024) (off n : Nat) : Nat := fieldNat r (8 * off) (8 * n)
/-- A flag of FLAGS: 0 SERIAL, 1 WHOLE, 2 PERSIST, 3 CINT. -/
def recFlag (r : BitVec 1024) (b : Nat) : Bool := (recField r 2 2).testBit b

/-! ### Interrupts and error counts -/

/-- Whether a vector of the MSI-X table is masked: one that the host has not written is (R257; log entry 67). -/
def msixMasked (s : State) (v : Nat) : Bool := !s.mgmt.msixTable.any (fun e => e.vector == v && !e.masked)

/-- The state with an MSI-X vector raised (R257): its message is sent, or its pending bit is set while it is masked. -/
def raiseMsix (v : Nat) (s : State) : State :=
  if msixMasked s v then { s with mgmt := { s.mgmt with msixPending := v :: s.mgmt.msixPending.filter (fun x => x != v) } }
  else { s with mgmt := { s.mgmt with msix := s.mgmt.msix ++ [v] } }

/-- The state after the host has written a vector of the MSI-X table; one that is pending and no longer masked is sent (R257). -/
def writeMsix (e : MsixEntry) (s : State) : State :=
  let s := { s with mgmt := { s.mgmt with msixTable := e :: s.mgmt.msixTable.filter (fun x => x.vector != e.vector) } }
  if !e.masked && s.mgmt.msixPending.contains e.vector then raiseMsix e.vector { s with mgmt := { s.mgmt with msixPending := s.mgmt.msixPending.filter (fun x => x != e.vector) } } else s

/-- Two free words as a number. -/
def freePair (t : Nat) : Nat := (Config.freeWord t).toNat + 2 ^ 32 * (Config.freeWord (t + 1)).toNat

/-- The counters of a class without an event: the host has set no threshold and no vector for it (R266; log entry 33). -/
def newCount (cls : ErrClass) : ErrCount := { cls := cls, count := 0, threshold := none, vector := none, raised := false }

/-- The state with the counters of a class changed. -/
def setCount (cls : ErrClass) (f : ErrCount → ErrCount) (s : State) : State :=
  let es := if s.mgmt.errors.any (fun e => e.cls == cls) then s.mgmt.errors else s.mgmt.errors ++ [newCount cls]
  { s with mgmt := { s.mgmt with errors := modifyWhere (fun e => e.cls == cls) f es } }

/-- The state with one event of a class counted (R266). -/
def countError (cls : ErrClass) (s : State) : State := setCount cls (fun e => { e with count := e.count + 1 }) s

/-- The state after the host has set the threshold and the MSI-X vector of a class of errors (R266). -/
def setThreshold (cls : ErrClass) (limit vector : Option Nat) (s : State) : State :=
  setCount cls (fun e => { e with threshold := limit, vector := vector.filter (fun v => decide (v < 2048)), raised := false }) s

end Sys2Proof.Machine
end

