-- ==== Sys2Proof/Machine/Slices.lean ====
section
/-! DEFINITION. Owners of granules, requests to other packages, and accesses at the owning LLC slices and the cluster caches
(05 R115 to R118; 06 R123 to R125, R132; 07 R157; 11 R228 to R241). -/

namespace Sys2Proof.Machine

/-! ### Registrars and owners -/

/-- The hash of R230. -/
def hash36 (x : Nat) : Nat := (x % 4096) ^^^ (x / 4096 % 4096) ^^^ (x / 16777216 % 4096)

/-- The registrar of a granule (R230). -/
def registrarOf (f : Fabric) (g : Gfn) : PkgNo := f.present.getD (hash36 g.toNat % f.present.length) f.num

/-- The owner record of a granule at this package as its registrar (R231); the home package owns a granule that has not moved. -/
def recordOf (f : Fabric) (g : Gfn) : OwnerRec :=
  match f.records.find? (fun r => r.gfn == g) with
  | some r => r
  | none => { gfn := g, owner := homePkg g, pool := homePool (homeIndex g), moving := false, retired := false, stumps := 0
              frame := homeFrame (homeIndex g), gen := 0 }

/-- The exposed counts of a package of the pod. -/
def countsOf (f : Fabric) (p : PkgNo) : List Nat :=
  if p = f.num then f.exposed else match f.counts.find? (fun c => c.1 == p) with
    | some c => c.2
    | none => []

/-- The subcode with which no owner serves a granule (R232, R248); before the fabric is joined every other granule has none (R271). -/
def refusalOf (f : Fabric) (g : Gfn) : Option Nat :=
  if !f.joined then some 2
  else if decide (2 ^ 27 ≤ g.toNat) || decide (786432 ≤ homeIndex g) then some 1
  else if !f.present.contains (homePkg g) then some 2
  else if !backedBy (countsOf f (homePkg g)) g then some 1
  else none

/-- Who owns a granule, as a die resolves it (R232); hold when a redirect keeps new accesses back (R141). -/
inductive Owner where
  | here (pool frame : Nat)
  | away (p : PkgNo)
  | refused (sub : Nat)
  | ask (registrar : PkgNo)
  | hold
  deriving DecidableEq, Repr

/-- Whether new accesses to a granule are held: an access that was sent through the old owner of a redirect, or that met 0x0A there and has been sent again, is not complete (R141). -/
def redirectHold (s : State) (g : Gfn) : Bool :=
  s.fabric.announces.any (fun a => a.gfn == g &&
    s.fabric.outstanding.any (fun o => decide (o.op ≠ 0x0B ∧ o.op ≠ 0x09) && (o.req.dst == a.old || decide (0 < o.naks)) && gfnOf o.req.addr.toNat == g))

/-- Whether two packages are of one node (R15). -/
def sameNode (a b : PkgNo) : Bool := a.extractLsb' 2 5 == b.extractLsb' 2 5
/-- A package's position in its node (R15). -/
def position (p : PkgNo) : Nat := (p.extractLsb' 0 2).toNat

/-- Whether every path to a package has failed (R242). -/
def linkDown (f : Fabric) (p : PkgNo) : Bool :=
  if sameNode p f.num then
    let k := (position p ^^^ position f.num) - 1
    f.links.getD k .up == .down
  else decide (96 ≤ f.failedFibres.length)

/-- The owner of a granule from a die: the owned table, the die's owner cache, a registrar's reply that serves the one access that asked, then the registrar (R231, R232). Before the fabric
is joined every access is refused with NOPACKAGE (R271). -/
def resolve (s : State) (d : DieId) (g : Gfn) : Owner :=
  if !s.fabric.joined then .refused 2
  else if redirectHold s g then .hold
  else match ownedAt s.fabric g with
  | some (p, f) => .here p f
  | none =>
    match refusalOf s.fabric g with
    | some sub => .refused sub
    | none =>
      match (dieOf s d).ownerCache.find? (fun e => e.1 == g), (dieOf s d).once.find? (fun e => e.1 == g) with
      | some (_, p, _), _ => .away p
      | none, some (_, p) => .away p
      | none, none =>
        if registrarOf s.fabric g = s.fabric.num then .away (recordOf s.fabric g).owner
        else if linkDown s.fabric (registrarOf s.fabric g) then .refused 3
        else .ask (registrarOf s.fabric g)

/-- Whether a granule is being moved, so that every new access to it is held (R250 step 3). -/
def movingNow (s : State) (g : Gfn) : Bool := s.fabric.moves.any (fun m => m.req.gfn == g && decide (3 ≤ m.step))

/-- Where an access to a granule goes: as resolve says, but this package's own access to a granule that it is moving goes to its own interface, which holds it with the others, in
arrival order (R250 steps 3 and 5). -/
def routeOf (s : State) (d : DieId) (g : Gfn) : Owner :=
  match resolve s d g with
  | .here p f => if movingNow s g then .away s.fabric.num else .here p f
  | o => o

/-- Whether a granule's move still waits for the replays of the log to it (R250 step 3). -/
def finishing (s : State) (g : Gfn) : Bool := s.fabric.moves.any (fun m => m.req.gfn == g && m.step == 3)

/-- Where an access goes, or a replay of the log: a move of a granule waits for its replays, so they are performed here (R250 step 3). -/
def routeFor (replay : Bool) (s : State) (d : DieId) (g : Gfn) : Owner :=
  match ownedAt s.fabric g with
  | some (p, f) => if replay && finishing s g then .here p f else routeOf s d g
  | none => routeOf s d g

/-- The packages of this package's node other than itself. -/
def partners (f : Fabric) : List PkgNo := f.present.filter (fun p => p != f.num && sameNode p f.num)

/-- The scopes of a cord: whether a line's owner lies within the reach of a scope (R123): 2 to 4 the node, 5 every line. -/
def inReach (f : Fabric) (scope : Nat) (owner : PkgNo) : Bool := decide (scope = 5) || (decide (2 ≤ scope) && sameNode owner f.num)

/-- The state with a value that a line has held noted for the VLDM reads of it in flight (R135). -/
def addValue (line : Nat) (v : BitVec 1024) (s : State) : State :=
  { s with mostly := modifyWhere (fun m => m.line == line) (fun m => if m.values.contains v then m else { m with values := m.values ++ [v] }) s.mostly }

/-! ### Messages to other packages -/

/-- A peer with which nothing has been exchanged (R239). -/
def newPeer (p : PkgNo) : Peer := { pkg := p, out := [], owed := [], nextTx := 0, expect := 0, sent := [], early := [], part := [], dropping := false, ackDue := false, nakDue := false }

/-- The state with a peer's sequence spaces changed. -/
def setPeer (p : PkgNo) (f : Peer → Peer) (s : State) : State :=
  let ps := if s.fabric.peers.any (fun x => x.pkg == p) then s.fabric.peers else s.fabric.peers ++ [newPeer p]
  { s with fabric := { s.fabric with peers := modifyWhere (fun x => x.pkg == p) f ps } }

/-- The state with a message to a package that waits for a flit to it (R239, R245); a message to this package is its own next turn. -/
def sendMsg (dst : PkgNo) (m : OutMsg) (s : State) : State :=
  if dst = s.fabric.num then { s with agenda := s.agenda ++ [.message m] } else setPeer dst (fun p => { p with out := p.out ++ [m] }) s

/-- The state with a message of bulk traffic that waits for a direct match or for its page's intermediate (R246). -/
def sendBulk (dst : PkgNo) (pa : Nat) (m : OutMsg) (s : State) : State :=
  if dst = s.fabric.num then sendMsg dst m s else { s with fabric := { s.fabric with bulk := s.fabric.bulk ++ [{ dst := dst, addr := pa, msg := m }] } }

/-- The size code of R238. -/
def sizeCode (n : Nat) : BitVec 3 :=
  if n ≤ 4 then 0 else if n ≤ 8 then 1 else if n ≤ 16 then 2 else if n ≤ 64 then 3 else if n ≤ 128 then 4 else if n ≤ 256 then 5 else 6
/-- The bytes of a size code (R238). -/
def sizeBytes (c : BitVec 3) : Nat :=
  match c.toNat with
  | 0 => 4 | 1 => 8 | 2 => 16 | 3 => 64 | 4 => 128 | 5 => 256 | _ => 512

/-- The little-endian number of a list of bytes. -/
def natOfBytes (bs : List Byte) : Nat := bs.foldr (fun b a => b.toNat + 256 * a) 0

/-- A request before it has its SRC and TAG. -/
structure Want where
  die : Nat
  dst : PkgNo
  op : Nat
  size : Nat
  scope : Nat
  fn : Nat
  pasid : Pasid
  addr : Nat
  payload : List Byte
  waiter : Waiter
  bulk : Bool := false
  deriving DecidableEq, Repr

/-- A TAG that no outstanding request of a die to a package uses (R238), and no outstanding request at all where there is one. -/
def freeTag (f : Fabric) (die : Nat) (dst : PkgNo) : Option (BitVec 14) :=
  let used (os : List Outstanding) : List (BitVec 14) := os.map (fun o => o.req.tag)
  let all := ((List.range 2048).map (fun n => BitVec.ofNat 14 (die * 2048 + n))).filter (fun t => !f.outcomes.any (fun x => x.2 == t))
  match all.find? (fun t => !(used f.outstanding).contains t) with
  | some t => some t
  | none => all.find? (fun t => !(used (f.outstanding.filter (fun o => o.req.dst == dst))).contains t)

/-- The compute die whose owner cache a requesting die uses: the host die shares that of die 0 (R232). -/
def cacheDie (die : Nat) : DieId := if die < 4 then BitVec.ofNat 2 die else 0

/-- The state in which a registrar's reply that was not kept has served the one access that a die sends by it (R232). -/
def usedOnce (w : Want) (s : State) : State :=
  if w.op = 0x09 || w.op = 0x06 then s
  else setDie s (cacheDie w.die) (fun x => { x with once := x.once.filter (fun e => e.1 != gfnOf w.addr) })

/-- Whether a request is a write that replaces bytes at an owner. -/
def writesLine (op : Nat) : Bool := op == 0x02 || op == 0x03 || op == 0x05 || op == 0x07

/-- The AT payload of R240. -/
def atPayload (b new : DWord) : List Byte := bytesOfNat 8 b.toNat ++ bytesOfNat 8 new.toNat

/-- Whether a request to an owner changes bytes of a line there: of n bytes at its address, and for an NST of its flag (R240). -/
def changesLine (op a n : Nat) (payload : List Byte) (line : Nat) : Bool :=
  (writesLine op || op == 0x04) && ((decide (line < a + n) && decide (a < line + 128)) || (op == 0x05 && lineOf (natOfBytes (payload.take 16)) == line))

/-- The state without this package's clean copies of the node partners' lines that a request of its own changes at their owner: from its sending on no load of the package is served by what the
line held before (R122, R124, R134). What they held is a value for the VLDM reads in flight (R135). -/
def dropOlder (w : Want) (s : State) : State :=
  let gone := s.fabric.partner.filter (fun x => !x.modified && changesLine w.op w.addr w.size w.payload x.line)
  let s := gone.foldl (fun s x => addValue x.line x.data s) s
  if gone.isEmpty then s else { s with fabric := { s.fabric with partner := s.fabric.partner.filter (fun x => !gone.contains x) } }

/-- The state with a request sent and its TAG (R238); none when the die's 2,048 TAGs to that package are in use. A request that no path
can carry, or that comes before the fabric is joined, is answered by this package's own interface (R242, R271). -/
def sendNow (w : Want) (s : State) : Option (BitVec 14) × State :=
  match freeTag s.fabric w.die w.dst with
  | none => (none, s)
  | some tag =>
    let r : Req := { src := s.fabric.num, dst := w.dst, tag := tag, size := sizeCode w.size, scope := BitVec.ofNat 3 w.scope
                     rly := false, fn := BitVec.ofNat 4 w.fn, pasid := w.pasid, addr := BitVec.ofNat 57 w.addr
                     payload := w.payload }
    let o : Outstanding := { op := w.op, req := r, waiter := w.waiter, naks := 0, held := false, bulk := w.bulk }
    let s := dropOlder w (usedOnce w s)
    let s := { s with fabric := { s.fabric with outstanding := s.fabric.outstanding ++ [o] } }
    let refuse (sub : Nat) : State :=
      { s with agenda := s.agenda ++ [.message (.neg { src := w.dst, requester := s.fabric.num, tag := tag, code := 9, sub := BitVec.ofNat 8 sub })] }
    if !s.fabric.joined then (some tag, refuse 2)
    else if w.dst != s.fabric.num && linkDown s.fabric w.dst then (some tag, refuse 3)
    else if w.bulk then (some tag, sendBulk w.dst w.addr (.req w.op r) s)
    else (some tag, sendMsg w.dst (.req w.op r) s)

/-- The lines of node partners that this package holds in M and that a write of its own to their owner covers. -/
def heldUnder (w : Want) (s : State) : List PartnerLine :=
  if writesLine w.op then s.fabric.partner.filter (fun x => x.modified && x.owner == w.dst && decide (x.line < w.addr + w.size) && decide (w.addr < x.line + 128)) else []

/-- The state without this package's copy of a node partner's line; what a clean one held is a value for the VLDM reads in flight (R135). -/
def dropHeld (line : Nat) (s : State) : State :=
  let s := (s.fabric.partner.filter (fun x => x.line == line && !x.modified)).foldl (fun s x => addValue x.line x.data s) s
  { s with fabric := { s.fabric with partner := s.fabric.partner.filter (fun x => x.line != line) } }

/-- The state after a partner's line held in M has been evicted: its dirty bytes go back to its owner (R234); none while no TAG is free. -/
def evictHeld (x : PartnerLine) (s : State) : Option State :=
  if x.dirty = 0 then some (dropHeld x.line s)
  else match sendNow { die := 4, dst := x.owner, op := 0x03, size := 128, scope := 5, fn := 0, pasid := 0, addr := x.line
                       payload := bytesOfNat 16 x.dirty.toNat ++ bytesOfNat 128 x.data.toNat, waiter := .none } s with
    | (some _, s) => some (dropHeld x.line s)
    | (none, _) => none

/-- The state with a request sent: a line held in M that it writes at the owner is evicted first, so that its older bytes do not come after it (R234). -/
def sendReq (w : Want) (s : State) : Option (BitVec 14) × State :=
  match (heldUnder w s).foldl (fun t x => t.bind (evictHeld x)) (some s) with
  | some s => sendNow w s
  | none => (none, s)

/-- Whether a request with a waiter is outstanding. -/
def waiting (s : State) (w : Waiter) : Bool := s.fabric.outstanding.any (fun o => o.waiter == w)

/-- The state with the registrar asked for a granule's owner, once (R232). -/
def askOwner (s : State) (d : DieId) (g : Gfn) (registrar : PkgNo) : State :=
  if s.fabric.outstanding.any (fun o => match o.waiter with | .registrar d' g' _ => d' == d && g' == g | _ => false) then s
  else (sendReq { die := d.toNat, dst := registrar, op := 0x09, size := 4, scope := 5, fn := 0, pasid := 0
                  addr := g.toNat * 2097152, payload := [], waiter := .registrar d g (dieOf s d).ownerInv } s).2

/-! ### Host transactions at the slices (R156, R157) -/

/-- Whether a line hits the signature that some lines have at its slice: it is one of them, or shares a signature bit with one of that slice (R153, R157; log entry 8). -/
def sigHit (s : State) (sig : List Nat) (line : Nat) : Bool :=
  sig.any (fun l => l == line || (sliceAt s l == sliceAt s line && Config.sigHash l % 512 == Config.sigHash line % 512))

/-- A host status word (R144). -/
def hostStatus (code cause : Nat) (retry active : Bool) : Word :=
  BitVec.ofNat 32 (code % 64 * 16777216 + cause % 16 * 256 + (if retry then 2 else 0) + (if active then 1 else 0))

/-- The causes that are retryable (R145). -/
def retryable (cause : Nat) : Bool := cause == 1 || cause == 4 || cause == 5 || cause == 8 || cause == 10

/-- Registers with x[rd] written; x0 stays 0. -/
def writeX (r : HostRegs) (rd : BitVec 5) (v : DWord) : HostRegs :=
  if rd = 0 then r else { r with x := r.x.set rd.toNat v rd.isLt }

/-- A host core whose transaction has aborted with a cause (R156): write set discarded, checkpoint restored, status in rd. -/
def abortedHost (cause code : Nat) (h : HostCore) : HostCore :=
  let st := hostStatus code cause (retryable cause) false
  { h with regs := writeX h.checkpoint h.rd (st.setWidth 64), pc := h.target, active := false, reads := [], writes := [], wlines := []
           last := st, waiting := false, ticket := none, flush := true }

/-- The host core that an access of a host core names. -/
def accessHost : HostAccess → HostNo
  | .load h _ _ _ => h
  | .store h _ _ _ => h
  | .atomic h _ _ _ _ _ _ _ _ => h
  | .fence h _ _ => h
  | .uncached h _ => h
  | .unsupported h => h
  | .exception h _ _ => h
  | .writeReg h _ _ _ => h
  | .jump h _ => h
  | .writeCsr h _ _ => h
  | .iommu h _ _ => h
  | .iofence h => h
  | .kickLoad h _ _ => h
  | .kickStore h _ _ => h
  | .msix h _ _ _ _ => h
  | .barLoad h _ _ => h

/-- The state without the accesses and the words of the aborted paths of host cores: each goes on at its fallback target (R156). -/
def flushHosts (s : State) : State :=
  let gone := fun (h : HostNo) => (s.hosts[h.val]'h.isLt).flush
  if !s.hosts.toList.any (fun h => h.flush) then s
  else { s with hosts := s.hosts.map (fun h => { h with flush := false }), hostWait := s.hostWait.filter (fun a => !gone (accessHost a))
                hostWords := s.hostWords.filter (fun x => !gone x.1) }

/-- The host cores changed. -/
def mapHosts (f : HostCore → HostCore) (s : State) : State := { s with hosts := s.hosts.map f }

/-- A read of a line aborts the host transactions that have written it; a write or an atomic those that have read or written it (R157). -/
def hostConflict (line : Nat) (isWrite : Bool) (s : State) : State :=
  flushHosts (mapHosts (fun h => if h.active && (sigHit s h.wlines line || (isWrite && sigHit s h.reads line)) then abortedHost 1 0 h else h) s)

/-! ### Accesses at an owning slice -/

/-- Who makes an access, for watchpoints (R270): 0 host core, 1 cord, 2 engine, 3 remote; with its package, and whether it is a replay of the log. -/
structure Agent where
  cls : Nat
  pkg : PkgNo
  replay : Bool := false
  deriving DecidableEq, Repr

/-- What an access at a point of coherence answers. -/
inductive Served where
  | done (v : Nat)
  | busy
  | refused (code sub : Nat)
  deriving DecidableEq, Repr

/-- The byte mask of n bytes at an offset. -/
def spanMask (off n : Nat) : Nat := (2 ^ n - 1) * 2 ^ off

/-- The state with the value that a line has held, which the launches that run may still fetch as text (R293); with no launch running there is none to keep it for. -/
def keepText (line : Nat) (v : BitVec 1024) (s : State) : State :=
  if s.stands.isEmpty || s.oldText.any (fun o => o.line == line && o.order == s.disp.nextOrder && o.value == v) then s
  else { s with oldText := s.oldText ++ [{ line := line, order := s.disp.nextOrder, value := v }] }

/-- The state with the value that a line held before a write kept for fetches (R293). -/
def noteText (line : Nat) (s : State) : State := keepText line (BitVec.ofNat 1024 (memRead s.mem line 128)) s

/-- The state with the marks an access at a slice leaves: the value a write replaces, for VLDM reads in flight (R135) and for fetches (R293), watch hits (R270) and an awake bank (R118). The host's own accesses make no
conflict with a host transaction here (R157). kind: 0 read, 1 write, 2 atomic; mask names the bytes of the line. -/
def touchMask (ag : Agent) (kind pa mask : Nat) (s : State) : State :=
  let line := lineOf pa
  let s := if kind = 0 || !s.mostly.any (fun m => m.line == line) then s else addValue line (BitVec.ofNat 1024 (memRead s.mem line 128)) s
  let s := if kind = 0 then s else noteText line s
  let s := if ag.cls = 0 then s else hostConflict line (kind != 0) s
  let hit := s.mgmt.watches.any (fun w => w.line == line && w.kinds.getLsbD kind &&
    (w.mask.toNat &&& mask) != 0)
  let s := if hit then { s with mgmt := { s.mgmt with hits := s.mgmt.hits ++ [{ addr := pa, kind := kind, cls := ag.cls, pkg := ag.pkg, clock := sliceClockAt s pa }] } } else s
  wakeLine pa s

/-- The state with the marks an access of n bytes at a slice leaves. -/
def touchSlice (ag : Agent) (kind pa n : Nat) (s : State) : State := touchMask ag kind pa (spanMask (pa % 128) n) s

/-- The partners a directory position mask names (R234). -/
def maskPartners (f : Fabric) (m : BitVec 4) : List PkgNo := (partners f).filter (fun p => m.getLsbD (position p))

/-- Whether a coherence request for a line is outstanding. -/
def cohOut (f : Fabric) (line : Nat) (p : PkgNo) : Bool :=
  f.outstanding.any (fun o => o.op == 0x0A && o.req.addr.toNat == line && o.req.dst == p)

/-- The state with a coherence request sent to a partner, once (R234). -/
def sendCoh (fn line : Nat) (p : PkgNo) (s : State) : State :=
  if cohOut s.fabric line p then s
  else (sendReq { die := 4, dst := p, op := 0x0A, size := 128, scope := 4, fn := fn, pasid := 0, addr := line, payload := [], waiter := .none } s).2

/-- Before an access the owner recalls a line in M, unless its holder itself writes, and before a write it invalidates every copy but the writer's (R234): none when the
access may go on. -/
def claimLine (line : Nat) (isWrite : Bool) (writer : Option PkgNo) (s : State) : Option State :=
  match s.fabric.directory.find? (fun e => e.line == line) with
  | none => none
  | some e =>
    let all := maskPartners s.fabric e.mask
    let ps := all.filter (fun p => writer != some p)
    if e.modified then (if all.isEmpty || (isWrite && ps.isEmpty) then none else some (all.foldl (fun s p => sendCoh 3 line p s) s))
    else if isWrite && !ps.isEmpty then some (ps.foldl (fun s p => sendCoh 2 line p s) s)
    else none

/-- The state in which an access to bytes of a line owned here may be performed at its slice, or why it is not yet. -/
def reachMask (ag : Agent) (kind pa mask : Nat) (writer : Option PkgNo) (s : State) : Served × State :=
  if movingNow s (gfnOf pa) && !(ag.replay && finishing s (gfnOf pa)) then (.busy, s)
  else match claimLine (lineOf pa) (kind != 0) writer s with
    | some s' => (.busy, s')
    | none => (if kind != 1 && s.failed.contains (lineOf pa) then .refused 0x0B 0 else .done 0, touchMask ag kind pa mask s)

/-- The state in which an access of n bytes may be performed at its slice, or why it is not yet. -/
def reachSlice (ag : Agent) (kind pa n : Nat) (writer : Option PkgNo) (s : State) : Served × State := reachMask ag kind pa (spanMask (pa % 128) n) writer s

/-- n bytes read at the owning slice; a failed line answers 0x0B (R173). -/
def sliceRead (ag : Agent) (pa n : Nat) (s : State) : Served × State :=
  match reachSlice ag 0 pa n none s with
  | (.done _, s') => (.done (memRead s'.mem pa n), s')
  | r => r

/-- Masked bytes written at the owning slice; a store to a failed line leaves it failed (R173). -/
def sliceWrite (ag : Agent) (pa n v mask : Nat) (writer : Option PkgNo) (s : State) : Served × State :=
  match reachMask ag 1 pa (mask % 2 ^ n * 2 ^ (pa % 128)) writer s with
  | (.done _, s') => (.done 0, { s' with mem := memWriteMask s'.mem pa n v mask })
  | r => r

/-- The new value of an atomic (R302), with the operand b and, for CAS, the new value; none when nothing is written. -/
def atomNew (fn : Nat) (old b new : Word) : Option Word :=
  match fn with
  | 0 => some (old + b)
  | 1 => some (if old.slt b then old else b)
  | 2 => some (if old.slt b then b else old)
  | 3 => some (if old < b then old else b)
  | 4 => some (if old < b then b else old)
  | 5 => some (old &&& b)
  | 6 => some (old ||| b)
  | 7 => some (old ^^^ b)
  | 8 => some b
  | 9 => if old = b then some new else none
  | _ => some (addF32 old b)

/-- A 32-bit atomic at the owning slice: its old value (R132). -/
def sliceAtom (ag : Agent) (fn pa : Nat) (b new : Word) (s : State) : Served × State :=
  match reachSlice ag 2 pa 4 none s with
  | (.done _, s') =>
    let old : Word := BitVec.ofNat 32 (memRead s'.mem pa 4)
    match atomNew fn old b new with
    | some v => (.done old.toNat, { s' with mem := memWrite s'.mem pa 4 v.toNat })
    | none => (.done old.toNat, s')
  | r => r

/-! ### Lines and pieces -/

/-- The pieces of n bytes from an address, each within one line: offset and length. -/
def linePieces : Nat → Nat → Nat → Nat → List (Nat × Nat)
  | 0, _, _, _ => []
  | k + 1, a, off, n => if n = 0 then [] else
      let len := min n (128 - (a + off) % 128)
      (off, len) :: linePieces k a (off + len) (n - len)

/-! ### The device's own writes: journal, events, status words, images -/

/-- The state with a message of the package's own interface to send, or a word to write, put among the requests that wait here (R249, R250; 0x42 to 0x45 are the model's own numbers). -/
def keepOwn (op : Nat) (r : Req) (s : State) : State := { s with fabric := { s.fabric with pending := s.fabric.pending ++ [.req op r] } }

/-- A request header with nothing in it but its address and payload. -/
def plainReq (src dst : PkgNo) (fn addr : Nat) (payload : List Byte) : Req :=
  { src := src, dst := dst, tag := 0, size := 0, scope := 5, rly := false, fn := BitVec.ofNat 4 fn, pasid := 0, addr := BitVec.ofNat 57 addr, payload := payload }

/-- Whether a write of the device to a line waits here (0x42): the later ones to the line follow it. -/
def putWaits (ms : List OutMsg) (line : Nat) : Bool :=
  ms.any (fun m => match m with
    | .req op r => op == 0x42 && lineOf r.addr.toNat == line
    | _ => false)

/-- Bytes of one line written by the device itself, at the slice or the package that owns them: whether that is done, or on its way. Bytes that no package serves are dropped. -/
def putNow (a n v : Nat) (s : State) : Bool × State :=
  match routeOf s 0 (gfnOf a) with
  | .here _ _ => (match sliceWrite { cls := 2, pkg := s.fabric.num } a n v (2 ^ n - 1) none s with
    | (.busy, s) => (false, s)
    | (_, s) => (true, s))
  | .away p =>
    let off := a % 128
    (match sendReq { die := 4, dst := p, op := 0x03, size := 128, scope := 5, fn := 0, pasid := 0, addr := lineOf a
                     payload := bytesOfNat 16 (spanMask off n) ++ bytesOfNat 128 (v % 2 ^ (8 * n) * 2 ^ (8 * off)), waiter := .device } s with
    | (some _, s) => (true, s)
    | (none, s) => (false, s))
  | .refused _ => (true, s)
  | .ask q => (false, askOwner s 0 (gfnOf a) q)
  | .hold => (false, s)

/-- The state with bytes of one line written by the device, or kept here until they can be. -/
def putPiece (a n v : Nat) (s : State) : State :=
  let later (s : State) : State := keepOwn 0x42 (plainReq s.fabric.num s.fabric.num 0 a (bytesOfNat n v)) s
  if putWaits s.fabric.pending (lineOf a) then later s
  else match putNow a n v s with
    | (true, s) => s
    | (false, s) => later s

/-- The state with n bytes written by the device itself, line by line (R118, R234, R250). -/
def putMem (a n v : Nat) (s : State) : State :=
  (linePieces (n + 1) a 0 n).foldl (fun s p => putPiece (a + p.1) p.2 (v / 2 ^ (8 * p.1) % 2 ^ (8 * p.2)) s) s

/-- n bytes that the manual does not define, as a number, from a free value's index (log entry 4). -/
def freeNum (t : Nat) : Nat → Nat
  | 0 => 0
  | n + 1 => (Config.freeByte t).toNat + 256 * freeNum (t + 1) n

/-- The state with n bytes written whose contents the manual does not define (log entry 4). -/
def putFree (a n : Nat) (s : State) : State :=
  (linePieces (n + 1) a 0 n).foldl (fun s p => putPiece (a + p.1) p.2 (freeNum s.tick p.2) { s with tick := s.tick + p.2 }) s

/-- The state with a journal entry made (R263). -/
def journalEntry (type queue a b : Nat) (s : State) : State :=
  let q := s.mgmt.journalSeq
  let s := match s.mgmt.journal with
    | none => s
    | some r => putMem (r.base + 32 * ((q - 1) % 2 ^ r.log2)) 32
        (q + 2 ^ 64 * (type % 65536) + 2 ^ 80 * (queue % 65536) + 2 ^ 128 * (a % 2 ^ 64) + 2 ^ 192 * (b % 2 ^ 64)) s
  { s with mgmt := { s.mgmt with journalSeq := q + 1 } }

/-- The state with a 32-byte event written to the event ring, when one is set (R266, R270): what it holds is noted at its index, and where its fields lie is not stated, so its bytes
are free (log entry 4). -/
def eventRecord (x : EventRec) (s : State) : State :=
  match s.mgmt.events with
  | none => s
  | some r =>
    let i := s.mgmt.eventIndex % 2 ^ r.log2
    putFree (r.base + 32 * i) 32 { s with mgmt := { s.mgmt with eventIndex := s.mgmt.eventIndex + 1, eventData := (i, x) :: s.mgmt.eventData.filter (fun y => y.1 != i) } }

/-- The state with an error event in the journal and in the event ring (R266); how its source and detail are coded is not stated, so both are free
(R263; log entry 4). -/
def errorEvent (s : State) : State :=
  let source := freePair s.tick
  let detail := freePair (s.tick + 2)
  eventRecord (.error source detail) (journalEntry 4 0 source detail { s with tick := s.tick + 4 })

/-! ### Cluster caches (R103, R115, R124, R125) -/

/-- The mode of a bank (R101). -/
def bankMode (cl : Cluster) (k : Nat) : Nat := fieldNat cl.bankmode (2 * k) 2
/-- Whether a bank is changing mode (R101). -/
def bankBusy (cl : Cluster) (k : Nat) : Bool := cl.bankstat.getLsbD k
/-- Whether a bank is a way of the cluster cache: it is in CACHE mode and not leaving it (R102, R103). -/
def liveWay (cl : Cluster) (k : Nat) : Bool := bankMode cl k == 0 && !bankBusy cl k
/-- Whether a cluster has a way. -/
def hasWays (cl : Cluster) : Bool := (List.range 16).any (liveWay cl)
/-- The set of a line: address bits [17:7], one line for each way (R103). -/
def setOfLine (line : Nat) : Nat := line / 128 % 2048

/-- Whether a cluster's copy of a line lies where its bank is marked failed (R173): a read of it faults, and its dirty bytes are lost. -/
def copyBad (cl : Cluster) (line : Nat) (stack : Bool) : Bool :=
  cl.lines.any (fun l => l.addr == line && l.stack == stack && cl.badWays.contains (l.way, setOfLine l.addr))

/-- An absent line. -/
def emptyLine (addr : Nat) (stack : Bool) : CacheLine := { addr := addr, way := 0, valid := 0, dirty := 0, data := 0, stack := stack }
/-- The line of a cluster cache at an address, empty when absent. -/
def cacheLine (cl : Cluster) (line : Nat) (stack : Bool) : CacheLine :=
  (cl.lines.find? (fun l => l.addr == line && l.stack == stack)).getD (emptyLine line stack)
/-- The lines with one replaced; a line with no byte is not kept. -/
def putLine (ls : List CacheLine) (l : CacheLine) : List CacheLine :=
  let rest := ls.filter (fun x => !(x.addr == l.addr && x.stack == l.stack))
  if l.valid = 0 then rest else l :: rest

/-- n bytes of a line at an offset. -/
def lineBytes (l : CacheLine) (off n : Nat) : Nat := (l.data.toNat >>> (8 * off)) % 2 ^ (8 * n)
/-- Whether a line holds n bytes at an offset. -/
def lineHolds (l : CacheLine) (off n : Nat) : Bool := (l.valid.toNat &&& spanMask off n) == spanMask off n

/-- The bits of the bytes that a byte mask names. -/
def spread (mask n : Nat) : Nat := (List.range n).foldl (fun a b => if mask.testBit b then a + 255 * 2 ^ (8 * b) else a) 0

/-- A line with masked bytes replaced. -/
def mergeBytes (data : BitVec 1024) (v : BitVec 1024) (mask : BitVec 128) : BitVec 1024 :=
  let bits : BitVec 1024 := BitVec.ofNat 1024 (spread mask.toNat 128)
  (data &&& ~~~bits) ||| (v &&& bits)

/-- A line after a store of n bytes at an offset (R115). -/
def storeLine (l : CacheLine) (off n v : Nat) : CacheLine :=
  let m : BitVec 128 := BitVec.ofNat 128 (spanMask off n)
  { l with valid := l.valid ||| m, dirty := l.dirty ||| m
           data := mergeBytes l.data (BitVec.ofNat 1024 ((v % 2 ^ (8 * n)) * 2 ^ (8 * off))) m }

/-- A line filled with the owner's bytes under its own (R127: the clean bytes are refetched and merged). -/
def fillLine (l : CacheLine) (v : BitVec 1024) : CacheLine := { l with valid := ~~~0, data := mergeBytes v l.data l.valid }

/-- A line without its clean bytes. -/
def dropClean (l : CacheLine) : CacheLine := { l with valid := l.dirty }

/-- The bytes of a byte mask, then of a line, as a WRM payload (R240). -/
def maskedPayload (l : CacheLine) : List Byte := bytesOfNat 16 l.dirty.toNat ++ bytesOfNat 128 l.data.toNat

/-- The state with a line of this package marked failed, as bytes that ECC could not correct were to be written to it (R173). -/
def markDest (line : Nat) (s : State) : State :=
  errorEvent (if s.failed.contains line then s else countError .mark { s with failed := s.failed ++ [line] })

/-- The state after one line's dirty bytes of a cluster cache are written back toward their owner (R125, R127); unchanged while the owner
is not known or the line is claimed. Bytes that ECC cannot correct are not written: their line is marked failed at its owner (R173), which another package learns by a WRM with an empty
mask (DESIGN CHOICE, log entry 9: the spec names no message for it). Stack lines are backed by memory that the driver pinned (R99). -/
def writeBackFor (replay : Bool) (c : ClusterId) (l : CacheLine) (s : State) : State :=
  if l.dirty = 0 then s
  else
    let bad := copyBad (clusterOf s c) l.addr l.stack
    let gone (s : State) : State := setCluster s c (fun cl => { cl with lines := putLine cl.lines { l with dirty := 0, valid := l.valid &&& ~~~l.dirty } })
    let clean (s : State) : State := if bad then gone s else setCluster s c (fun cl => { cl with lines := putLine cl.lines { l with dirty := 0 } })
    let drop (s : State) : State := errorEvent (gone s)
    match routeFor replay s c.die (gfnOf l.addr) with
    | .here _ _ =>
      if bad then markDest l.addr (gone s)
      else match sliceWrite { cls := 1, pkg := s.fabric.num, replay := replay } l.addr 128 l.data.toNat l.dirty.toNat none s with
      | (.done _, s') => clean s'
      | (.busy, s') => s'
      | (.refused _ _, s') => drop s'
    | .away p =>
      match sendReq { die := c.die.toNat, dst := p, op := 0x03, size := 128, scope := 5, fn := 0, pasid := 0, addr := l.addr
                      payload := maskedPayload (if bad then { l with dirty := 0 } else l), waiter := .writeBack l.addr } s with
      | (some _, s') => clean s'
      | (none, s') => s'
    | .refused _ => drop s
    | .ask r => askOwner s c.die (gfnOf l.addr) r
    | .hold => s

/-- The state after one line's dirty bytes of a cluster cache are written back. -/
def writeBack (c : ClusterId) (l : CacheLine) (s : State) : State := writeBackFor false c l s

/-- The state with a MIG message of this package's interface on its way, as soon as a TAG is free (R240, R250). -/
def tellMig (dst : PkgNo) (fn : Nat) (g : Gfn) (payload : List Byte) (s : State) : State :=
  keepOwn 0x43 (plainReq s.fabric.num dst fn (g.toNat * 2097152) payload) s

/-- The payload of a MIG message (R240): GFN, package, pool, frame and GEN. The places of the fields are the model's (log entry 9). -/
def migPayload (g : Gfn) (p : PkgNo) (pool frame gen : Nat) : List Byte :=
  bytesOfNat 5 g.toNat ++ bytesOfNat 1 p.toNat ++ bytesOfNat 1 pool ++ bytesOfNat 3 frame ++ bytesOfNat 6 gen

/-- The state with the registrar told that MOVING or RETIRED of a granule's record is set: 1 sets MOVING, 2 RETIRED. The spec names these flags of the registrar's record
and no message that sets them; the model sends them in a record update whose pool is 8 and more (R173, R231, R250; DESIGN CHOICE, log entry 9). -/
def tellFlags (g : Gfn) (what : Nat) (s : State) : State := tellMig (registrarOf s.fabric g) 1 g (migPayload g s.fabric.num (8 + what) 0 0) s

/-- Whether a cluster still holds a dirty byte of a line, or its write-back is not acknowledged. -/
def lineDirty (s : State) (c : ClusterId) (line : Nat) (stack : Bool) : Bool :=
  (cacheLine (clusterOf s c) line stack).dirty != 0 || waiting s (.writeBack line)

/-- The state without a line of a cluster cache. -/
def dropLine (c : ClusterId) (line : Nat) (stack : Bool) (s : State) : State :=
  setCluster s c (fun cl => { cl with lines := cl.lines.filter (fun l => !(l.addr == line && l.stack == stack)), epoch := cl.epoch + 1 })

/-- The state with a cluster's own dirty bytes of a line written back, and then the line dropped (R102, R132, R139, R148); none while that waits. -/
def flushFor (replay : Bool) (c : ClusterId) (line : Nat) (stack : Bool) (s : State) : Option State × State :=
  let s := writeBackFor replay c (cacheLine (clusterOf s c) line stack) s
  if lineDirty s c line stack then (none, s)
  else
    let s := dropLine c line stack s
    (some s, s)

/-- The state with a cluster's copy of a line written back and dropped. -/
def flushCopy (c : ClusterId) (line : Nat) (stack : Bool) (s : State) : Option State × State := flushFor false c line stack s

/-- The state with a cluster's copy of a global line written back and dropped. -/
def flushLine (c : ClusterId) (line : Nat) (s : State) : Option State × State := flushCopy c line false s

/-- The state in which a cluster holds a line in no departing bank: a copy there is written back and dropped before the line is used again (R102); none while that waits. -/
def leaveFor (replay : Bool) (c : ClusterId) (line : Nat) (stack : Bool) (s : State) : Option State × State :=
  if (clusterOf s c).lines.any (fun l => l.addr == line && l.stack == stack && !liveWay (clusterOf s c) l.way.toNat) then flushFor replay c line stack s else (some s, s)

/-- The state in which a cluster holds a line in no departing bank, for any access but a replay of the log (R102). -/
def leaveBank (c : ClusterId) (line : Nat) (stack : Bool) (s : State) : Option State × State := leaveFor false c line stack s

/-- The copy that a cluster has, or takes, for a line: one in a way (R103). A full set gives up a line that a free choice names, once its dirty bytes are written back; none while that
waits, or when the cluster has no way. -/
def withRoom (c : ClusterId) (line : Nat) (stack : Bool) (s : State) : Option CacheLine × State :=
  let cl := clusterOf s c
  let live := (List.range 16).filter (liveWay cl)
  let good := live.filter (fun k => !cl.badWays.contains (BitVec.ofNat 4 k, setOfLine line))
  let ways := if good.isEmpty then live else good
  let inSet := fun (k : Nat) => cl.lines.find? (fun l => l.way.toNat == k && setOfLine l.addr == setOfLine line)
  match cl.lines.find? (fun l => l.addr == line && l.stack == stack) with
  | some l => (some l, s)
  | none =>
    match ways.find? (fun k => (inSet k).isNone) with
    | some k => (some { emptyLine line stack with way := BitVec.ofNat 4 k }, s)
    | none =>
      let (t, s) := draw s
      match ways[Config.pick t % ways.length]? with
      | none => (none, s)
      | some k => match inSet k with
        | none => (none, s)
        | some v => match flushCopy c v.addr v.stack s with
          | (some s, _) => (some { emptyLine line stack with way := BitVec.ofNat 4 k }, s)
          | (none, s) => (none, s)

/-- The state with a line put into a cluster cache. -/
def keepIn (c : ClusterId) (l : CacheLine) (s : State) : State := setCluster s c (fun cl => { cl with lines := putLine cl.lines l })

end Sys2Proof.Machine
end

