-- ==== Sys2Proof/Machine/EngineAt.lean ====
section
/-! DEFINITION. How an engine command, a page walk or a replay of the log reads and writes physical memory: at its cluster cache, at this package's slices, or at another package, once (06 R132,
R137; 08 R160, R172; 09 R184, R201). -/

namespace Sys2Proof.Machine

/-- An engine command as its accesses see it: its identity, place, scope and cord, and its class for watchpoints: 2, or 1 for a cord's fetches and the replays of its stores (R270);
replay marks the latter. -/
structure Eng where
  id : Nat
  cluster : ClusterId
  pasid : Pasid
  scope : Nat
  stand : StandKey
  bulk : Bool := false
  cls : Nat := 2
  replay : Bool := false
  deriving DecidableEq, Repr

/-- The die of an engine command. -/
def engDie (e : Eng) : DieId := e.cluster.die

/-- What an engine access answers: a value, not yet, or a fault code with its subcode times 256. -/
inductive Got where
  | ok (v : Nat)
  | later
  | fault (code : Nat)
  deriving DecidableEq, Repr

/-- The mark that a command has left at an address. -/
def engMark (s : State) (id pa : Nat) (write : Bool) : Option EngLine := s.englines.find? (fun x => x.id == id && x.pa == pa && x.write == write)
/-- The state with a mark added. -/
def addMark (m : EngLine) (s : State) : State := { s with englines := s.englines ++ [m] }
/-- The state without a command's marks: the piece of work they belong to is done. -/
def clearMarks (id : Nat) (s : State) : State := { s with englines := s.englines.filter (fun x => x.id != id) }
/-- The state without anything kept for a command. -/
def forgetEng (id : Nat) (s : State) : State := { clearMarks id s with answers := s.answers.filter (fun a => a.id != id) }

/-- The agent of an engine command at a slice (R270). -/
def engAgent (e : Eng) (s : State) : Agent := { cls := e.cls, pkg := s.fabric.num, replay := e.replay }

/-- A request of an engine to another package, sent once. -/
def engSend (e : Eng) (p : PkgNo) (op size fn pa key : Nat) (write : Bool) (payload : List Byte) (s : State) : Got × State :=
  if waiting s (.engine e.id key write) then (.later, s)
  else (.later, (sendReq { die := (engDie e).toNat, dst := p, op := op, size := size, scope := e.scope, fn := fn, pasid := 0, addr := pa, payload := payload
                           waiter := .engine e.id key write, bulk := e.bulk && write && op != 0x04 } s).2)

/-- A point of coherence's answer, as an engine takes it. -/
def gotOf (r : Served × State) : Got × State :=
  match r.1 with
  | .done v => (.ok v, r.2)
  | .busy => (.later, r.2)
  | .refused code sub => (.fault (code + 256 * sub), r.2)

/-- The access of a cluster-scope command to a line that its cluster holds in no departing bank (R102). -/
def engCache (e : Eng) (pa : Nat) (s : State) (k : State → Got × State) : Got × State :=
  if 2 ≤ e.scope then k s
  else match leaveFor e.replay e.cluster (lineOf pa) false s with
    | (some s, _) => k s
    | (none, s) => (.later, s)

/-- n bytes of one line read at the point of coherence of the command's scope (R132, R201). -/
def engReadPhys (e : Eng) (pa n : Nat) (s : State) : Got × State :=
  engCache e pa s (fun s =>
  let l := cacheLine (clusterOf s e.cluster) (lineOf pa) false
  let merge (v : Nat) : Nat := lineBytes (if e.scope ≤ 1 then fillLine l (BitVec.ofNat 1024 v) else { emptyLine 0 false with data := BitVec.ofNat 1024 v }) (pa % 128) n
  if e.scope ≤ 1 && copyBad (clusterOf s e.cluster) (lineOf pa) false then (.fault 0x0B, s)
  else if e.scope ≤ 1 && lineHolds l (pa % 128) n then (.ok (lineBytes l (pa % 128) n), s)
  else match routeFor e.replay s (engDie e) (gfnOf pa) with
    | .here _ _ =>
      if e.scope ≤ 1 then (match gotOf (sliceRead (engAgent e s) (lineOf pa) 128 s) with
        | (.ok v, s') => (.ok (merge v), s')
        | r => r)
      else gotOf (sliceRead (engAgent e s) pa n s)
    | .away p =>
      (match engMark s e.id (lineOf pa) false with
       | some m => if m.code = 0 then (.ok (merge m.data.toNat), s) else (.fault m.code, s)
       | none => engSend e p 0x08 128 0 (lineOf pa) (lineOf pa) false [] s)
    | .refused sub => (.fault (9 + 256 * sub), s)
    | .ask r => (.later, askOwner s (engDie e) (gfnOf pa) r)
    | .hold => (.later, s))

/-- n bytes of one line written at the point of coherence of the command's scope, once: a mark says that the write has been performed. -/
def engWritePhys (e : Eng) (pa n v : Nat) (s : State) : Got × State :=
  let mark (code : Nat) (s : State) : State := addMark { id := e.id, pa := pa, write := true, code := code, data := 0 } s
  match engMark s e.id pa true with
  | some m => (if m.code = 0 then .ok 0 else .fault m.code, s)
  | none => engCache e pa s (fun s =>
    if e.scope ≤ 1 && hasWays (clusterOf s e.cluster) then (match withRoom e.cluster (lineOf pa) false s with
      | (some cur, s) => (.ok 0, mark 0 (keepIn e.cluster (storeLine cur (pa % 128) n v) s))
      | (none, s) => (.later, s))
    else match routeFor e.replay s (engDie e) (gfnOf pa) with
      | .here _ _ => (match gotOf (sliceWrite (engAgent e s) pa n v (2 ^ n - 1) none s) with
          | (.ok _, s') => (.ok 0, mark 0 s')
          | r => r)
      | .away p => engSend e p 0x03 128 0 (lineOf pa) pa true (maskedPayload (storeLine (emptyLine (lineOf pa) false) (pa % 128) n v)) s
      | .refused sub => (.fault (9 + 256 * sub), s)
      | .ask r => (.later, askOwner s (engDie e) (gfnOf pa) r)
      | .hold => (.later, s))

/-- A 32-bit atomic at the place R132 gives for the command's scope, once. -/
def engAtomPhys (e : Eng) (fn pa : Nat) (b : Word) (s : State) : Got × State :=
  match engMark s e.id pa true with
  | some m => (if m.code = 0 then .ok 0 else .fault m.code, s)
  | none =>
    match routeFor e.replay s (engDie e) (gfnOf pa) with
    | .here _ _ => (match gotOf (sliceAtom (engAgent e s) fn pa b 0 s) with
        | (.ok v, s') => (.ok v, addMark { id := e.id, pa := pa, write := true, code := 0, data := 0 } s')
        | r => r)
    | .away p => engSend e p 0x04 4 fn pa pa true (atPayload (b.setWidth 64) 0) s
    | .refused sub => (.fault (9 + 256 * sub), s)
    | .ask r => (.later, askOwner s (engDie e) (gfnOf pa) r)
    | .hold => (.later, s)

/-- Whether requests of a command to other packages are still out. -/
def engOut (s : State) (id : Nat) : Bool :=
  s.fabric.outstanding.any (fun o => match o.waiter with
    | .engine i _ _ => i == id
    | _ => false)

/-- A number of bytes read piece by piece; every piece is asked for before the first that is not there is waited for. -/
def readPieces (rd : Nat → Nat → State → Got × State) : List (Nat × Nat) → State → Got × State
  | [], s => (.ok 0, s)
  | (off, len) :: ps, s =>
    let (g, s) := rd off len s
    let (r, s) := readPieces rd ps s
    match g, r with
    | .fault c, _ => (.fault c, s)
    | .later, _ => (.later, s)
    | .ok _, .fault c => (.fault c, s)
    | .ok _, .later => (.later, s)
    | .ok v, .ok w => (.ok (v + 2 ^ (8 * len) * w), s)

/-- A number of bytes written piece by piece; a piece that fails is not written, and the others are (R202, R209). -/
def writePieces (wr : Nat → Nat → Nat → State → Got × State) (v : Nat) : List (Nat × Nat) → State → Got × State
  | [], s => (.ok 0, s)
  | (off, len) :: ps, s =>
    let (g, s) := wr off len (v % 2 ^ (8 * len)) s
    let (r, s) := writePieces wr (v / 2 ^ (8 * len)) ps s
    match g, r with
    | .later, _ => (.later, s)
    | _, .later => (.later, s)
    | .fault c, _ => (.fault c, s)
    | .ok _, r => (r, s)

end Sys2Proof.Machine
end

