-- ==== Sys2Proof/Machine/Translate.lean ====
section
/-! DEFINITION. Translation of global addresses, page walks and page requests (R160 to R166), and the fault-deferral log (R167 to R171). -/

namespace Sys2Proof.Machine

/-! ### Page tables (R160). The entry layout is that of the RISC-V Sv57 standard that R1 names (log entry 6). -/

/-- What a walk finds: a leaf of a size with its frame, permissions and entry; no mapping; a permission that denies the access; a fault that is delivered at once, with its code and 256 times its
subcode; or a line of a table that is still to come from another package. -/
inductive WalkResult where
  | leaf (shift frame : Nat) (r w x d : Bool) (at_ : Nat)
  | absent
  | denied
  | refused (code : Nat)
  | later
  deriving DecidableEq, Repr

/-- Whether permissions give an access what it needs: bit 0 R, bit 1 W, bit 2 X (R160). -/
def permits (need : Nat) (r w x : Bool) : Bool :=
  (!need.testBit 0 || r) && (!need.testBit 1 || w) && (!need.testBit 2 || x)

/-- A walk as an engine command: it reads the tables from the coherent memory at package scope (R160). -/
def walkEng (d : DieId) (p : Pasid) (page : Nat) : Eng :=
  { id := 2 ^ 256 * (1 + d.toNat + 4 * p.toNat) + page, cluster := d ++ 0#4, pasid := p, scope := 3, stand := { queue := 0, seq := 0, num := 0 } }

/-- The walk from a table at a level (R160): leaves of 4 KiB, 2 MiB and 1 GiB; U must be set. -/
def walkFrom (e : Eng) (va need : Nat) : Nat → Nat → State → WalkResult × State
  | 0, _, s => (.absent, s)
  | k + 1, table, s =>
    let shift := 12 + 9 * k
    let a := table + 8 * (va / 2 ^ shift % 512)
    match engReadPhys e a 8 s with
    | (.later, s) => (.later, s)
    | (.fault code, s) => (.refused code, s)
    | (.ok v, s) =>
      let r := v.testBit 1; let w := v.testBit 2; let x := v.testBit 3
      let ppn := v / 1024 % 2 ^ 44
      if !v.testBit 0 || (w && !r) || decide (0 < v / 2 ^ 54) || (!r && !x && (v.testBit 4 || v.testBit 6 || v.testBit 7)) then (.absent, s)
      else if r || x then
        if 3 ≤ k || decide (0 < ppn % 2 ^ (9 * k)) then (.absent, s)
        else if !v.testBit 4 || !permits need r w x then (.denied, s)
        else (.leaf shift (ppn / 2 ^ (9 * k)) r w x (v.testBit 7) a, s)
      else walkFrom e va need k (ppn * 4096) s

/-! ### The directories (R160). The layouts are those of the RISC-V IOMMU specification that R1 names (log entry 6). -/

/-- The page that a directory entry or a register names: its frame number lies in bits 53 to 10. -/
def dirPage (e : Nat) : Nat := e / 1024 % 2 ^ 44 * 4096

/-- Whether n bits from bit lo are 0. -/
def zeroBits (v lo n : Nat) : Bool := v / 2 ^ lo % 2 ^ n == 0

/-- The entry that a chain of directory tables leads to, by its address: each table's index and entry size; a fault at an entry that is not valid or has a reserved bit set. -/
def dirWalk (e : Eng) : List (Nat × Nat) → Nat → State → Got × State
  | [], _, s => (.fault 7, s)
  | [(i, size)], table, s => (.ok (table + i * size), s)
  | (i, size) :: rest, table, s =>
    match engReadPhys e (table + i * size) 8 s with
    | (.ok v, s) => if v.testBit 0 && zeroBits v 1 9 && zeroBits v 54 10 then dirWalk e rest (dirPage v) s else (.fault 7, s)
    | g => g

/-- The tables of a device directory by the mode of ddtp: one to three levels of 128, 512 and 256 entries, device contexts of 32 bytes. A device number that the mode does not reach has none. -/
def deviceLevels (mode : Nat) (dev : BitVec 24) : List (Nat × Nat) :=
  let leaf := (fieldNat dev 0 7, 32)
  match mode with
  | 2 => if fieldNat dev 7 17 = 0 then [leaf] else []
  | 3 => if fieldNat dev 16 8 = 0 then [(fieldNat dev 7 9, 8), leaf] else []
  | 4 => [(fieldNat dev 16 8, 8), (fieldNat dev 7 9, 8), leaf]
  | _ => []

/-- The tables of a process directory by its mode, PD8, PD17 or PD20: process contexts of 16 bytes. A PASID that the mode does not reach has none. -/
def processLevels (mode : Nat) (p : Pasid) : List (Nat × Nat) :=
  let leaf := (fieldNat p 0 8, 16)
  match mode with
  | 1 => if fieldNat p 8 12 = 0 then [leaf] else []
  | 2 => if fieldNat p 17 3 = 0 then [(fieldNat p 8 9, 8), leaf] else []
  | 3 => [(fieldNat p 17 3, 8), (fieldNat p 8 9, 8), leaf]
  | _ => []

/-- Whether a device context (tc, iohgatp, ta, fsc) serves the compute side: valid, with process contexts, little-endian, the second stage Bare, its page-request bits in accord, no reserved bit
set (R160). -/
def deviceOk (dc : Nat) : Bool :=
  let tc := dc % 2 ^ 64
  let ta := dc / 2 ^ 128 % 2 ^ 64
  let fsc := dc / 2 ^ 192
  tc.testBit 0 && tc.testBit 5 && (tc.testBit 1 || !tc.testBit 2) && (tc.testBit 2 || !tc.testBit 6) && !tc.testBit 3 && zeroBits tc 10 2 && zeroBits tc 12 12 && zeroBits tc 32 32 &&
    zeroBits (dc / 2 ^ 64) 60 4 && zeroBits ta 0 12 && zeroBits ta 32 32 && zeroBits fsc 44 16

/-- Whether a process context (ta, fsc) is valid, in Sv57 mode, with no reserved bit set (R160). -/
def processOk (pc : Nat) : Bool :=
  let ta := pc % 2 ^ 64
  let fsc := pc / 2 ^ 64
  ta.testBit 0 && zeroBits ta 3 9 && zeroBits ta 32 32 && zeroBits fsc 44 16 && fsc / 2 ^ 60 == 10

/-- The word of the compute side's device context that names its process directory: mode and first page (R160). -/
def processRoot (e : Eng) (s : State) : Got × State :=
  match dirWalk e (deviceLevels (s.iommu.ddtp.toNat % 16) s.iommu.device) (dirPage s.iommu.ddtp.toNat) s with
  | (.ok a, s) => (match engReadPhys e a 32 s with
    | (.ok dc, s) => if deviceOk dc then (.ok (dc / 2 ^ 192), s) else (.fault 7, s)
    | g => g)
  | g => g

/-- The first page of a PASID's page table, when its process context is valid and in Sv57 mode (R160). -/
def sv57Root (e : Eng) (p : Pasid) (s : State) : Got × State :=
  match processRoot e s with
  | (.ok root, s) => (match dirWalk e (processLevels (root / 2 ^ 60) p) (root % 2 ^ 44 * 4096) s with
    | (.ok a, s) => (match engReadPhys e a 16 s with
      | (.ok pc, s) => if processOk pc then (.ok (pc / 2 ^ 64 % 2 ^ 44 * 4096), s) else (.fault 7, s)
      | g => g)
    | g => g)
  | g => g

/-- The walk of an address under a PASID, as far as its tables are at hand. A context that is not in Sv57 mode, and one that cannot be read, fails at once (R160, R164). -/
def walkNow (e : Eng) (p : Pasid) (va need : Nat) (s : State) : WalkResult × State :=
  match sv57Root e p s with
  | (.ok root, s) => walkFrom e (va % 2 ^ 57) need 5 root s
  | (.later, s) => (.later, s)
  | (.fault code, s) => (.refused code, s)

/-- The access of the walker that sets A in an entry, and D on a write: an atomic at package scope (R160). -/
def markEntry (e : Eng) (a need : Nat) (s : State) : Got × State :=
  engAtomPhys e 6 a (BitVec.ofNat 32 (64 + (if need.testBit 1 then 128 else 0))) s

/-- The code of a walk that fails: 256 and more for a fault that is delivered at once. -/
def missCode : WalkResult → Nat
  | .denied => 8
  | .refused code => 256 + code
  | _ => 7

/-- The physical address that a walk would find now, where its tables are at hand. -/
def peekWalk (s : State) (d : DieId) (p : Pasid) (va need : Nat) : Option Nat :=
  match (walkNow (walkEng d p (va % 2 ^ 57 / 4096)) p va need s).1 with
  | .leaf shift frame _ _ _ _ _ => some (frame * 2 ^ shift + va % 2 ^ shift)
  | _ => none

/-! ### Cached translations (R161, R163) -/

/-- The smallest entry that matches an address (R163) and permits the access. -/
def tlbFind (es : List TlbEntry) (p : Pasid) (va need : Nat) : Option TlbEntry :=
  (es.filter (fun e => e.pasid == p && decide (va % 2 ^ 57 / 2 ^ e.shift = e.page))).foldl
    (fun b e => match b with
      | some x => if e.shift < x.shift then some e else some x
      | none => some e) none |>.filter (fun e => permits need e.r e.w e.x)

/-- The physical address an entry gives. -/
def tlbPhys (e : TlbEntry) (va : Nat) : Nat := e.frame * 2 ^ e.shift + va % 2 ^ e.shift

/-- The physical address of an access of a core, from its L1 TLB, its cluster's L2 TLB or its die's ATS cache (R161). -/
def cached (s : State) (c : CoreId) (p : Pasid) (va need : Nat) : Option Nat :=
  match tlbFind (coreOf s c).tlb p va need with
  | some e => some (tlbPhys e va)
  | none => match tlbFind (clusterOf s c.cluster).tlb p va need with
    | some e => some (tlbPhys e va)
    | none => (tlbFind (dieOf s c.die).ats p va need).map (fun e => tlbPhys e va)

/-- The entries with one added, newest first; a larger lingering entry that the new one replaces for its page is dropped (R163). -/
def tlbAdd (es : List TlbEntry) (e : TlbEntry) : List TlbEntry :=
  e :: es.filter (fun x => !(x.pasid == e.pasid && decide (e.shift ≤ x.shift) && decide (e.page * 2 ^ e.shift / 2 ^ x.shift = x.page)))

/-- An L1 TLB with an entry added: 96 entries, fully associative (R161). -/
def tlbAdd1 (es : List TlbEntry) (e : TlbEntry) : List TlbEntry := (tlbAdd es e).take 96

/-- An L2 TLB with an entry added (R161): 4,096 entries of 4 KiB, 8 to a set by the low page bits, and 256 larger ones. -/
def tlbAdd2 (es : List TlbEntry) (e : TlbEntry) : List TlbEntry :=
  let all := tlbAdd es e
  let mates := all.filter (fun x => x.shift == 12 && x.page % 512 == e.page % 512)
  let out := if e.shift = 12 then mates.drop 8 else []
  let large := (all.filter (fun x => x.shift != 12)).drop 256
  all.filter (fun x => !(out ++ large).contains x)

/-- A die's ATS cache with an entry added: 32,768 entries, 16 to a set by the low page bits (R161). -/
def tlbAddAts (es : List TlbEntry) (e : TlbEntry) : List TlbEntry :=
  let all := tlbAdd es e
  let out := (all.filter (fun x => x.page % 2048 == e.page % 2048)).drop 16
  all.filter (fun x => !out.contains x)

/-- The entry of a walk; W is cached only once D is set, so that every first write walks (R160). -/
def walkEntry (p : Pasid) (va need : Nat) : WalkResult → Option TlbEntry
  | .leaf shift frame r w x d _ =>
    some { pasid := p, page := va % 2 ^ 57 / 2 ^ shift, shift := shift, frame := frame, r := r, w := w && (d || need.testBit 1), x := x }
  | _ => none

/-- The state with a walk started for a page, or joined, by a cord's access or by an engine command (R161); unchanged when the die's 64 walkers are busy. -/
def startWalk (d : DieId) (p : Pasid) (page need : Nat) (engine : Option Nat) (s : State) : State :=
  let es := engine.toList.map (fun i => (i, need))
  setDie s d (fun x =>
    if x.walks.any (fun w => w.pasid == p && w.page == page) then
      let join := fun (w : Walk) => { w with need := if w.need.contains need then w.need else w.need ++ [need], engines := w.engines ++ es.filter (fun e => !w.engines.contains e) }
      { x with walks := modifyWhere (fun w => w.pasid == p && w.page == page) join x.walks }
    else if 64 ≤ x.walks.length then x
    else { x with walks := x.walks ++ [{ pasid := p, page := page, stamp := x.isn, need := [need], engines := es }] })

/-- Whether a walk for a page is in flight. -/
def walkOut (s : State) (d : DieId) (p : Pasid) (page : Nat) : Bool :=
  (dieOf s d).walks.any (fun w => w.pasid == p && w.page == page)

/-! ### Page requests (R165) -/

/-- The state with a page request sent, with the Read and Write flags of the access, or joined; none when 256 are outstanding on the die (R165). -/
def pageRequest (d : DieId) (p : Pasid) (page need : Nat) (engine : Option (Nat × Nat)) (s : State) : Option State :=
  let write := need.testBit 1
  let same := fun (r : PageReq) => r.pasid == p && r.page == page && r.write == write
  let x := dieOf s d
  if x.pageReqs.any same then
    some (setDie s d (fun x => { x with pageReqs := modifyWhere same (fun r => { r with engines := r.engines ++ engine.toList }) x.pageReqs }))
  else if 256 ≤ x.pageReqs.length then none
  else some (setDie s d (fun x => { x with pageReqs := x.pageReqs ++ [{ pasid := p, page := page, write := write, read := need.testBit 0 || need.testBit 2, privileged := false, last := true, engines := engine.toList }] }))

/-- What an engine's access finds (R165, R166). -/
inductive EngFind where
  | phys (pa : Nat)
  | later
  | fault (code : Nat)
  deriving DecidableEq, Repr

/-- The translation of an engine command's access through the die's ATS cache; a miss takes or joins a walker (R161). A fault waits for a page request; a second Success that does not
help, a refusal, and a fault that is delivered at once, are the fault (R164, R166). -/
def engTranslate (d : DieId) (p : Pasid) (id va need : Nat) (s : State) : EngFind × State :=
  let page := va % 2 ^ 57 / 4096
  match tlbFind (dieOf s d).ats p va need with
  | some e => (.phys (tlbPhys e va), s)
  | none => match s.answers.find? (fun a => a.id == id && a.page == page && a.write == need.testBit 1 && a.code != 0) with
    | some a => (.fault a.code, s)
    | none =>
      if (dieOf s d).pageReqs.any (fun r => r.pasid == p && r.page == page && r.write == need.testBit 1 && r.engines.any (fun e => e.1 == id)) then (.later, s)
      else (.later, startWalk d p page need (some id) s)

/-- The state after a walk has failed for an engine command: a page request is sent, or the fault is its answer (R164 to R166). -/
def engMiss (d : DieId) (p : Pasid) (page code : Nat) (e : Nat × Nat) (s : State) : State :=
  let write := e.2.testBit 1
  let helped := s.answers.filter (fun a => a.id == e.1 && a.page == page && a.write == write && a.code == 0)
  let answer (code : Nat) : State := { s with answers := s.answers ++ [{ id := e.1, page := page, write := write, code := code }] }
  if 256 ≤ code then answer (code - 256)
  else if (dieOf s d).requestsOff || decide (2 ≤ helped.length) then answer code
  else (pageRequest d p page e.2 (some (e.1, code)) s).getD s

/-! ### Writes of the device at virtual addresses (R183, R219) -/

/-- Where the next byte of a write of the device lies. A core dump is translated like an engine's access. Bytes that the manual does not define go where the command's own writes went:
nothing is asked for them, and they are left as they are where there is no mapping now. -/
def devAt (w : DevWrite) (s : State) : EngFind × State :=
  match w.data, tlbFind (dieOf s w.die).ats w.pasid w.va 2 with
  | some _, _ => engTranslate w.die w.pasid w.id w.va 2 s
  | none, some e => (.phys (tlbPhys e w.va), s)
  | none, none => match walkNow { walkEng w.die w.pasid 0 with id := w.id } w.pasid w.va 2 s with
    | (.leaf shift frame _ _ _ _ _, s) => (.phys (frame * 2 ^ shift + w.va % 2 ^ shift), s)
    | (.later, s) => (.later, s)
    | (r, s) => (.fault (missCode r), s)

/-- A write of the device with n of its bytes done. -/
def DevWrite.past (w : DevWrite) (n : Nat) : DevWrite := { w with va := w.va + n, left := w.left - n, data := w.data.map (fun v => v / 2 ^ (8 * n)) }

/-- A write of the device after its next bytes: those of one line, or, where they fault, the rest of their page, which are not written; none while they wait. -/
def devNext (w : DevWrite) (s : State) : Option DevWrite × State :=
  match devAt w s with
  | (.later, s) => (none, s)
  | (.fault _, s) => (some (w.past (min w.left (4096 - w.va % 4096))), forgetEng w.id s)
  | (.phys pa, s) =>
    let n := min w.left (128 - w.va % 128)
    let s := match w.data with
      | some v => putMem pa n (v % 2 ^ (8 * n)) s
      | none => putFree pa n s
    (some (w.past n), forgetEng w.id s)

/-- A write of the device taken as far as it goes now; none once it is done. -/
def devGo : Nat → DevWrite → State → Option DevWrite × State
  | 0, w, s => (some w, s)
  | k + 1, w, s =>
    if w.left = 0 then (none, s)
    else match devNext w s with
      | (none, s) => (some w, s)
      | (some w, s) => devGo k w s

/-- The state after a write of the device has been started or has gone on: the journal entry of a core dump follows it (R183, R263). -/
def devWrite (w : DevWrite) (s : State) : State :=
  match devGo (w.left + 1) w s with
  | (some w, s) => { s with devWrites := s.devWrites ++ [w] }
  | (none, s) => match w.dump with
    | some (q, seq, place, code) => journalEntry 5 q.toNat seq (place + 2 ^ 32 * (code % 256)) s
    | none => s

/-- The state after a write of the device that waits has been tried again. -/
def devAgain (id : Nat) (s : State) : State :=
  match s.devWrites.find? (fun w => w.id == id) with
  | none => s
  | some w => devWrite w { s with devWrites := s.devWrites.erase w }

/-- The state with n bytes from a virtual address written by the device: a number's, or undefined ones. -/
def writeVirt (d : DieId) (p : Pasid) (va n : Nat) (data : Option Nat) (dump : Option (QueueNo × Nat × Nat × Nat)) (s : State) : State :=
  let (i, s) := fresh s
  devWrite { id := 2 ^ 300 + i, die := d, pasid := p, va := va % 2 ^ 57, left := n, data := data, dump := dump } s

/-! ### The fault-deferral log (R167 to R171) -/

/-- The state with an entry's bytes written where the core's log lies (R168); slotState 0 free, 1 pending, 2 discarded. -/
def logImage (c : CoreId) (e : LogEntry) (slotState : Nat) (s : State) : State :=
  match (coreOf s c).resv.find? (fun r => r.kind == 2) with
  | none => s
  | some r =>
    let kind := match e.atom with
      | none => 0
      | some fn => 1 + 2 * fn + 32 * e.scope
    let head := e.page * 4096 + 2 ^ 64 * e.pasid.toNat + 2 ^ 96 * (e.slot.toNat + 256 * slotState) + 2 ^ 128 * e.pc.toNat + 2 ^ 160 * kind + 2 ^ 176 * e.recs.length + 2 ^ 192 * e.seq.toNat
    let recs := e.recs.foldr (fun r v => r.value.toNat + 2 ^ 32 * r.word + 2 ^ 42 * r.mask.toNat + 2 ^ 64 * v) 0
    putMem (r.base + 800 * e.index) (32 + 8 * e.recs.length) (head + 2 ^ 256 * recs) s

/-- Whether a page has a pending entry of the core (R169). -/
def pagePending (s : State) (c : CoreId) (p : Pasid) (page : Nat) : Bool :=
  (coreOf s c).log.any (fun e => e.pasid == p && e.page == page && !e.discarded)

/-- The lowest index from which n consecutive entries are free (R168). -/
def freeRun (log : List LogEntry) (n : Nat) : Option Nat :=
  (List.range (257 - n)).find? (fun i => (List.range n).all (fun j => !log.any (fun e => e.index == i + j)))

/-- Records cut into entries of at most 96 (R168). -/
def chunks96 : Nat → List LogRec → List (List LogRec)
  | 0, _ => []
  | _, [] => []
  | k + 1, rs => rs.take 96 :: chunks96 k (rs.drop 96)

/-- The state with the bytes of one access in one page logged, in consecutive entries (R167, R168); none when the log has no room. An entry of a page whose replay has begun
follows it (R169, R170). -/
def logEntries (c : CordId) (k : StandKey) (p : Pasid) (page code flight : Nat) (pc : Word) (atom : Option Nat) (scope : Nat) (recs : List LogRec) (s : State) :
    Option State :=
  let cs := chunks96 8 recs
  let first := (coreOf s c.core).log.find? (fun e => e.pasid == p && e.page == page && !e.discarded)
  (freeRun (coreOf s c.core).log cs.length).map (fun i => cs.zipIdx.foldl (fun s x =>
    let e : LogEntry := { index := i + x.2, flight := flight, page := page, pasid := p, slot := c.slot, stand := k, discarded := false, pc := pc, atom := atom, scope := scope
                          seq := (coreOf s c.core).logSeq, recs := x.1, code := (first.map (fun e => e.code)).getD code, again := first.any (fun e => e.again), pa := first.bind (fun e => e.pa) }
    logImage c.core e 1 (setCore s c.core (fun k => { k with log := k.log ++ [e], logSeq := k.logSeq + 1 }))) s)

/-- The state with an entry freed. -/
def freeLog (c : CoreId) (e : LogEntry) (s : State) : State :=
  logImage c e 0 (setCore s c (fun k => { k with log := k.log.filter (fun x => x.index != e.index) }))

/-- The value of %fdlog (R171). -/
def fdlogValue (k : Core) : Word :=
  BitVec.ofNat 32 ((k.log.filter (fun e => e.discarded)).length * 65536 + (k.log.filter (fun e => !e.discarded)).length)

end Sys2Proof.Machine
end

