-- ==== Sys2Proof/Machine/Scratch.lean ====
section
/-! DEFINITION. Apertures, scratch windows, groves, rings and stacks (R94 to R111). -/

namespace Sys2Proof.Machine

/-! ### Stands and groves -/

/-- The stand of a key, when it is placed and has not ended. -/
def findStand (s : State) (k : StandKey) : Option Stand := s.stands.find? (fun x => x.key == k)
/-- The state with a stand changed. -/
def setStand (k : StandKey) (f : Stand → Stand) (s : State) : State := { s with stands := modifyWhere (fun x => x.key == k) f s.stands }

/-- The grove of a cluster that a stand is a member of, and its grove index (R105). -/
def groveOf (cl : Cluster) (k : StandKey) : Option (Grove × Nat) :=
  cl.groves.findSome? (fun g => (g.members.find? (fun m => m.2 == k)).map (fun m => (g, m.1)))

/-- The stand that a scratch slot names for an accessing stand, or 0x0F (R97, R106). -/
def slotStand (s : State) (c : ClusterId) (me : StandKey) (slot : Nat) : Except Nat StandKey :=
  if slot = 0 then .ok me
  else match groveOf (clusterOf s c) me with
    | none => .error 0x0F
    | some (g, i) =>
      match g.members.find? (fun m => m.1 == (i + slot) % 8) with
      | none => .error 0x0F
      | some m => if g.leaving.contains m.2 then .error 0x0F else .ok m.2

/-- Ring j of a stand (R107). -/
def findRing (cl : Cluster) (k : StandKey) (j : Nat) : Option Ring := cl.rings.find? (fun r => r.stand == k && r.j == j && !r.ended)
/-- The ring at a ring-table index. -/
def ringAt (cl : Cluster) (i : BitVec 6) : Option Ring := cl.rings.find? (fun r => r.index == i)
/-- The state with a ring changed. -/
def setRing (c : ClusterId) (i : BitVec 6) (f : Ring → Ring) (s : State) : State :=
  setCluster s c (fun cl => { cl with rings := modifyWhere (fun r => r.index == i) f cl.rings })
/-- The records a ring holds (R107). -/
def ringSize (r : Ring) : Nat := 2 ^ (r.c + 4)
/-- The records in a ring, modulo 2^32 (R108). -/
def ringCount (r : Ring) : Nat := (r.tail - r.head).toNat
/-- The handle of a ring of this package (R111). -/
def ringHandle (f : Fabric) (c : ClusterId) (i : BitVec 6) : Word := f.num ++ c ++ i ++ 0#13

/-- A ring's 16-byte control block (R108). -/
def controlBlock (f : Fabric) (c : ClusterId) (r : Ring) : Nat :=
  r.tail.toNat + 2 ^ 32 * r.head.toNat + 2 ^ 64 * (r.c % 16) + 2 ^ 68 * (r.kind % 8) + 2 ^ 96 * (ringHandle f c r.index).toNat

/-- A store to HEAD is ignored when it would move HEAD back or past TAIL (R108). -/
def moveHead (h : Word) (r : Ring) : Ring := if (r.tail - r.head) < (h - r.head) then r else { r with head := h }

/-- A ring with a record written at TAIL and published (R109, R111). -/
def appendRecord (v : BitVec 128) (r : Ring) : Ring :=
  { r with recs := memWrite r.recs (16 * (r.tail.toNat % ringSize r)) 16 v.toNat, tail := r.tail + 1 }

/-! ### Steering (R94, R95, R97, R99) -/

/-- Whether a sub-offset can name something of some stand: a window of at most 4 MiB, the records of four rings, or their control blocks (R96, R97). -/
def subOffset (o : Nat) : Bool := decide (o < 0x400000) || decide (0x800000 ≤ o ∧ o < 0x900000) || decide (0xC00000 ≤ o ∧ o < 0xC00040)

/-- The place of a scratch offset, for a stand of a cluster, whatever its alignment (R97). -/
def scratchPlace (s : State) (c : ClusterId) (me : StandKey) (off : Nat) : Except Nat Target :=
  if 2 ^ 27 ≤ off || !subOffset (off % 2 ^ 24) then .error 0x05
  else match slotStand s c me (off / 2 ^ 24) with
    | .error e => .error e
    | .ok k =>
      let o := off % 2 ^ 24
      match findStand s k with
      | none => .error 0x0F
      | some st =>
        if o < st.size then .ok (.win k o)
        else if 0x800000 ≤ o ∧ o < 0x900000 then
          match findRing (clusterOf s c) k ((o - 0x800000) / 0x40000) with
          | some r => if o % 0x40000 < 16 * ringSize r then .ok (.ringRec c r.index (o % 0x40000)) else .error 0x05
          | none => .error 0x05
        else if 0xC00000 ≤ o ∧ o < 0xC00040 then
          match findRing (clusterOf s c) k ((o - 0xC00000) / 16) with
          | some r => .ok (.ringCtl c r.index (o % 16))
          | none => .error 0x05
        else .error 0x05

/-- The place of a scratch access (R95, R97); of several faults of one access the first in the order of R176 is reported (log entry 11). -/
def decodeScratch (s : State) (c : ClusterId) (me : StandKey) (off size : Nat) : Except Nat Target :=
  match scratchPlace s c me off with
  | .ok t => if off % size ≠ 0 then .error 0x06 else .ok t
  | .error e => if e ≠ 0x05 ∧ off % size ≠ 0 then .error 0x06 else .error e

/-- The physical address of a stack byte offset for a lane (R99, R100). -/
def stackPhys (base stackMax slot lane o : Nat) : Nat := base + slot * 96 * stackMax + o / 4 * 384 + lane * 4 + o % 4

/-- The place of an access address of a cord, for a lane or for the scalar stream (R94, R95, R97, R99, R299). -/
def steer (s : State) (c : Cord) (lane : Option Nat) (va : DWord) (size : Nat) : Except Nat Target :=
  let top := fieldNat va 56 8
  let off := fieldNat va 0 56
  if top = 0x80 then decodeScratch s c.id.core.cluster c.stand off size
  else if top = 0x81 then
    match lane with
    | none => .error 0x05
    | some l =>
      if c.stackSize ≤ off then .error 0x05
      else if off % size ≠ 0 then .error 0x06
      else match (coreOf s c.id.core).resv.find? (fun r => r.kind == 1 && r.pasid == c.pasid) with
        | none => .error 0x05
        | some r => .ok (.stack (stackPhys r.base r.stackMax c.id.slot.toNat l off))
  else if top = 0x00 ∨ top = 0xFF then (if off % size ≠ 0 then .error 0x06 else .ok .virt)
  else .error 0x05

/-- The place of a scratch operand (R184). -/
def steerOperand (s : State) (c : Cord) (o : Word) (size : Nat) : Except Nat Target :=
  decodeScratch s c.id.core.cluster c.stand o.toNat size

/-! ### Scratch bytes (R98) -/

/-- The run of 128 bytes of a window that a byte lies in has failed (R173). -/
def runFailed (s : State) (k : StandKey) (off : Nat) : Bool :=
  match findStand s k with
  | some st => (clusterOf s st.cluster).failed.contains (k, off / 128)
  | none => false

/-- n bytes at a scratch place. -/
def scratchRead (t : Target) (n : Nat) (s : State) : Nat :=
  match t with
  | .win k o => match findStand s k with
    | some st => memRead st.window o n
    | none => 0
  | .ringRec c i o => match ringAt (clusterOf s c) i with
    | some r => memRead r.recs o n
    | none => 0
  | .ringCtl c i o => match ringAt (clusterOf s c) i with
    | some r => controlBlock s.fabric c r / 2 ^ (8 * o) % 2 ^ (8 * n)
    | none => 0
  | _ => 0

/-- The state after the WAITBs of a stand's window whose PHASE now differs from their parity have been released (R205, R206). -/
def wakeWaiters (k : StandKey) (s : State) : State :=
  match findStand s k with
  | none => s
  | some st =>
    let wake := fun (w : BarrierWait) =>
      if w.barrier = k && (memGet st.window (w.off + 4)).getLsbD 0 != w.parity then { w with released := true } else w
    { s with bwaits := s.bwaits.map wake }

/-- The state with n bytes stored at a scratch place: a control block takes only its HEAD (R108). -/
def scratchWrite (t : Target) (n v : Nat) (s : State) : State :=
  match t with
  | .win k o => wakeWaiters k (setStand k (fun st => { st with window := memWrite st.window o n v }) s)
  | .ringCtl c i o =>
    match ringAt (clusterOf s c) i with
    | some r =>
      let b := memWrite (memWrite [] 0 16 (controlBlock s.fabric c r)) o n v
      if o < 8 ∧ 4 < o + n then setRing c i (moveHead (BitVec.ofNat 32 (memRead b 4 4))) s else s
    | none => s
  | _ => s

/-- Why a scratch place refuses an access: a record area a store (R108), the window of a stand that has ended (R106), a failed run a read (R173). -/
def scratchFault (s : State) (t : Target) (reads writes : Bool) : Option Nat :=
  match t with
  | .ringRec c i o => if writes then some 0x08 else if (ringAt (clusterOf s c) i).any (fun r => r.failed.contains (o / 128)) then some 0x0B else none
  | .win k o => if (findStand s k).isNone then some 0x0F else if reads && runFailed s k o then some 0x0B else none
  | _ => none

/-- A 32-bit atomic at a scratch place: its old value and the state after it. -/
def scratchAtom (t : Target) (fn : Nat) (b new : Word) (s : State) : Nat × State :=
  let old : Word := BitVec.ofNat 32 (scratchRead t 4 s)
  match atomNew fn old b new with
  | some v => (old.toNat, scratchWrite t 4 v.toNat s)
  | none => (old.toNat, s)

/-- Whether n bytes from a place lie in one window. -/
def inWindow (s : State) (t : Target) (n : Nat) : Bool :=
  match t with
  | .win k o => match findStand s k with
    | some st => decide (o + n ≤ st.size)
    | none => false
  | _ => false

/-! ### Ring messages (R111) -/

/-- Why a network interface refuses a message: the lowest subcode that applies (R111, R248). -/
def ringRefusal (cl : Cluster) (h : Word) (p : Pasid) : Option Nat :=
  if fieldNat h 0 13 ≠ 0 then some 4
  else match ringAt cl (h.extractLsb' 13 6) with
    | none => some 4
    | some r => if r.kind ≠ 1 then some 4 else if r.ended then some 5 else if r.pasid ≠ p then some 6 else none

/-- What happens to a message at the network interface: appended, held in the inbound buffer, or refused by a full one. -/
inductive Delivery where
  | appended
  | held
  | full
  deriving DecidableEq, Repr

/-- The state after a message reaches a cluster's network interface (R111). -/
def deliverRing (c : ClusterId) (m : RingMsg) (s : State) : Delivery × State :=
  let cl := clusterOf s c
  match ringAt cl m.ring with
  | none => (.full, s)
  | some r =>
    if ringCount r < ringSize r && !cl.inbound.any (fun x => x.ring == m.ring) then (.appended, setRing c m.ring (appendRecord m.payload) s)
    else if cl.inbound.length < 64 then (.held, setCluster s c (fun cl => { cl with inbound := cl.inbound ++ [m] }))
    else (.full, s)

/-! ### Barriers (R203, R205) -/

/-- A barrier object after an arrival of n (R205): E in [15:0], REMAINING in [31:16], PHASE in bit 32; the reserved
bits are written as zero (R203). -/
def arrive (n b : Nat) : Nat :=
  let e := b % 65536
  let rem := b / 65536 % 65536
  if n = 0 then b
  else
    let phase := b / 2 ^ 32 % 2
    if rem ≤ n then e + e * 65536 + (1 - phase) * 2 ^ 32 else e + (rem - n) * 65536 + phase * 2 ^ 32

/-- The state after an arrival at a barrier's bank (R205). -/
def arriveAt (t : Target) (n : Nat) (s : State) : State := scratchWrite t 8 (arrive n (scratchRead t 8 s)) s

end Sys2Proof.Machine
end

