-- ==== Sys2Proof/Machine/Access.lean ====
section
/-! DEFINITION. Memory accesses of cords: how one lane's access is performed at its place (R112, R113, R121 to R141, R148, R160 to R170). -/

namespace Sys2Proof.Machine

/-! ### Transactional lanes (R148, R150, R153) -/

/-- A lane's transaction when it is in a body. -/
def laneTx (f : Fragment) (lane : Nat) : Option LaneTx := f.tx.lanes.find? (fun t => t.lane == lane)
/-- Whether a lane is in a body and not doomed; a lane that runs under the fallback lock runs plainly (R152). -/
def inBody (f : Fragment) (lane : Nat) : Bool := !f.tx.lock && f.tx.lanes.any (fun t => t.lane == lane && t.doomed.isNone)
/-- The fragment with the lanes of a list that are in a body doomed: mask bits cleared, writes discarded (R150). -/
def doomLanes (ls : List Nat) (cause code : Nat) (f : Fragment) : Fragment :=
  let hit := ls.filter (fun l => inBody f l)
  let doom := fun (t : LaneTx) => { t with doomed := some (cause, code), writes := [] }
  { f with mask := f.mask &&& ~~~(maskOf hit), tx := { f.tx with lanes := modifyWhere (fun t => hit.contains t.lane) doom f.tx.lanes } }
/-- The fragment with every transactional lane doomed. -/
def doomAll (cause code : Nat) (f : Fragment) : Fragment := doomLanes (f.tx.lanes.map (fun t => t.lane)) cause code f

/-- The fragment of the acting cord with an identity. -/
def fragById (c : Cord) (id : Nat) : Option Fragment := (allFrags c).find? (fun f => f.id == id)
/-- The state with a fragment of the acting cord changed. -/
def setFragById (id : Nat) (f : Fragment → Fragment) (s : State) : State :=
  setCord (mapFrags (fun g => if g.id = id then f g else g)) s

/-- The words of a list of (address, value, mask) entries, one replaced or added. -/
def putWord (ws : List (Nat × Word × BitVec 4)) (a : Nat) (v : Word) (m : BitVec 4) : List (Nat × Word × BitVec 4) :=
  let bits : Word := BitVec.ofNat 32 (spread m.toNat 4)
  if ws.any (fun w => w.1 == a) then
    ws.map (fun w => if w.1 = a then (a, (w.2.1 &&& ~~~bits) ||| (v &&& bits), w.2.2 ||| m) else w)
  else ws ++ [(a, v &&& bits, m)]

/-- The lines a lane's transaction has touched. -/
def txLines (t : LaneTx) : List Nat := t.reads.map (fun r => lineOf r.1) ++ t.writes.map (fun w => lineOf w.1)

/-- Whether a cord has a transaction that touches a slice (R153). A doomed lane's pair no longer counts towards the slice's 64, which R153 does not say (DESIGN CHOICE, log entry 60). -/
def cordTouches (s : State) (sl : Option (Nat × Nat)) (c : Cord) : Bool :=
  (allFrags c).any (fun f => f.tx.lanes.any (fun t => t.doomed.isNone && (txLines t).any (fun l => sliceAt s l == sl)))

/-- Whether a host core has a transaction that touches a slice (R153). -/
def hostTouches (s : State) (sl : Option (Nat × Nat)) (h : HostCore) : Bool :=
  h.active && (h.reads ++ h.wlines).any (fun l => sliceAt s l == sl)

/-- Whether a cord's transaction would need a 65th signature pair at the slice of an address (R153). -/
def pairsFull (s : State) (pa : Nat) : Bool :=
  let sl := sliceAt s pa
  !cordTouches s sl s.cord &&
    decide (64 ≤ ((allCords s).filter (cordTouches s sl)).length + (s.hosts.toList.filter (hostTouches s sl)).length)

/-! ### What an access needs -/

/-- The permissions an access needs (R160): bit 0 R, bit 1 W, bit 2 X. -/
def needOf : MemOp → Nat
  | .load | .loadM | .prefetch | .lmtst | .nbst | .cordic | .engine => 1
  | .store | .notify | .pgmv | .rdx | .sndm => 2
  | .atom _ | .cas | .ntf _ => 3
  | .fetch => 4

/-- The accesses that the fault-deferral log may take (R167): plain stores and non-returning ATOMs. -/
def loggable (f : Flight) : Bool :=
  match f.op with
  | .store => true
  | .atom fn => f.stream == .scalar && f.dest == .none && (fn ≤ 7 || fn == 10)
  | _ => false

/-- The lane with a new state. -/
def LaneAcc.become (l : LaneAcc) (st : AccState) : LaneAcc := { l with st := st }

/-- Whether a lane's access waits for the answer of a page request (R166). -/
def isParked (l : LaneAcc) : Bool := match l.st with
  | .parked _ => true
  | _ => false

/-- A lane of a flight that faults: a transactional lane is doomed with FAULT (R155), a prefetch is dropped (R165). -/
def laneFault (f : Flight) (l : LaneAcc) (code sub : Nat) (s : State) : LaneAcc × State :=
  if f.op = .prefetch then (l.become .dropped, s)
  else if l.mode = 1 then (l.become .dropped, setFragById f.frag (doomLanes [l.lane] 8 0) s)
  else (l.become (.failed code sub), s)

/-- What a point of coherence answered, as the lane's state; f makes the state of a performed access. -/
def served (f : Flight) (l : LaneAcc) (r : Served × State) (k : Nat → AccState) : LaneAcc × State :=
  match r.1 with
  | .done v => (l.become (k v), r.2)
  | .busy => (l, r.2)
  | .refused code sub => laneFault f l code sub r.2

/-- The agent of a cord's access at a slice. -/
def cordAgent (s : State) : Agent := { cls := 1, pkg := s.fabric.num }

/-- A lane whose access has been performed, or has faulted. -/
def performed (l : LaneAcc) : Bool := match l.st with
  | .done _ | .dropped | .failed _ _ => true
  | _ => false

/-- A place that an access of a lane has still to act on: what it names, its address, its physical address once it is translated, and its bytes. -/
structure Place where
  lane : Nat
  tgt : Target
  va : Nat
  at_ : Option Nat
  size : Nat

/-- The places of memory that a lane has still to read or write: its data, and for a notify form its flag. -/
def openPlaces (f : Flight) (l : LaneAcc) : List Place :=
  let data : Place := { lane := l.lane, tgt := l.tgt, va := l.va.toNat % 2 ^ 57, at_ := l.at_, size := f.size }
  let flag : Place := { lane := l.lane, tgt := l.ftgt, va := l.fva.toNat % 2 ^ 57, at_ := none, size := 4 }
  let notify : List Place := if l.stage = 1 || l.st == .half then [flag] else [data, flag]
  if performed l then []
  else match f.op with
    | .load | .loadM | .store | .atom _ | .cas | .lmtst => [data]
    | .notify | .ntf _ => notify
    | _ => []

/-- Whether two ranges of bytes meet. -/
def meet (a n b m : Nat) : Bool := decide (a < b + m) && decide (b < a + n)

/-- Whether the bytes of a place are, or may prove to be, bytes of an older one: of two global pages with different addresses one that is not translated may be the other. -/
def sameBytes (mine old : Place) : Bool :=
  match mine.tgt, old.tgt with
  | .virt, .virt => meet (mine.va % 4096) mine.size (old.va % 4096) old.size && (match mine.at_, old.at_ with
    | some a, some b => a / 4096 == b / 4096
    | some _, none => true
    | none, _ => mine.va / 4096 == old.va / 4096)
  | .phys a, .phys b => meet a mine.size b old.size
  | .stack _, .stack _ => mine.lane == old.lane && meet mine.va mine.size old.va old.size
  | .win k a, .win j b => k == j && meet a mine.size b old.size
  | .ringCtl c i a, .ringCtl d j b => c == d && i == j && meet a mine.size b old.size
  | _, _ => false

/-- Whether an access of the acting cord that precedes an identity has still to act on a byte of a place, or its answer is still to come (R122, R134): in the order in which the
instructions issued (R38). -/
def olderClash (s : State) (id : Nat) (p : Place) : Bool :=
  s.cord.flights.any (fun g => decide (g.id < id) && g.lanes.any (fun x => (openPlaces g x).any (sameBytes p)))

/-- Whether an older access of the package to a page of another package has still to be sent (R140). -/
def sendsFirst (s : State) (f : Flight) (l : LaneAcc) (pa : Nat) : Bool :=
  let va := (if l.stage = 1 then l.fva else l.va).toNat % 2 ^ 57
  (allCords s).any (fun c => c.flights.any (fun g => decide (g.id < f.id) && g.lanes.any (fun x =>
    (x.st == .todo || x.st == .walking || x.st == .half) && (openPlaces g x).any (fun p => p.tgt == .virt && (match p.at_ with
      | some b => b / 4096 == pa / 4096
      | none => c.pasid == s.cord.pasid && p.va / 4096 == va / 4096)))))

/-- The request of an access that reads a line of another package and is out: lanes of one instruction that need the line share it, and, where absorbed says so, VLDM reads of other
instructions of the die, which a router absorbs (R117). -/
def readOut (s : State) (f : Flight) (line : Nat) (absorbed : Bool) : Option (PkgNo × BitVec 14) :=
  let read (o : Outstanding) : Bool := o.op == 0x01 && !o.held && o.naks == 0 && o.req.addr.toNat == line && (match o.waiter with
    | .access c id _ _ => (c == s.cord.id && id == f.id) || (absorbed && f.op == .loadM && c.core.die == thisDie s &&
        (allCords s).any (fun x => x.id == c && x.flights.any (fun g => g.id == id && g.op == .loadM)))
    | _ => false)
  (s.fabric.outstanding.find? read).map (fun o => (o.req.dst, o.req.tag))

/-- A request to the owner of an address, which the lane waits for; it is sent after the older accesses of the package to its page (R140). One read of a line serves every lane of the
instruction that needs it. -/
def laneSend (f : Flight) (l : LaneAcc) (p : PkgNo) (op size fn pa : Nat) (payload : List Byte) (flag : Bool) (s : State) : LaneAcc × State :=
  let stamp := (clusterOf s (thisCluster s)).epoch
  match (if op = 0x01 then readOut s f pa false else none) with
  | some (q, tag) => ({ l with st := .sent q tag, stamp := stamp }, s)
  | none =>
  if sendsFirst s f l pa then (l, s)
  else match sendReq { die := (thisDie s).toNat, dst := p, op := op, size := size, scope := f.scope, fn := fn, pasid := 0, addr := pa
                       payload := payload, waiter := .access s.cord.id f.id l.lane flag } s with
    | (some tag, s') => ({ l with st := .sent p tag, stamp := stamp }, s')
    | (none, s') => (l, s')

/-- An access that the owner performs: here by k, elsewhere by a request. -/
def atOwner (f : Flight) (l : LaneAcc) (pa : Nat) (here : State → LaneAcc × State) (away : PkgNo → State → LaneAcc × State) (s : State) :
    LaneAcc × State :=
  match routeOf s (thisDie s) (gfnOf pa) with
  | .here _ _ => here s
  | .away p => away p s
  | .refused sub => laneFault f l 9 sub s
  | .ask r => (l, askOwner s (thisDie s) (gfnOf pa) r)
  | .hold => (l, s)

/-- The value of n bytes as a loaded 64-bit value. -/
def loaded (v : Nat) : AccState := .done (BitVec.ofNat 64 v)

/-- A lane with an access to a line that its cluster holds in no departing bank (R102); it waits while a copy there is written back. -/
def viaCache (l : LaneAcc) (line : Nat) (stack : Bool) (s : State) (k : State → LaneAcc × State) : LaneAcc × State :=
  match leaveBank (thisCluster s) line stack s with
  | (some s', _) => k s'
  | (none, s') => (l, s')

/-- A lane that goes on once its cluster has a copy of a line, or room for one (R103). -/
def withCopy (l : LaneAcc) (line : Nat) (stack : Bool) (s : State) (k : CacheLine → State → LaneAcc × State) : LaneAcc × State :=
  match withRoom (thisCluster s) line stack s with
  | (some cur, s') => k cur s'
  | (none, s') => (l, s')

/-- The state with one line read of a VLDM in flight: one that misses the cluster cache. It may be absorbed into a read of the line that is in flight, of which its values then are values too:
which router each passes, and whether its table has room, is not stated, so whether it is absorbed is a free choice (R117, R135; log entry 35). -/
def noteLine (id line : Nat) (s : State) : State :=
  let old := s.mostly.filter (fun m => m.line == line)
  if old.any (fun m => m.cord == s.cord.id && m.flight == id) then s
  else
    let (t, s) := draw s
    let m : MostlyRead := { line := line, cord := s.cord.id, flight := id, values := if Config.pick t % 2 = 0 then (old.flatMap (fun m => m.values)).eraseDups else [] }
    { s with mostly := s.mostly ++ [m] }

/-- The values that a VLDM line read may return besides the one its line holds now: those the line has held since the oldest VLDM read in flight into which it may have been
absorbed (R117, R135). -/
def absorbed (f : Flight) (line : Nat) (s : State) : List (BitVec 1024) :=
  if f.op = .loadM then (s.mostly.filter (fun m => m.line == line)).flatMap (fun m => m.values) else []

/-- A line of the owner's bytes put into the cluster cache, where it has a way (R103). -/
def fillCopy (l : LaneAcc) (line : Nat) (v : BitVec 1024) (s : State) (k : State → LaneAcc × State) : LaneAcc × State :=
  if hasWays (clusterOf s (thisCluster s)) then withCopy l line false s (fun cur s => k (keepIn (thisCluster s) (fillLine cur v) s)) else k s

/-- Whether a VLDM line read that misses has not been noted yet and is so now, and whether it is in flight for a time (R117): its access to the slice comes later, by a free choice. -/
def mostlyLater (f : Flight) (line : Nat) (s : State) : Bool × State :=
  if f.op != .loadM || s.mostly.any (fun m => m.line == line && m.cord == s.cord.id && m.flight == f.id) then (false, s)
  else
    let (t, s) := draw (noteLine f.id line s)
    (Config.pick t % 2 == 0, s)

/-- One of some values, by a free choice in which none is one more. -/
def oneOf (vs : List (BitVec 1024)) (s : State) : Option (BitVec 1024) × State :=
  if vs.isEmpty then (none, s)
  else
    let (t, s) := draw s
    (vs[Config.pick t % (vs.length + 1)]?, s)

/-- The request of another VLDM of the die that is out for a line of another package, when a free choice absorbs the read into it (R117). -/
def absorbedInto (f : Flight) (line : Nat) (s : State) : Option (PkgNo × BitVec 14) × State :=
  if f.op != .loadM then (none, s)
  else match readOut s f line true with
    | none => (none, s)
    | some x =>
      let (t, s) := draw s
      (if Config.pick t % 2 = 0 then some x else none, s)

/-- A plain load through the cluster cache (R103, R115): a miss fills the line from its owner, or from the copy of a node partner's line that this package's LLC holds (R124). -/
def loadCached (f : Flight) (l : LaneAcc) (pa : Nat) (s : State) : LaneAcc × State :=
  let line := lineOf pa
  let value (cur : CacheLine) : AccState := loaded (lineBytes cur (pa % 128) f.size)
  viaCache l line false s (fun s =>
    let cur := cacheLine (clusterOf s (thisCluster s)) line false
    let old (v : BitVec 1024) (s : State) : LaneAcc × State := (l.become (value (fillLine cur v)), s)
    if copyBad (clusterOf s (thisCluster s)) line false then laneFault f l 0x0B 0 s
    else if lineHolds cur (pa % 128) f.size then (l.become (value cur), s)
    else match mostlyLater f line s with
      | (true, s) => (l, s)
      | (false, s) =>
        let (older, s) := oneOf (absorbed f line s) s
        atOwner f l pa
          (fun s =>
            match sliceRead (cordAgent s) line 128 s with
            | (.done v, s) => fillCopy l line (BitVec.ofNat 1024 v) s (old (older.getD (BitVec.ofNat 1024 v)))
            | r => served f l r loaded)
          (fun p s => match older with
            | some v => old v s
            | none =>
              match s.fabric.partner.find? (fun x => x.line == line && !x.modified) with
              | some x => fillCopy l line x.data s (old x.data)
              | none => match absorbedInto f line s with
                | (some (q, tag), s) => ({ l with st := .sent q tag, stamp := (clusterOf s (thisCluster s)).epoch }, s)
                | (none, s) => laneSend f l p 0x01 128 0 line [] false s)
          s)

/-- A plain store: into the cluster cache, or through to the owner when no bank is in CACHE mode (R103, R112). -/
def storeCached (f : Flight) (l : LaneAcc) (pa : Nat) (s : State) : LaneAcc × State :=
  viaCache l (lineOf pa) false s (fun s =>
    if hasWays (clusterOf s (thisCluster s)) then
      withCopy l (lineOf pa) false s (fun cur s => (l.become (.done 0), keepIn (thisCluster s) (storeLine cur (pa % 128) f.size l.data.toNat) s))
    else
      atOwner f l pa
        (fun s => served f l (sliceWrite (cordAgent s) pa f.size l.data.toNat (2 ^ f.size - 1) none s) loaded)
        (fun p s => laneSend f l p 0x03 128 0 (lineOf pa)
          (maskedPayload (storeLine (emptyLine (lineOf pa) false) (pa % 128) f.size l.data.toNat)) false s)
        s)

/-- The state after the issuing cluster has written back and dropped a line, then k (R132, R139, R148). -/
def afterFlush (l : LaneAcc) (pa : Nat) (stack : Bool) (s : State) (k : State → LaneAcc × State) : LaneAcc × State :=
  match flushCopy (thisCluster s) (lineOf pa) stack s with
  | (some s', _) => k s'
  | (none, s') => (l, s')

/-- An atomic on a copy that the cluster cache holds (R132): its result stays there as dirty bytes. -/
def atomCopy (l : LaneAcc) (fn pa : Nat) (cur : CacheLine) (k : Nat → AccState) (s : State) : LaneAcc × State :=
  let old : Word := BitVec.ofNat 32 (lineBytes cur (pa % 128) 4)
  match atomNew fn old (DWord.lo l.data) (DWord.lo l.data2) with
  | some v => (l.become (k old.toNat), keepIn (thisCluster s) (storeLine cur (pa % 128) 4 v.toNat) s)
  | none => (l.become (k old.toNat), keepIn (thisCluster s) cur s)

/-- An atomic at the owning slice (R132). -/
def atomSlice (f : Flight) (l : LaneAcc) (fn pa : Nat) (k : Nat → AccState) (s : State) : LaneAcc × State :=
  atOwner f l pa (fun s => served f l (sliceAtom (cordAgent s) fn pa (DWord.lo l.data) (DWord.lo l.data2) s) k)
    (fun p s => laneSend f l p 0x04 4 fn pa (atPayload l.data l.data2) false s) s

/-- An atomic at the place R132 gives for its scope, on a global or a stack line. k is the lane's state with the old value. -/
def atomGlobal (f : Flight) (l : LaneAcc) (fn pa : Nat) (stack : Bool) (k : Nat → AccState) (s : State) : LaneAcc × State :=
  let line := lineOf pa
  if 2 ≤ f.scope then afterFlush l pa stack s (atomSlice f l fn pa k)
  else viaCache l line stack s (fun s =>
    let cur := cacheLine (clusterOf s (thisCluster s)) line stack
    if !hasWays (clusterOf s (thisCluster s)) then atomSlice f l fn pa k s
    else if copyBad (clusterOf s (thisCluster s)) line stack then laneFault f l 0x0B 0 s
    else if lineHolds cur (pa % 128) 4 then atomCopy l fn pa cur k s
    else withCopy l line stack s (fun cur s =>
      atOwner f l pa
        (fun s => match sliceRead (cordAgent s) line 128 s with
          | (.done v, s) => atomCopy l fn pa (fillLine cur (BitVec.ofNat 1024 v)) k s
          | r => served f l r loaded)
        (fun p s => laneSend f l p 0x01 128 0 line [] false s) s))

/-- A lane's load inside a body (R148, R153, R155): n words from an address, logged with the values read, under the buffered bytes. A word read again is logged with each value it
showed, so that the commit checks them all; the capacity counts the words (R153). -/
def txLoadWords (l : LaneAcc) (f : Flight) : Nat → Nat → State → Except Nat (List Word) × State
  | 0, _, s => (.ok [], s)
  | n + 1, a, s =>
    match fragById s.cord f.frag with
    | none => (.ok [], s)
    | some g =>
      match laneTx g l.lane with
      | none => (.ok [], s)
      | some t =>
        let buf := t.writes.find? (fun w => w.1 == a)
        let rest (w : Word) (s : State) : Except Nat (List Word) × State :=
          match txLoadWords l f n (a + 4) s with
          | (.ok ws, s') => (.ok (w :: ws), s')
          | r => r
        match buf with
        | some (_, v, 15) => rest v s
        | _ =>
          let known := t.reads.any (fun r => r.1 == a)
          if (!known && 16 ≤ ((t.reads.map (fun r => r.1)).eraseDups).length) || pairsFull s a then (.error 2, s)
          else match sliceRead (cordAgent s) a 4 s with
            | (.done v, s') =>
              let w : Word := BitVec.ofNat 32 v
              let log := fun (t : LaneTx) => if t.reads.contains (a, w) then t else { t with reads := t.reads ++ [(a, w)] }
              let upd := fun (g : Fragment) => { g with tx := { g.tx with lanes := modifyWhere (fun x => x.lane == l.lane) log g.tx.lanes } }
              let bits : Word := match buf with
                | some (_, _, m) => BitVec.ofNat 32 (spread m.toNat 4)
                | none => 0
              let bv : Word := match buf with
                | some (_, v, _) => v
                | none => 0
              rest ((w &&& ~~~bits) ||| (bv &&& bits)) (setFragById f.frag upd s')
            | (.refused _ _, s') => (.error 8, s')
            | (.busy, s') => (.error 16, s')

/-- A lane's access inside a body: loads at the owning slice, stores into the write buffer (R148); a line of another package dooms the lane
with REMOTE (R155). -/
def txAccess (f : Flight) (l : LaneAcc) (pa : Nat) (s : State) : LaneAcc × State :=
  let doom (cause : Nat) (s : State) : LaneAcc × State := (l.become .dropped, setFragById f.frag (doomLanes [l.lane] cause 0) s)
  let a := pa / 4 * 4
  let n := if f.size = 8 then 2 else 1
  match resolve s (thisDie s) (gfnOf pa) with
  | .away _ => doom 3 s
  | .refused _ => doom 8 s
  | .ask r => (l, askOwner s (thisDie s) (gfnOf pa) r)
  | .hold => (l, s)
  | .here _ _ =>
    if movingNow s (gfnOf pa) then (l, s)
    else if f.op = .store then
      match (fragById s.cord f.frag).bind (fun g => laneTx g l.lane) with
      | none => (l.become .dropped, s)
      | some t =>
        let m : BitVec 4 := if f.size = 8 then 15 else BitVec.ofNat 4 (spanMask (pa % 4) f.size)
        let ws := putWord t.writes a (BitVec.ofNat 32 (l.data.toNat * 2 ^ (8 * (pa % 4)))) m
        let ws := if n = 2 then putWord ws (a + 4) (DWord.hi l.data) 15 else ws
        if 8 < ws.length || pairsFull s pa then doom 2 s
        else
          let upd := fun (g : Fragment) =>
            { g with tx := { g.tx with lanes := modifyWhere (fun x => x.lane == l.lane) (fun t => { t with writes := ws }) g.tx.lanes } }
          (l.become (.done 0), setFragById f.frag upd s)
    else
      let c := thisCluster s
      let s := writeBack c (cacheLine (clusterOf s c) (lineOf pa) false) s
      if lineDirty s c (lineOf pa) false then (l, s)
      else match txLoadWords l f n a s with
        | (.ok ws, s') =>
          let v := (ws.getD 0 0).toNat + 2 ^ 32 * (ws.getD 1 0).toNat
          (l.become (loaded (v / 2 ^ (8 * (pa % 4)) % 2 ^ (8 * f.size))), s')
        | (.error 16, s') => (l, s')
        | (.error cause, s') => doom cause s'

/-- The fallback run's access: plain, at the owning slice (R152); a line of another package is reached plainly (R155). -/
def slicePlain (f : Flight) (l : LaneAcc) (pa : Nat) (s : State) : LaneAcc × State :=
  afterFlush l pa false s (fun s =>
    atOwner f l pa
      (fun s => if f.op = .store then served f l (sliceWrite (cordAgent s) pa f.size l.data.toNat (2 ^ f.size - 1) none s) loaded
        else served f l (sliceRead (cordAgent s) pa f.size s) loaded)
      (fun p s => if f.op = .store then laneSend f l p 0x03 128 0 (lineOf pa)
          (maskedPayload (storeLine (emptyLine (lineOf pa) false) (pa % 128) f.size l.data.toNat)) false s
        else laneSend f l p 0x01 128 0 (lineOf pa) [] false s) s)

/-- The package that owns a notify form's flag, with the flag's physical address, when it is another one and known now. -/
def farFlag (l : LaneAcc) (s : State) : Option (PkgNo × Nat) :=
  match l.ftgt with
  | .virt => (cached s (thisCore s) s.cord.pasid l.fva.toNat 2).bind (fun fa =>
      match resolve s (thisDie s) (gfnOf fa) with
      | .away p => some (p, fa)
      | _ => none)
  | _ => none

/-- The data of a notify-store, written at its node-scope point of coherence (R139); when data and flag have one owner, another package, one NST
does both (R247), once the cluster's own dirty bytes of both lines are written back. -/
def notifyData (f : Flight) (l : LaneAcc) (pa : Nat) (s : State) : LaneAcc × State :=
  afterFlush l pa false s (fun s =>
    atOwner f l pa
      (fun s => served f l (sliceWrite (cordAgent s) pa f.size l.data.toNat (2 ^ f.size - 1) none s) (fun _ => .half))
      (fun p s =>
        let apart := laneSend f l p 0x02 f.size 0 pa (bytesOfNat f.size l.data.toNat) false s
        match farFlag l s with
        | some (q, fa) =>
          if q = p then
            afterFlush l fa false s (laneSend f l p 0x05 f.size 0 pa (bytesOfNat 16 fa ++ bytesOfNat f.size l.data.toNat) true)
          else apart
        | none => apart)
      s)

/-! ### Write-backs of a reach (R127), and the forks of engine operations (R137) -/

/-- Whether a line of a cluster cache lies within a scope's reach, as far as its owner is known (R123). -/
def lineInReach (s : State) (c : ClusterId) (scope : Nat) (l : CacheLine) : Bool :=
  !l.stack && decide (2 ≤ scope) && (decide (scope = 5) || match resolve s c.die (gfnOf l.addr) with
    | .here _ _ => true
    | .away p => inReach s.fabric scope p
    | .refused _ => false
    | .ask _ | .hold => true)

/-- The state after every dirty line of the cluster cache in a scope's reach is written back, as far as that can go now. -/
def writeBackReach (c : ClusterId) (scope : Nat) (s : State) : State :=
  ((clusterOf s c).lines.filter (fun l => lineInReach s c scope l && l.dirty != 0)).foldl (fun s l => writeBack c l s) s

/-- Whether nothing of the reach is dirty and every write-back is acknowledged (R127). -/
def reachClean (s : State) (c : ClusterId) (scope : Nat) : Bool :=
  (clusterOf s c).lines.all (fun l => !lineInReach s c scope l || l.dirty == 0) &&
    s.fabric.outstanding.all (fun o => match o.waiter with
      | .writeBack _ => false
      | _ => true)

/-- Whether a cord's accesses that precede an identity have been performed. -/
def olderDone (c : Cord) (fork : Nat) : Bool :=
  c.flights.all (fun f => decide (fork ≤ f.id) || f.op == .fetch || f.op == .cordic || f.lanes.all performed)

/-- Whether the fault-deferral log holds bytes of an access of a cord that precedes an identity (R167). -/
def loggedBefore (s : State) (c : CordId) (k : StandKey) (fork : Nat) : Bool :=
  (coreOf s c.core).log.any (fun e => e.slot == c.slot && e.stand == k && decide (e.flight < fork) && !e.discarded)

/-- The state in which an operation forked by a cord may act (R137): its older accesses are performed, those in the fault-deferral log among them, and at die scope or wider its
cluster's dirty bytes of the reach are written back; none while that waits. -/
def forkReady (c : CordId) (k : StandKey) (fork scope : Nat) (s : State) : Option State × State :=
  let old := match (allCords s).find? (fun x => x.id == c && x.stand == k) with
    | some x => olderDone x fork
    | none => true
  if !old || loggedBefore s c k fork then (none, s)
  else if scope < 2 then (some s, s)
  else
    let s := writeBackReach c.core.cluster scope s
    if reachClean s c.core.cluster scope then (some s, s) else (none, s)

/-- The state in which a command of the neighbour engine may act. Whether its fork pushes the cord's stores past the cluster cache is a free choice of the command: R137 has them happen before its
reads, and R414 allows an NCHK to read what stood before a store that no FENCE.REL has pushed (R130; log entry 29). -/
def forkMay (c : CordId) (k : StandKey) (fork scope : Nat) (s : State) : Option State × State :=
  forkReady c k fork (if Config.pick (2 ^ 64 + fork) % 2 = 0 then scope else 0) s

/-! ### Ring messages, migration requests and contributions -/

/-- SNDM's message to its ring (R111): the sender's own network interface, another cluster's of the package, or another package's. A message waits
behind an older one of its cord to the same ring. -/
def sndmPerform (f : Flight) (l : LaneAcc) (s : State) : LaneAcc × State :=
  let h : Word := DWord.lo l.fva
  let dst : PkgNo := h.extractLsb' 25 7
  let older := s.cord.flights.any (fun g => decide (g.id < f.id) && g.op == .sndm &&
    g.lanes.any (fun x => DWord.lo x.fva == h && x.st == .todo))
  let payload : BitVec 128 := l.data2 ++ l.data
  if older then (l, s)
  else if dst = s.fabric.num then
    let c : ClusterId := h.extractLsb' 19 6
    match ringRefusal (clusterOf s c) h s.cord.pasid with
    | some sub => (l.become (.failed 9 sub), s)
    | none =>
      match deliverRing c { ring := h.extractLsb' 13 6, payload := payload, fromCord := some (s.cord.id, f.id), fromReq := none } s with
      | (.appended, s') => (l.become (.done 0), s')
      | (.held, s') => (l.become (.sent dst 0), s')
      | (.full, s') => (l, s')
  else if s.fabric.joined && !s.fabric.present.contains dst then (l.become (.failed 9 2), s)
  else match sendReq { die := (thisDie s).toNat, dst := dst, op := 0x06, size := 16, scope := 5, fn := 0, pasid := s.cord.pasid, addr := h.toNat
                       payload := bytesOfNat 16 payload.toNat, waiter := .access s.cord.id f.id l.lane false } s with
    | (some tag, s') => (l.become (.sent dst tag), s')
    | (none, s') => (l, s')

/-- A migration status word (R249). -/
def migWord (outcome : Nat) : Word := BitVec.ofNat 32 (2 ^ 31 + outcome * 65536)

/-- The outcome that the requesting package finds before it sends anything (R249): BADPOOL, NOPACKAGE, NOFRAME. -/
def migEarly (f : Fabric) (g : Gfn) (dest : PkgNo) (pool : Nat) : Option Nat :=
  if 5 ≤ pool then some 5
  else if !f.present.contains dest || !f.present.contains (homePkg g) then some 4
  else if !backedBy (countsOf f (homePkg g)) g then some 2
  else none

/-- The state with a status word written: scratch of a stand that has not ended, or, as a store at pod scope by this package's interface, a physical address (R249, R262, R333). -/
def migReport (st : MigStatus) (outcome : Nat) (s : State) : State :=
  match st with
  | .scratch k t => if (findStand s k).isSome then scratchWrite t 4 (migWord outcome).toNat s else s
  | .phys pa => keepOwn 0x42 (plainReq s.fabric.num s.fabric.num 0 pa (bytesOfNat 4 (migWord outcome).toNat)) s
  | .remote => s
  | .stripe => s

/-- PGMV's request once its address is translated (R333): the status word itself, or a request entered at the owner, here or elsewhere. -/
def pgmvPerform (f : Flight) (l : LaneAcc) (pa : Nat) (s : State) : LaneAcc × State :=
  let g := gfnOf pa
  let dest : PkgNo := l.data.extractLsb' 0 7
  let pool := fieldNat l.data 8 3
  let st : MigStatus := .scratch s.cord.stand l.ftgt
  match migEarly s.fabric g dest pool with
  | some o => (l.become (.done 0), migReport st o s)
  | none =>
    let send (p : PkgNo) (s : State) : LaneAcc × State :=
      match sendReq { die := (thisDie s).toNat, dst := p, op := 0x0B, size := 4, scope := 5, fn := 6, pasid := 0, addr := g.toNat * 2097152
                      payload := migPayload g dest pool 0 0, waiter := .migAcc s.cord.id f.id st } s with
        | (some tag, s') => (l.become (.sent p tag), s')
        | (none, s') => (l, s')
    match resolve s (thisDie s) g with
    | .here _ _ => send s.fabric.num s
    | .away p => send p s
    | .refused sub => laneFault f l 9 sub s
    | .ask r => (l, askOwner s (thisDie s) g r)
    | .hold => (l, s)

/-- Whether a move of a granule has started: a contribution to a slot there waits, so that none is taken between the check of R250 step 1 and the copy (R256). -/
def beingMoved (s : State) (g : Gfn) : Bool := s.fabric.moves.any (fun m => m.req.gfn == g)

/-- The die of the reduction unit that serves a slot in a pool (R211). -/
def rdxDie (pool : Nat) : DieId := if pool < 4 then BitVec.ofNat 2 pool else 0

/-- A contribution to a reduction slot once its address is translated: into the owner's unit when its queue has room, or as an RDX request, after those that the cord issued
before (R186, R211, R240). A slot of this package in a failed line faults with 0x0B (R173, R335). -/
def rdxPerform (f : Flight) (l : LaneAcc) (pa : Nat) (s : State) : LaneAcc × State :=
  let tree := l.stage == 0
  if s.cord.flights.any (fun g => decide (g.id < f.id) && g.op == .rdx && g.lanes.any (fun x => !performed x)) then (l, s)
  else match forkReady s.cord.id s.cord.stand f.id f.scope s with
  | (none, s) => (l, s)
  | (some s, _) =>
  match resolve s (thisDie s) (gfnOf pa) with
  | .here pool _ =>
    let d := rdxDie pool
    if s.failed.contains (lineOf pa) then laneFault f l 0x0B 0 s
    else if 64 ≤ (dieOf s d).rdx.length || beingMoved s (gfnOf pa) then (l, s)
    else
      let k : Contribution := { launch := some (s.cord.queue, s.cord.seq), tree := tree, slot := pa, index := DWord.lo l.data2, value := l.data, scope := f.scope, reply := none }
      (l.become (.done 0), setDie s d (fun x => { x with rdx := x.rdx ++ [k] }))
  | .away p => laneSend f l p 0x0C 16 (if tree then 0 else 1) pa (bytesOfNat 4 (DWord.lo l.data2).toNat ++ bytesOfNat 8 l.data.toNat ++ bytesOfNat 4 0) false s
  | .refused sub => laneFault f l 9 sub s
  | .ask r => (l, askOwner s (thisDie s) (gfnOf pa) r)
  | .hold => (l, s)

/-! ### Performing a lane -/

/-- An access with its physical address (R123, R132, R139, R148). The update of a VATOM's notify form is at the place that R132 gives for its scope, as R365 says; its flag waits until it has come to
the node-scope point that R139 names for every notify-store (afterUpdate; DEDUCED, log entry 61). -/
def performPhys (f : Flight) (l : LaneAcc) (pa : Nat) (s : State) : LaneAcc × State :=
  if l.mode = 1 then txAccess f l pa s
  else match f.op with
    | .load | .loadM | .prefetch => if l.mode = 2 then slicePlain f l pa s else loadCached f l pa s
    | .store => if l.mode = 2 then slicePlain f l pa s else storeCached f l pa s
    | .atom fn => atomGlobal f l fn pa false loaded s
    | .cas => atomGlobal f l 9 pa false loaded s
    | .ntf fn => atomGlobal f l fn pa false (fun _ => .half) s
    | .notify => notifyData f l pa s
    | .pgmv => pgmvPerform f l pa s
    | .rdx => rdxPerform f l pa s
    | _ => (l.become (.done 0), s)

/-- Once the word that a VATOM of the notify form updated has reached its node-scope point of coherence (R139): what cluster scope performed in the cluster cache (R132, R365) is written back to its
owner, and the line dropped. -/
def afterUpdate (f : Flight) (l : LaneAcc) (s : State) (k : State → LaneAcc × State) : LaneAcc × State :=
  match f.op, l.tgt, l.at_ with
  | .ntf _, .virt, some pa => if 2 ≤ f.scope then k s else afterFlush l pa false s k
  | _, _, _ => k s

/-- A notify form's flag increment at a global address: an atomic of node or pod scope (R139, R247). -/
def flagPhys (f : Flight) (l : LaneAcc) (pa : Nat) (s : State) : LaneAcc × State :=
  let fl := { f with scope := 5 }
  let one := { l with data := 1, data2 := 0 }
  let r := atomGlobal fl one 0 pa false (fun _ => .done 0) s
  ({ l with st := r.1.st, stamp := r.1.stamp }, r.2)

/-- An access at a scratch place (R98, R108). LMTST raises no 0x0B (R296, R323), and no failed value is ever returned (R173): it reads a failed run as a free value (DESIGN CHOICE, log
entry 64). -/
def performScratch (f : Flight) (l : LaneAcc) (t : Target) (s : State) : LaneAcc × State :=
  let done (r : Nat × State) (k : Nat → AccState) : LaneAcc × State := (l.become (k r.1), r.2)
  let flt (rd wr : Bool) (ok : LaneAcc × State) : LaneAcc × State := match scratchFault s t rd wr with
    | some code => laneFault f l code 0 s
    | none => ok
  match f.op with
  | .load | .loadM | .prefetch => flt true false (done (scratchRead t f.size s, s) loaded)
  | .lmtst =>
    let failed := (scratchFault s t true false) == some 0x0B
    let word := if failed then freePair s.tick else scratchRead t f.size s
    let ok := done (word &&& l.data.toNat, if failed then { s with tick := s.tick + 2 } else s) loaded
    if failed then ok else flt true false ok
  | .store => flt false true (done (0, scratchWrite t f.size l.data.toNat s) loaded)
  | .notify => flt false true (done (0, scratchWrite t f.size l.data.toNat s) (fun _ => .half))
  | .atom fn => flt true true (done (scratchAtom t fn (DWord.lo l.data) (DWord.lo l.data2) s) loaded)
  | .cas => flt true true (done (scratchAtom t 9 (DWord.lo l.data) (DWord.lo l.data2) s) loaded)
  | .ntf fn => flt true true (done (scratchAtom t fn (DWord.lo l.data) (DWord.lo l.data2) s) (fun _ => .half))
  | _ => (l.become (.done 0), s)

/-- A flag increment at a scratch place (R139, R365). -/
def flagScratch (f : Flight) (l : LaneAcc) (t : Target) (s : State) : LaneAcc × State :=
  match scratchFault s t true true with
  | some code => laneFault f l code 0 s
  | none => (l.become (.done 0), (scratchAtom t 0 1 0 s).2)

/-- The words of a stack access, a row of 384 bytes apart (R99). -/
def stackParts (f : Flight) (pa : Nat) : List (Nat × Nat) := if f.size = 8 then [(pa, 4), (pa + 384, 4)] else [(pa, f.size)]

/-- A lane that has the owner's bytes of a stack line, or asks for them; a line that comes is cached like a global one (R99, R103). -/
def stackRow (f : Flight) (l : LaneAcc) (line : Nat) (s : State) : LaneAcc × State :=
  let fill (v : BitVec 1024) (s : State) : LaneAcc × State := ({ l with rows := (line, v) :: l.rows }, s)
  atOwner f l line
    (fun s => match sliceRead (cordAgent s) line 128 s with
      | (.done v, s) =>
        if hasWays (clusterOf s (thisCluster s)) then
          withCopy l line true s (fun cur s => fill (BitVec.ofNat 1024 v) (keepIn (thisCluster s) (fillLine cur (BitVec.ofNat 1024 v)) s))
        else fill (BitVec.ofNat 1024 v) s
      | r => served f l r loaded)
    (fun p s => laneSend f l p 0x01 128 0 line [] false s) s

/-- The bytes of one word of a stack access, when they have come; else the lane as it waits for them. -/
def stackWord (f : Flight) (l : LaneAcc) (pa n : Nat) (s : State) : Option Nat × LaneAcc × State :=
  let line := lineOf pa
  match leaveBank (thisCluster s) line true s with
  | (none, s) => (none, l, s)
  | (some s, _) =>
    let cur := cacheLine (clusterOf s (thisCluster s)) line true
    if copyBad (clusterOf s (thisCluster s)) line true then (none, laneFault f l 0x0B 0 s)
    else if lineHolds cur (pa % 128) n then (some (lineBytes cur (pa % 128) n), l, s)
    else
      let r := if l.rows.any (fun x => x.1 == line) then (l, s) else stackRow f l line s
      match r.1.rows.find? (fun x => x.1 == line) with
      | some x => (some (lineBytes (fillLine cur x.2) (pa % 128) n), r)
      | none => (none, r)

/-- The value of a stack access, when all of it has come. -/
def stackLoad (f : Flight) : List (Nat × Nat) → LaneAcc → State → Option Nat × LaneAcc × State
  | [], l, s => (some 0, l, s)
  | (pa, n) :: ps, l, s =>
    match stackWord f l pa n s with
    | (none, l, s) => (none, l, s)
    | (some v, l, s) => match stackLoad f ps l s with
      | (some w, l, s) => (some (v + 2 ^ (8 * n) * w), l, s)
      | r => r

/-- A stack store of some words, in their order: into the cluster cache, or through to the owner when no bank is in CACHE mode (R99, R103). -/
def stackStore (f : Flight) (l : LaneAcc) : List (Nat × Nat) → Nat → State → LaneAcc × State
  | [], _, s => (l.become (.done 0), s)
  | (pa, n) :: ps, v, s =>
    let line := lineOf pa
    let rest := stackStore f l ps (v / 2 ^ (8 * n))
    let through (s : State) : LaneAcc × State :=
      atOwner f l pa
        (fun s => match sliceWrite (cordAgent s) pa n v (2 ^ n - 1) none s with
          | (.done _, s) => rest s
          | r => served f l r loaded)
        (fun p s =>
          let bytes := maskedPayload (storeLine (emptyLine line true) (pa % 128) n v)
          if ps.isEmpty then laneSend f l p 0x03 128 0 line bytes false s
          else match sendReq { die := (thisDie s).toNat, dst := p, op := 0x03, size := 128, scope := f.scope, fn := 0, pasid := 0, addr := line, payload := bytes
                               waiter := .writeBack line } s with
            | (some _, s) => rest s
            | (none, s) => (l, s)) s
    viaCache l line true s (fun s =>
      if hasWays (clusterOf s (thisCluster s)) then withCopy l line true s (fun cur s => rest (keepIn (thisCluster s) (storeLine cur (pa % 128) n v) s))
      else through s)

/-- A stack access (R99): its lines are cached in the cluster cache like global lines, and an atomic executes there whatever its scope (R364). -/
def performStack (f : Flight) (l : LaneAcc) (pa : Nat) (s : State) : LaneAcc × State :=
  match f.op with
  | .load | .loadM | .prefetch => (match stackLoad f (stackParts f pa) l s with
    | (some v, l, s) => ({ l with st := loaded v, rows := [] }, s)
    | (none, l, s) => (l, s))
  | .store => stackStore f l (stackParts f pa) l.data.toNat s
  | .atom fn => atomGlobal { f with scope := 1 } l fn pa true loaded s
  | .cas => atomGlobal { f with scope := 1 } l 9 pa true loaded s
  | .ntf fn => atomGlobal { f with scope := 1 } l fn pa true (fun _ => .half) s
  | _ => (l.become (.done 0), s)

/-- A global access on its way: a page with pending log entries (R169), a cached translation, or a walk (R160, R161). A process context that is
not in Sv57 mode faults at once, as its walk finds (R164). -/
def performVirt (f : Flight) (l : LaneAcc) (va : DWord) (need : Nat) (k : Nat → State → LaneAcc × State) (s : State) : LaneAcc × State :=
  let c := thisCore s
  let page := va.toNat % 2 ^ 57 / 4096
  if f.op != .fetch && (l.mode != 1 || f.op != .store) && pagePending s c s.cord.pasid page then
    (if loggable f then (l.become (.missed 0), s) else (l, s))
  else match cached s c s.cord.pasid va.toNat need with
    | some pa => k pa s
    | none =>
      let s := startWalk c.die s.cord.pasid page need none s
      if walkOut s c.die s.cord.pasid page then (l.become .walking, s) else (l, s)

/-- A lane whose translation faulted: a page request holds it, or the fault is delivered, at once where the walk says so (R164 to R166). The flag of a notify form asks for itself. -/
def missLane (f : Flight) (l : LaneAcc) (code : Nat) (s : State) : LaneAcc × State :=
  let va := if f.op = .notify && l.stage = 1 then l.fva else l.va
  let page := va.toNat % 2 ^ 57 / 4096
  let d := thisDie s
  if f.op = .prefetch then (l.become .dropped, s)
  else if 256 ≤ code then laneFault f l (code % 256) (code / 256 - 1) s
  else if (dieOf s d).requestsOff || 2 ≤ l.tries then laneFault f l code 0 s
  else match pageRequest d s.cord.pasid page (if f.op = .notify && l.stage = 1 then 2 else needOf f.op) none s with
    | some s' => if l.mode = 1 then laneFault f l code 0 s' else (l.become (.parked code), s')
    | none => (l, s)

/-- NBST enters its quadrant's queue (R216); its lane waits for the read. -/
def nbstEnter (f : Flight) (l : LaneAcc) (s : State) : LaneAcc × State :=
  let w : WinPos := { key := s.cord.stand, off := 0, raw := 0 }
  let c : NbCmd :=
    { id := f.id, op := .st, cord := s.cord.id, stand := s.cord.stand, pasid := s.cord.pasid, scope := f.scope, desc := l.va, status := w, barrier := none
      fork := f.id, phase := 0, desc0 := 0, epoch := 0, next := 0, pairs := 0, skipped := 0, firstSkip := 0, parts := [], far := .num false 0 0, classes := []
      recs := [], stop := none }
  (l.become (.sent s.fabric.num 0), setQuad s (thisCluster s).quad (fun q => q ++ [c]))

/-- A sibling lane of a plain load that reads the same bytes and has its value, or waits for it: all of them return one value (R121). -/
def twin (f : Flight) (l : LaneAcc) (pa : Nat) : Option LaneAcc :=
  match f.op with
  | .load | .loadM => f.lanes.find? (fun x => x.lane != l.lane && x.mode == 0 && l.mode == 0 && x.at_ == some pa && (x.got.isSome || (match x.st with
    | .done _ | .sent _ _ => true
    | _ => false)))
  | _ => none

/-- Whether a lane's access goes to a physical address, or may prove to: its page is another one, and not yet translated. -/
def mayBeAt (l x : LaneAcc) (pa : Nat) : Bool := x.tgt == .virt && (match x.at_ with
  | some a => a == pa
  | none => x.va.toNat % 4096 == pa % 4096 && x.va.toNat % 2 ^ 57 / 4096 != l.va.toNat % 2 ^ 57 / 4096)

/-- Whether a lane's atomic is on its way to the owner of its word: later requests of the package to the page come there after it (R140). -/
def atomSent (s : State) (f : Flight) (x : LaneAcc) : Bool :=
  s.fabric.outstanding.any (fun o => o.op == 0x04 && o.waiter == .access s.cord.id f.id x.lane false)

/-- Whether a lower lane of an atomic has still to act on the same word, or may have (R121). The atomics of several lanes on one word of another package are sent one after another, with no
other of this package between them (R364; DEDUCED, log entry 76). -/
def lowerFirst (s : State) (f : Flight) (l : LaneAcc) (pa : Nat) : Bool :=
  match f.op with
  | .atom _ | .cas | .ntf _ => f.lanes.any (fun x => decide (x.lane < l.lane) && mayBeAt l x pa && x.stage == 0 && x.st != .half && !performed x && !atomSent s f x)
  | _ => false

/-- What becomes of a lane of a plain store beside the higher lanes of its instruction: it waits while one of them may prove to write the same bytes, and does nothing when one does (R121). -/
inductive Covered where
  | free
  | waits
  | covered
  deriving DecidableEq, Repr

/-- Whether a higher lane of a store writes the bytes of a lane (R121): lanes that name one place through one address carry one value already. -/
def coveredBy (f : Flight) (l : LaneAcc) (pa : Nat) : Covered :=
  if f.op != .store || l.mode = 1 then .free
  else
    let over_ := f.lanes.filter (fun x => decide (l.lane < x.lane) && x.va != l.va && x.mode != 1 && mayBeAt l x pa && (match x.st with
      | .failed _ _ => false
      | _ => true))
    if over_.any (fun x => x.at_ == some pa) then .covered
    else if over_.any (fun x => !performed x) then .waits
    else .free

/-- A lane's global access once it is translated: after the older accesses of the cord to its bytes (R122), and as one with the lanes of its instruction that name them (R121). -/
def performAt (f : Flight) (l : LaneAcc) (pa : Nat) (s : State) : LaneAcc × State :=
  let l := { l with at_ := some pa }
  if (openPlaces f l).any (fun p => p.tgt == .virt && p.at_.isSome && olderClash s f.id p) || lowerFirst s f l pa then (l, s)
  else match coveredBy f l pa, twin f l pa with
    | .waits, _ => (l, s)
    | .covered, _ => (l.become (.done 0), s)
    | .free, none => performPhys f l pa s
    | .free, some x => match x.got, x.st with
      | some v, _ => (l.become (.done v), s)
      | none, .done v => (l.become (.done v), s)
      | _, _ => (l, s)

/-- The place that a lane acts on next: its data, or its flag. -/
def nextPlace (f : Flight) (l : LaneAcc) (flag : Bool) : Place :=
  if flag then { lane := l.lane, tgt := l.ftgt, va := l.fva.toNat % 2 ^ 57, at_ := none, size := 4 }
  else { lane := l.lane, tgt := l.tgt, va := l.va.toNat % 2 ^ 57, at_ := none, size := f.size }

/-- Whether an operation acts on bytes of memory in the order of R122. -/
def ordered (f : Flight) : Bool :=
  match f.op with
  | .load | .loadM | .store | .atom _ | .cas | .lmtst | .notify | .ntf _ => true
  | _ => false

/-- Whether the page of a notify-store's flag has pending entries in the log of the core: the whole of it waits (R169). -/
def flagPending (s : State) (f : Flight) (l : LaneAcc) : Bool :=
  f.op == .notify && l.ftgt == .virt && pagePending s (thisCore s) s.cord.pasid (l.fva.toNat % 2 ^ 57 / 4096)

/-- One lane taken as far as it can go now; stage 1 marks a notify form that is at its flag. A lane that the log takes is left to it (R167). -/
def pushLane (f : Flight) (l : LaneAcc) (s : State) : LaneAcc × State :=
  match l.st with
  | .todo =>
    if l.stage = 1 && (f.op = .notify || (match f.op with | .ntf _ => true | _ => false)) then (l.become .half, s)
    else if f.op = .sndm then sndmPerform f l s
    else if f.op = .nbst then nbstEnter f l s
    else if (ordered f && olderClash s f.id (nextPlace f l false)) || flagPending s f l then (l, s)
    else match l.tgt with
      | .virt => performVirt f l l.va (needOf f.op) (performAt f l) s
      | .phys pa => performPhys f l pa s
      | .stack pa => performStack f l pa s
      | t => performScratch f l t s
  | .half =>
    let l := { l with stage := 1 }
    if olderClash s f.id (nextPlace f l true) then (l, s)
    else afterUpdate f l s (fun s => match l.ftgt with
      | .virt => performVirt f l l.fva 2 (fun pa s => if olderClash s f.id { nextPlace f l true with at_ := some pa } then (l, s) else flagPhys f l pa s) s
      | .phys pa => flagPhys f l pa s
      | .stack _ => laneFault f l 5 0 s
      | t => flagScratch f l t s)
  | .missed code => if code = 0 || (loggable f && l.mode != 1 && decide (code < 256)) then (l, s) else missLane f l code s
  | _ => (l, s)

/-- The lanes of a flight pushed in ascending order (R121), after those that have been. -/
def pushLanes (f : Flight) (past : List LaneAcc) : List LaneAcc → State → List LaneAcc × State
  | [], s => (past, s)
  | l :: ls, s =>
    let r := pushLane { f with lanes := past ++ l :: ls } l s
    pushLanes f (past ++ [r.1]) ls r.2

end Sys2Proof.Machine
end

