-- ==== Sys2Proof/Machine/Ops.lean ====
section
/-! DEFINITION. The shared operations: issuing an access and its return, path counters, taking a trap and returning from one, the end of a
launch, and the waits and checks that several instructions share (R54 to R56, R112 to R114, R127, R174 to R183). -/

namespace Sys2Proof.Machine

/-! ### Flights and path counters -/

/-- A lane whose access has ended and, for a value, been written. -/
def settled (l : LaneAcc) : Bool := l.st == .dropped
/-- A lane that has faulted. -/
def hasFailed (l : LaneAcc) : Bool := match l.st with
  | .failed _ _ => true
  | _ => false

/-- Whether a lane no longer keeps its instruction incomplete in the sense of R54: a store or prefetch once it is accepted, any other
access once it has returned or faulted. -/
def laneComplete (op : MemOp) (l : LaneAcc) : Bool :=
  match l.st with
  | .dropped | .failed _ _ => true
  | .sent _ _ | .done _ | .half => op == .store || op == .notify || op == .prefetch || op == .sndm || op == .engine
  | _ => false

/-- Whether an instruction has completed or faulted (R54, R56). -/
def flightComplete (f : Flight) : Bool := f.op == .fetch || f.lanes.all (laneComplete f.op)

/-- Whether a fault is that of a flight's lanes. -/
def isFaultOf (f : Flight) (p : PendFault) : Bool := match p.replay with
  | .access a => a.id == f.id
  | _ => false

/-- Whether a flight has met a fault that no pending-fault list holds yet (R56). -/
def unlisted (c : Cord) (f : Flight) : Bool :=
  f.op != .fetch && f.lanes.any hasFailed && !((allFrags c).any (fun g => g.faults.any (isFaultOf f)) || c.pend.any (isFaultOf f))

/-- Whether an instruction of a cord has not completed, nor its fault been met (R54, R56). -/
def flightOpen (c : Cord) (f : Flight) : Bool := !flightComplete f || unlisted c f

/-- Whether an address lies in the scratch aperture (R94). -/
def inScratch (va : DWord) : Bool := fieldNat va 56 8 == 0x80

/-- The path of a lane's access (R112): loads to scratch addresses 1, compare-and-swaps to them 3. -/
def lanePath (op : MemOp) (va : DWord) : Nat :=
  match op with
  | .load | .loadM => if inScratch va then 1 else 0
  | .prefetch => 0
  | .cas => if inScratch va then 3 else 0
  | .store => 2
  | .atom _ | .notify | .ntf _ | .sndm | .pgmv => 3
  | .rdx | .lmtst | .engine => 5
  | .cordic | .fetch | .nbst => 9

/-- Whether a flight's accesses of one path have all returned (R112). -/
def pathDone (f : Flight) (n : Nat) : Bool := (f.lanes.filter (fun l => lanePath f.op l.va == n)).all settled

/-- The flights that hold a path's counter: from the oldest that has not returned (R113). -/
def pathHolders (fs : List Flight) (n : Nat) : List Flight :=
  (fs.filter (fun f => f.paths.any (fun p => p.1 == n))).dropWhile (fun f => f.paths.any (fun p => p.1 == n && p.2))

/-- The cord with its returned paths marked, its counters recomputed (R113), and the flights that hold nothing removed. -/
def settlePaths (c : Cord) : Cord :=
  let fs := c.flights.map (fun f => { f with paths := f.paths.map (fun p => (p.1, p.2 || pathDone f p.1)) })
  let held := fun (f : Flight) => (List.range 6).any (fun n => f.paths.any (fun p => p.1 == n) && (pathHolders fs n).any (fun g => g.id == f.id))
  let counts : Vector (BitVec 8) 6 := Vector.ofFn (fun n => BitVec.ofNat 8 (pathHolders fs n.val).length)
  { c with flights := fs.filter (fun f => held f || !f.lanes.all settled), paths := counts }

/-- The windows of lookahead that incomplete instructions keep open (R55). -/
def pruneWindows (c : Cord) : Cord :=
  let open_ := (c.flights.filter (flightOpen c)).map (fun f => f.id)
  mapFrags (fun f => { f with winS := f.winS.filter (fun w => open_.contains w.id), winL := f.winL.filter (fun w => open_.contains w.id) }) c

/-- The cord with a flight replaced. -/
def putFlight (f : Flight) (c : Cord) : Cord := { c with flights := modifyWhere (fun g => g.id == f.id) (fun _ => f) c.flights }

/-- A returned value in its destination's form: extended from its size (R361). -/
def extendValue (size : Nat) (signed : Bool) (v : DWord) : DWord :=
  if 8 ≤ size then v
  else if signed then BitVec.ofInt 64 (signedOf (8 * size) v.toNat) else BitVec.ofNat 64 (v.toNat % 2 ^ (8 * size))

/-- The cord with a lane of a lane register written. -/
def setLane (c : Cord) (r : VReg) (lane : Nat) (v : Word) : Cord := setVreg c r ((vreg c r).setIfInBounds lane v)

/-- The cord with a scalar register of a fragment's bank written (R25). -/
def setFragReg (frag : Nat) (bank : Bool) (r : Reg) (v : Word) (c : Cord) : Cord :=
  if r = 0 then c
  else if r.toNat < 61 then setBank c bank r v
  else mapFrags (fun f => if f.id = frag then putMask (r.toNat - 61) v f else f) c

/-- The cord with a returned value written to its destination (R112). -/
def writeDest (f : Flight) (lane : Nat) (v : DWord) (c : Cord) : Cord :=
  match f.dest with
  | .none => c
  | .sreg b r => setFragReg f.frag b r (DWord.lo v) c
  | .spair b r => setFragReg f.frag b (r + 1) (DWord.hi v) (setFragReg f.frag b r (DWord.lo v) c)
  | .vreg r => setLane c r lane (DWord.lo v)
  | .vpair r => setLane (setLane c r lane (DWord.lo v)) (r + 1) lane (DWord.hi v)

/-- The records of the lanes of a store in one page, the highest lane's bytes only where several write one (R121, R168). -/
def pageRecords (size : Nat) : List LaneAcc → List LogRec
  | [] => []
  | l :: ls =>
    let off := l.va.toNat % 4096
    let later := fun (b : Nat) => ls.any (fun x => decide (x.va.toNat % 4096 ≤ off + b) && decide (off + b < x.va.toNat % 4096 + size))
    let bytes := fun (w : Nat) => (List.range 4).filter (fun i =>
      let b := w * 4 + i
      decide (off ≤ b) && decide (b < off + size) && !later (b - off))
    let rec_ := fun (w : Nat) =>
      ({ value := BitVec.ofNat 32 (l.data.toNat * 2 ^ (8 * (off % 4)) / 2 ^ (32 * (w - off / 4))), word := w
         mask := BitVec.ofNat 4 ((bytes w).foldl (fun a i => a + 2 ^ i) 0) } : LogRec)
    (((List.range ((size + 3) / 4)).map (fun i => rec_ (off / 4 + i))).filter (fun r => r.mask != 0)) ++ pageRecords size ls

/-- Whether a lane of a loggable access is one for the log: its translation has faulted, or its page has pending entries; a transactional one is not (R155, R167). -/
def toLog (l : LaneAcc) : Bool := l.mode != 1 && (match l.st with
  | .missed code => decide (code < 256)
  | _ => false)

/-- Whether an access is at a page. -/
def onPage (page : Nat) (l : LaneAcc) : Bool := l.va.toNat % 2 ^ 57 / 4096 == page

/-- The flight after the lanes that the fault-deferral log takes have retired into it, page by page (R167, R168); a page that neither has pending
entries nor a request outstanding is requested (R165). -/
def logLanes (f : Flight) (pages : List Nat) (s : State) : Flight × State :=
  match pages with
  | [] => (f, s)
  | page :: rest =>
    let mine := f.lanes.filter (fun l => onPage page l && toLog l)
    let pend := pagePending s (thisCore s) s.cord.pasid page
    let code := (mine.head?.map (fun l => match l.st with | .missed c => c | _ => 0)).getD 0
    let f1 (st : AccState) : Flight :=
      { f with lanes := f.lanes.map (fun l => if onPage page l && toLog l then l.become st else l) }
    if !pend && code != 0 && (dieOf s (thisDie s)).requestsOff then logLanes (f1 (.failed code 0)) rest s
    else
      let asked := if pend then some s else pageRequest (thisDie s) s.cord.pasid page (needOf f.op) none s
      let atom := match f.op with
        | .atom fn => some fn
        | _ => none
      match asked with
      | none => logLanes f rest s
      | some s' =>
        match logEntries s.cord.id s.cord.stand s.cord.pasid page code f.id f.pc atom (f.scope - 1) (pageRecords f.size mine) s' with
        | some s'' => logLanes (f1 (.done 0)) rest s''
        | none => logLanes f rest s

/-- The pages of a flight's lanes whose translation has faulted. -/
def missedPages (f : Flight) : List Nat :=
  ((f.lanes.filter toLog).map (fun l => l.va.toNat % 2 ^ 57 / 4096)).eraseDups

/-- The state with a flight's lanes taken as far as they can go. -/
def pushFlight (id : Nat) (s : State) : State :=
  match s.cord.flights.find? (fun f => f.id == id) with
  | none => s
  | some f =>
    let (ls, s) := pushLanes f [] f.lanes s
    let f := { f with lanes := ls }
    let (f, s) := if loggable f then logLanes f (missedPages f) s else (f, s)
    setCord (putFlight f) s

/-- Whether an access of the acting cord has still to act on n bytes of a window (R122). -/
def scratchClash (s : State) (k : StandKey) (o n : Nat) : Bool := olderClash s s.nextId { lane := 0, tgt := .win k o, va := 0, at_ := none, size := n }

/-! ### Faults -/

/-- The order in which one of several codes is reported (R176). -/
def codeRank (code : Nat) : Nat :=
  match code with
  | 0x01 => 0 | 0x02 => 1 | 0x03 => 2 | 0x04 => 3 | 0x05 => 4 | 0x06 => 5 | 0x0F => 6 | 0x07 => 7 | 0x08 => 8 | 0x0A => 9 | 0x09 => 10
  | 0x0B => 11 | 0x10 => 12 | 0x11 => 13 | 0x0C => 14 | 0x0D => 15 | _ => 16

/-- Program order of positions (R120). -/
def before (a b : Nat × Nat) : Bool := decide (a.1 < b.1) || (decide (a.1 = b.1) && decide (a.2 < b.2))

/-- A fault list with one added in program order (R56). -/
def insertFault (f : PendFault) : List PendFault → List PendFault
  | [] => [f]
  | g :: gs => if before f.ord g.ord then f :: g :: gs else g :: insertFault f gs

/-- The fragment that a fault of a fragment stops: that one, or the acting one when it has ended (R37). -/
def faultFrag (c : Cord) (frag : Nat) : Nat := if (allFrags c).any (fun g => g.id == frag) then frag else c.frag.id

/-- The cord with a fault added to a fragment's list: its streams stop (R56, R177). A cord with no lane takes no trap. -/
def addFault (frag : Nat) (f : PendFault) (c : Cord) : Cord :=
  if c.mode = .ended then c
  else
    { mapFrags (fun g => if g.id = faultFrag c frag then { g with faults := insertFault f g.faults } else g) c with
      mode := if c.mode = .running then .draining else c.mode }

/-- Whether every incomplete instruction of the cord has completed or faulted (R56, R177). -/
def drained (c : Cord) : Bool := !c.flights.any (flightOpen c)

/-- Whether a fault was raised by a negative reply (R172): codes 0x09 and 0x0A are, and a subcode of 256 marks the 0x0B of another package. -/
def fromFar (code sub : Nat) : Bool := code == 9 || code == 0x0A || decide (256 ≤ sub)

/-- A fault of a flight whose lanes have all ended, some in a fault: the code of R176, the marked lanes, the lowest one's address; a fetch fault marks no lane and names no
data (R178). -/
def flightFault (f : Flight) : Option PendFault :=
  let bad := f.lanes.filter hasFailed
  match bad with
  | [] => none
  | b :: bs =>
    let codeOf (l : LaneAcc) : Nat × Nat := match l.st with
      | .failed c sub => (c, sub)
      | _ => (0, 0)
    let best := bs.foldl (fun x l => if codeRank (codeOf l).1 < codeRank x.1 then codeOf l else x) (codeOf b)
    let again := fun (l : LaneAcc) => { l with st := .todo, naks := 0, tries := 0, stage := if f.op = .notify then 0 else l.stage }
    let data := f.op != .fetch
    some { stream := f.stream, pc := f.pc, code := best.1, sub := best.2
           lanes := if data && f.stream == .lane then maskOf (bad.map (fun l => l.lane)) else 0, addr := if data then b.va else 0
           x := data && f.stream == .lane && !f.isY, y := f.isY, remote := fromFar best.1 best.2
           deferred := false, replay := if f.op = .fetch then .none else .access { f with lanes := bad.map again }, ord := f.ord }

/-! ### The end of a launch (R40, R183) -/

/-- A cluster with a stand out of its grove (R106). -/
def leaveGrove (k : StandKey) (cl : Cluster) : Cluster :=
  { cl with groves := ((cl.groves.map (fun g => { g with members := g.members.filter (fun m => m.2 != k), leaving := g.leaving.filter (fun x => x != k) })).filter
      (fun g => !g.members.isEmpty)) }

/-- The answer to a message that a network interface held (R111): a negative reply with a subcode, to a cord of this package or to another package. -/
def refuseMsg (sub : Nat) (m : RingMsg) (s : State) : State :=
  match m.fromCord, m.fromReq with
  | some (c, id), _ =>
    let fail := fun (f : Flight) => if f.id = id then { f with lanes := f.lanes.map (fun l => l.become (.failed 9 sub)) } else f
    mapCords (fun x => if x.id = c then { x with flights := x.flights.map fail } else x) s
  | none, some r => sendMsg r.src (.neg { src := s.fabric.num, requester := r.src, tag := r.tag, code := 9, sub := BitVec.ofNat 8 sub }) s
  | none, none => s

/-- Whether a stand is one of a persistent launch (R43). -/
def persistentStand (s : State) (k : StandKey) : Bool :=
  (s.launches.find? (fun l => l.queue == k.queue && l.seq == k.seq)).any (fun l => recFlag l.record 2)

/-- The stand in whose scratch a place lies. -/
def targetStand (s : State) (t : Target) : Option StandKey :=
  match t with
  | .win k _ => some k
  | .ringRec c i _ | .ringCtl c i _ => (ringAt (clusterOf s c) i).map (fun r => r.stand)
  | _ => none

/-- Whether a lane has not yet been performed in the scratch of a stand (own), or in that of another one. -/
def lanePendingAt (s : State) (own : Bool) (me : StandKey) (l : LaneAcc) : Bool :=
  let at_ (t : Target) : Bool := match targetStand s t with
    | some k => (k == me) == own
    | none => false
  !(settled l || hasFailed l) && (at_ l.tgt || at_ l.ftgt)

/-- Whether a stand that leaves its grove still waits: for the accesses of other members accepted into its scratch, and for those that it has made through its slots
(R106 steps 2 and 3). -/
def leaveWaits (s : State) (me : StandKey) : Bool :=
  (allCords s).any (fun c => c.flights.any (fun f => f.lanes.any (lanePendingAt s (c.stand != me) me)))

/-- The state in which a stand's scratch is no longer reached by the other members of its grove (R106 step 1). -/
def startLeave (k : StandKey) (c : ClusterId) (s : State) : State :=
  let mark := fun (x : Grove) => if x.members.any (fun m => m.2 == k) && !x.leaving.contains k then { x with leaving := x.leaving ++ [k] } else x
  setCluster s c (fun cl => { cl with groves := cl.groves.map mark })

/-- The state after the accesses that were accepted into a stand's scratch have been performed, where they can be (R106 step 2). -/
def performInto (k : StandKey) (s : State) : State :=
  let me := s.cord.id
  let fl := (allCords s).flatMap (fun c => if c.stand = k then [] else (c.flights.filter (fun f => f.lanes.any (lanePendingAt s true k))).map (fun f => (c.id, f.id)))
  if fl.isEmpty then s else selectCord (fl.foldl (fun s p => pushFlight p.2 (selectCord s p.1)) s) me

/-- What ended stands of persistent launches hold, with an ended stand's pages: all of a launch is freed once its last stand has ended (R43). -/
def holdPages (st : Stand) (s : State) : List HeldStand :=
  let k := st.key
  let same := fun (x : StandKey) => x.queue == k.queue && x.seq == k.seq
  if !persistentStand s k then s.held
  else if s.stands.any (fun x => same x.key && x.key != k) then modifyWhere (fun h => h.key == k) (fun h => { h with pages := st.pages }) s.held
  else s.held.filter (fun h => !same h.key)

/-- Whether a neighbour-engine command publishes into one of some rings of a cluster. -/
def ringOfCmd (c : ClusterId) (rings : List (BitVec 6)) (x : NbCmd) : Bool :=
  match x.op with
  | .pair _ _ _ (cl, i) => cl == c && rings.contains i
  | .cbin _ (some (cl, i)) => cl == c && rings.contains i
  | _ => false

/-- The state in which the neighbour-engine commands that publish into rings which end have stopped at once: they write no status and make no arrival (R223). -/
def stopRings (c : ClusterId) (rings : List (BitVec 6)) (s : State) : State :=
  let ids := (s.quads.toList.flatMap (fun q => q.filter (ringOfCmd c rings))).map (fun x => x.id)
  { s with quads := s.quads.map (fun q => q.filter (fun x => !ringOfCmd c rings x)), englines := s.englines.filter (fun x => !ids.contains x.id)
           answers := s.answers.filter (fun a => !ids.contains a.id) }

/-- The marks of failed runs that a stand's window and rings leave in their banks as it ends, by bank and run of a page (R173). -/
def marksLeft (cl : Cluster) (st : Stand) : List (BitVec 4 × Nat) :=
  (cl.failed.filter (fun x => x.1 == st.key)).map (fun x => (st.pages.getD (x.2 / 32) 0, x.2 % 32)) ++
    (cl.rings.filter (fun r => r.stand == st.key)).flatMap (fun r => r.failed.map (fun i => (r.bank, i % 32)))

/-- The state after a stand has ended: it leaves its grove, its rings end with the commands that publish into them, its open assemblies are discarded, its window is freed (R40, R106, R111,
R223). -/
def endStand (k : StandKey) (s : State) : State :=
  match findStand s k with
  | none => s
  | some st =>
    let c := st.cluster
    let gone := ((clusterOf s c).rings.filter (fun r => r.stand == k)).map (fun r => r.index)
    let msgs := (clusterOf s c).inbound.filter (fun m => gone.contains m.ring)
    let s := msgs.foldl (fun s m => refuseMsg 5 m s) (stopRings c gone s)
    let s := setCluster s c (fun cl => leaveGrove k { cl with
      inbound := cl.inbound.filter (fun m => !gone.contains m.ring)
      failed := cl.failed.filter (fun x => x.1 != k)
      loose := cl.loose ++ marksLeft cl st
      rings := modifyWhere (fun r => r.stand == k) (fun r => { r with ended := true, recs := [], failed := [] }) cl.rings
      copies := cl.copies.filter (fun x => x.started || !(x.desc.key == k || x.slices.all (fun y => y.stand == k || (findStand s y.stand).isNone))) })
    let idle := s.stands.all (fun x => x.key == k)
    { s with stands := s.stands.filter (fun x => x.key != k), held := holdPages st s, oldText := if idle then [] else s.oldText
             launches := modifyWhere (fun l => l.queue == k.queue && l.seq == k.seq) (fun l => { l with ended := l.ended + 1 }) s.launches }

/-- The place word of a core dump (R183). -/
def placeWord (s : State) (c : CordId) : Word :=
  BitVec.ofNat 32 (c.slot.toNat + 2 ^ 8 * fieldNat c.core 0 2 + 2 ^ 10 * fieldNat c.core 2 4 + 2 ^ 14 * fieldNat c.core 6 2 + 2 ^ 16 * s.fabric.num.toNat)

/-- The little-endian number of a list of words. -/
def packWords (ws : List Word) : Nat := ws.foldr (fun w a => w.toNat + 2 ^ 32 * a) 0

/-- The trap record's words in register order (R178). -/
def trapWords (t : TrapRec) : List Word :=
  [t.cause, t.pc, t.resume, maskWord t.lanes 0, maskWord t.lanes 1, maskWord t.lanes 2, DWord.lo t.addr, DWord.hi t.addr, t.info]

/-- The words of a scalar bank in a dump: s61 to s63 are zero (R183). -/
def bankWords (b : Vector Word 64) : List Word := (b.toList.zipIdx).map (fun p => if p.2 = 0 ∨ 61 ≤ p.2 then 0 else p.1)

/-- The words of a core dump of the acting cord (R183). -/
def dumpWords (s : State) : List Word :=
  let c := s.cord
  let m := c.frag.mask
  trapWords c.trap ++ [placeWord s c.id, DWord.lo c.work, DWord.hi c.work, BitVec.ofNat 32 c.index] ++ [maskWord m 0, maskWord m 1, maskWord m 2] ++
  bankWords c.bank0 ++ (if c.topSplit then bankWords c.bank1 else List.replicate 64 0) ++
  (List.replicate (64 - c.lastPcs.length) 0xFFFFFFFF ++ c.lastPcs) ++
  ((List.range 8).flatMap (fun i => let p := predOf c (BitVec.ofNat 3 i); [maskWord p 0, maskWord p 1, maskWord p 2])) ++
  ((List.range c.alloc).flatMap (fun r => (vreg c (BitVec.ofNat 8 r)).toList))

/-- Whether an entry of a core's log is a cord's. -/
def ownEntry (c : Cord) (e : LogEntry) : Bool := e.slot == c.id.slot && e.stand == c.stand

/-- Whether a stand is of a launch. -/
def ofLaunch (q : QueueNo) (seq : Nat) (k : StandKey) : Bool := k.queue == q && k.seq == seq

/-- The state with the unreported lot faults of a cord that has ended entered in the journal (R198, R263). -/
def journalLots (k : StandKey) (bs : List Batch) (s : State) : State :=
  bs.foldl (fun s b => match b.fault with
    | none => s
    | some (code, a) => journalEntry 8 k.queue.toNat k.seq ((DWord.lo a).toNat + 2 ^ 32 * (code % 256) + 2 ^ 40 * ((b.n + 1) % 256)) s) s

/-- The state with the unreported lot faults of a launch that is cut short entered in the journal: of its cords, of those streamed out and of those that have ended (R198, R263). -/
def journalCut (q : QueueNo) (seq : Nat) (s : State) : State :=
  let mine := fun (c : Cord) => c.live && !c.id.handler && c.queue == q && c.seq == seq
  let out := s.cores.toList.flatMap (fun k => k.saved.flatMap (fun v => v.cords))
  let dead := s.parts.toList.flatMap (fun p => p.dead.filter (fun d => ofLaunch q seq d.stand))
  let lots := ((allCords s ++ out).filter mine).map (fun c => (c.stand, c.batches)) ++ dead.map (fun d => (d.stand, d.batches))
  lots.foldl (fun s x => journalLots x.1 x.2 s) s

/-- A core without anything of a launch: its log entries go without a trap, its saved cords and its requests end. -/
def cutCore (q : QueueNo) (seq : Nat) (ids : List CordId) (i : CoreId) (s : State) : State :=
  let s := ((coreOf s i).log.filter (fun e => ofLaunch q seq e.stand)).foldl (fun s e => freeLog i e s) s
  setCore s i (fun k =>
    let serving := match k.serving with
      | some x => if ids.contains x then none else some x
      | none => none
    let saved := k.saved.map (fun v => { v with cords := v.cords.filter (fun c => !(c.queue == q && c.seq == seq)) })
    { k with reqs := k.reqs.filter (fun x => !ids.contains x), held := k.held.filter (fun x => !ids.contains x), serving := serving
             saved := saved.filter (fun v => !v.cords.isEmpty) })

/-- The state without the engine operations of a launch; a copy to which another launch contributes goes on (R183, R201). -/
def cutEngines (q : QueueNo) (seq : Nat) (ids : List CordId) (s : State) : State :=
  let mine := ofLaunch q seq
  let part := fun (p : Partition) => { p with mq := p.mq.filter (fun m => !mine m.stand), cordic := p.cordic.filter (fun o => !ids.contains o.cord)
                                              dead := p.dead.filter (fun d => !mine d.stand) }
  { s with parts := s.parts.map part
           dies := s.dies.map (fun d => { d with gathers := d.gathers.filter (fun g => !mine g.stand) })
           quads := s.quads.map (fun es => es.filter (fun e => !mine e.stand))
           clusters := s.clusters.map (fun cl => { cl with copies := cl.copies.filter (fun x => x.slices.any (fun y => !mine y.stand)) }) }

/-- The reservations of a launch end (R49). -/
def unreserve (q : QueueNo) (seq : Nat) (s : State) : State :=
  let keep (r : Option (QueueNo × Nat × Nat)) : Option (QueueNo × Nat × Nat) := r.filter (fun x => !(x.1 == q && x.2.1 == seq))
  { s with dies := s.dies.map (fun d => { d with reserved := keep d.reserved })
           disp := { s.disp with reserved := s.disp.reserved.filter (fun x => !(x.1 == q && x.2 == seq)) } }

/-- The state after a launch has been cut short with a completion STATUS and CODE (R183, R262): its stands stop, its transactions abort and their locks
and waits end, its log entries are discarded without traps, its engine operations are dropped, its unreported lot faults enter the journal, and its resources are freed. -/
def cutLaunch (q : QueueNo) (seq status code : Nat) (s : State) : State :=
  let mine := fun (c : Cord) => c.live && !c.id.handler && c.queue == q && c.seq == seq
  let ids := ((allCords s).filter mine).map (fun c => c.id)
  let keys := (s.stands.filter (fun k => ofLaunch q seq k.key)).map (fun k => k.key)
  let cores := (ids.map (fun i => i.core)).eraseDups
  let s := keys.foldl (fun s k => performInto k s) (journalCut q seq s)
  let s := (List.range 256).foldl (fun s i => cutCore q seq ids (BitVec.ofNat 8 i) s) (cutEngines q seq ids s)
  let free := match s.almanac.lock with
    | .cord i _ _ => ids.contains i
    | _ => false
  let others := s.almanac.waiters.filter (fun w => match w with
    | .cord i _ _ => !ids.contains i
    | _ => true)
  let s := { s with almanac := { s.almanac with lock := if free then .free else s.almanac.lock, waiters := others } }
  let s := keys.foldl (fun s k => endStand k s) s
  let s := { s with cord := if mine s.cord then Cord.blank else s.cord, cords := s.cords.filter (fun c => !mine c)
                    bwaits := s.bwaits.filter (fun w => !ofLaunch q seq w.stand)
                    launches := modifyWhere (fun l => l.queue == q && l.seq == seq) (fun l => { l with outcome := some (status, code) }) s.launches }
  unreserve q seq (cores.foldl (fun s k => dropContexts k s) s)

/-- A fatal fault of the acting cord (R183): the core dump and its journal entry, then the end of the launch. -/
def fatal (code : Nat) (s : State) : State :=
  let c := s.cord
  let s := match s.queues.find? (fun q => q.num == c.queue) with
    | some q =>
      let ws := dumpWords s
      writeVirt (thisDie s) q.pasid q.dump (4 * ws.length) (some (packWords ws)) (some (c.queue, c.seq, (placeWord s c.id).toNat, code)) s
    | none => journalEntry 5 c.queue.toNat c.seq ((placeWord s c.id).toNat + 2 ^ 32 * (code % 256)) s
  cutLaunch c.queue c.seq 4 code s

/-! ### Taking a trap (R56, R76, R177 to R181) -/

/-- The word of %trap.info (R178). Its COUNT has 8 bits, and a cord may own 256 discarded entries: the count is written modulo 256 (DESIGN CHOICE, log entry 62). -/
def trapInfo (count sub : Nat) (remote nest deferred y x lane : Bool) : Word :=
  let b (v : Bool) (i : Nat) : Nat := if v then 2 ^ i else 0
  BitVec.ofNat 32 (count % 256 * 65536 + sub % 256 * 256 + b remote 5 + b nest 4 + b deferred 3 + b y 2 + b x 1 + b lane 0)

/-- The set-aside lane queue of a fragment (R177): for a lane-stream trap its first entry is the current block (R343). -/
def setAside (f : Fragment) (lane : Bool) : List Block :=
  if lane && decide (f.cur.count ≤ f.cur.done) then f.cur :: f.queue else f.queue

/-- The lane-word index of the first word of the lane stream that has not issued (R56, R343). -/
def lanePoint (f : Fragment) : Nat :=
  match f.queue.head? with
  | some b => if f.cur.count ≤ f.cur.done && decide (0 < f.cur.count) then f.cur.first + f.cur.count else b.first + b.done
  | none => f.cur.first + f.cur.done

/-- The state after a cord's stopped trap has gone to the supervisor (R181): into its core's request queue, or held by a full one; fatal with no image,
or when its stand is being pre-empted out. -/
def toSupervisor (code : Nat) (s : State) : State :=
  let out := match findStand s s.cord.stand with
    | some st => st.phase != 0
    | none => false
  if s.cord.id.handler then
    match (coreOf s (thisCore s)).serving with
    | some i => fatal code (selectCord s i)
    | none => s
  else if (coreOf s (thisCore s)).handler.isNone || out then fatal code s
  else
    let s := setCord (fun c => { c with mode := .trapped }) s
    setCore s (thisCore s) (fun k => if k.reqs.length < 16 then { k with reqs := k.reqs ++ [s.cord.id] } else { k with held := k.held ++ [s.cord.id] })

/-- The codes that a declared user handler takes (R180). -/
def userCode (code : Nat) : Bool := code == 0x0C || code == 0x0D || code == 0x0E

/-- The number of discarded log entries of a cord, and the oldest (R170). -/
def discardedOf (s : State) (c : Cord) : Nat × Option LogEntry :=
  let es := (coreOf s c.id.core).log.filter (fun e => e.discarded && ownEntry c e)
  (es.length, es.foldl (fun b e => match b with
    | some x => if e.seq < x.seq then some e else some x
    | none => some e) none)

/-- The batches that hold something: operations still to complete, or a fault that no WLOT has reported. -/
def keepBatches (bs : List Batch) : List Batch := bs.filter (fun b => b.left != 0 || b.fault.isSome)

/-- The cord with the flag of a lot cleared, as its trap is delivered (R198). -/
def clearLot (lot : Option Nat) (c : Cord) : Cord :=
  match lot with
  | none => c
  | some n => { c with batches := keepBatches (c.batches.map (fun b => if b.n = n then { b with fault := none } else b)) }

/-- Whether a barrier wait is one of the acting fragment, in its user handler or outside it as the fragment is now (R180). -/
def isMyLevel (s : State) (w : BarrierWait) : Bool :=
  w.cord == s.cord.id && w.stand == s.cord.stand && w.frag == s.cord.frag.id && w.inHandler == s.cord.handlerFlag
/-- The state without the acting fragment's barrier wait. -/
def dropWait (s : State) : State := { s with bwaits := s.bwaits.filter (fun w => !isMyLevel s w) }

/-- The state after the trap of a fragment's first fault has been delivered: the record is written (R178), and the trap enters the declared user handler
(R180) or goes to the supervisor (R181). -/
def takeTrap (f : PendFault) (s : State) : State :=
  let c := s.cord
  let g := c.frag
  let lane := f.stream == .lane
  let rest := g.faults.tail
  let fid : Option Nat := match f.replay with
    | .access a => some a.id
    | _ => none
  let (n, oldest) := discardedOf s c
  let bad := decide (DWord.lo c.uhandler % 4 ≠ 0) || decide (DWord.hi c.uhandler ≠ 0)
  let declared := userCode f.code && c.uhandler != 0 && !c.handlerFlag && !c.id.handler
  let toUser := declared && !bad
  let code := if declared && bad then 0x02 else f.code
  let addr : DWord := match f.deferred, oldest, (coreOf s c.id.core).resv.find? (fun r => r.kind == 2) with
    | true, some e, some r => BitVec.ofNat 64 (r.base + 800 * e.index)
    | true, _, _ => 0
    | false, _, _ => f.addr
  let pc := match f.deferred, oldest with
    | true, some e => e.pc
    | _, _ => f.pc
  let rec_ : TrapRec :=
    { cause := BitVec.ofNat 32 code, pc := pc, resume := if lane then BitVec.ofNat 32 (lanePoint g) else g.pc
      lanes := f.lanes, addr := addr
      info := trapInfo (if f.deferred then n else rest.length) f.sub f.remote c.handlerFlag f.deferred f.y f.x lane }
  let aside := setAside g lane
  let s := dropWait s
  let s := setCord (fun c =>
    let c := { c with flights := c.flights.filter (fun x => x.op != .fetch && some x.id != fid), trap := rec_, aside := aside
                      stopPc := if lane then g.pc else c.stopPc, trapFrag := g.id, trapReplay := f.replay
                      frag := { c.frag with queue := [], faults := rest } }
    clearLot f.lot (pruneWindows (settlePaths c))) s
  if toUser then
    setCord (fun c => { c with mode := .running, handlerFlag := true, handlerFrag := g.id, trapNext := c.nextId, handlerLane := lane, asideOuter := aside, pend := rest
                               frag := atPc (DWord.lo c.uhandler) { c.frag with faults := [] } }) s
  else toSupervisor code (if declared then setCord (fun c => { c with handlerFlag := true, handlerFrag := g.id, trapNext := c.nextId }) s else s)

/-- Whether a fragment is not held by the user handler of its cord (R180). -/
def runsNow (c : Cord) (f : Fragment) : Bool := !c.handlerFlag || f.id == c.handlerFrag || decide (c.trapNext ≤ f.id)

/-- The fragment whose fault is delivered first: the bank-0 arm's before the other's (R177). -/
def trapFragment (c : Cord) : Option Fragment :=
  let mine := fun (f : Fragment) => !f.faults.isEmpty && runsNow c f
  match (allFrags c).find? (fun f => mine f && !f.bank) with
  | some f => some f
  | none => (allFrags c).find? mine

/-- Whether STOP has frozen the acting cord (R269). -/
def frozen (s : State) : Bool := !s.cord.id.handler && (partOf s s.cord.id.part).stopped

/-- The state after the acting cord's next trap is delivered, once its streams have drained (R56); a frozen cord's waits (R269). -/
def deliverTrap (s : State) : State :=
  if s.cord.mode = .draining && drained s.cord && !frozen s then
    match trapFragment s.cord with
    | none => s
    | some f =>
      match f.faults with
      | [] => s
      | p :: _ => takeTrap p (setCord (fun c => selectFrag c f.id) s)
  else s

/-- The state with a fault of the acting fragment met: its trap is delivered at once when nothing is incomplete, and otherwise after the drain (R56). -/
def raise (f : PendFault) (s : State) : State := deliverTrap (setCord (addFault s.cord.frag.id f) s)

/-- The program position of the scalar instruction that issues. -/
def scalarOrd (s : State) : Nat × Nat := (s.cord.frag.count, 0)
/-- The program position of the lane word that issues (R120): after its LQ, in word order; an arithmetic condition of the word comes
just after its accesses (R176). -/
def laneOrd (s : State) : Nat × Nat := (s.cord.frag.cur.ord, 2 * s.cord.frag.words)

/-- A fault of the scalar instruction at the PC. -/
def scalarFault (s : State) (code : Nat) (replay : Replay) : PendFault :=
  { stream := .scalar, pc := s.cord.frag.pc, code := code, sub := 0, lanes := 0, addr := 0, x := false, y := false, remote := false
    deferred := false, replay := replay, ord := scalarOrd s }

/-- The state after the scalar instruction has raised a fault that is not replayed: %trap.resume is the next word (R292). -/
def raiseScalar (code : Nat) (s : State) : State := raise (scalarFault s code .none) (advance s)
/-- The state after the scalar instruction has raised a fault and is replayed at the return (R174). -/
def raiseAgain (code : Nat) (s : State) : State := raise (scalarFault s code .reissue) (advance s)
/-- The state after the program has raised a trap itself: its transactional lanes are first doomed with FAULT (R155). -/
def raiseOwn (code : Nat) (s : State) : State := raiseScalar code (setFrag (doomAll 8 0) s)

/-- The lane-word index of the lane word that issues. -/
def lanePc (s : State) : Word := BitVec.ofNat 32 (s.cord.frag.cur.first + s.cord.frag.cur.done - 1)

/-- The state after a lane word has raised a fault that is not replayed. -/
def raiseLane (code : Nat) (lanes : Mask) (x y : Bool) (s : State) : State :=
  raise { stream := .lane, pc := lanePc s, code := code, sub := 0, lanes := lanes, addr := 0, x := x, y := y, remote := false
          deferred := false, replay := .none, ord := laneOrd s } s

/-! ### Placing an access (R94, R95) -/

/-- One lane of an access before it is steered. -/
def newLane (lane : Nat) (va data : DWord) : LaneAcc :=
  { lane := lane, va := va, tgt := .virt, st := .todo, data := data, data2 := 0, fva := 0, ftgt := .virt, stage := 0, naks := 0, tries := 0, mode := 0
    at_ := none, got := none, stamp := 0, rows := [] }

/-- The scratch address of a scratch operand (R184). -/
def operandAddr (o : Word) : DWord := BitVec.ofNat 64 (2 ^ 63) ||| o.setWidth 64

/-- A lane with a fault, unless it has one that comes first in the order of R176. -/
def failLane (code : Nat) (l : LaneAcc) : LaneAcc := match l.st with
  | .failed c _ => if codeRank code < codeRank c then l.become (.failed code 0) else l
  | _ => l.become (.failed code 0)

/-- Whether an address lies in the stack aperture (R94). -/
def inStack (va : DWord) : Bool := fieldNat va 56 8 == 0x81
/-- Whether an address lies in the global aperture (R94). -/
def inGlobal (va : DWord) : Bool := fieldNat va 56 8 == 0x00 || fieldNat va 56 8 == 0xFF

/-- A lane of a cord with its place, or the fault of its address (R94, R95). -/
def placeLane (s : State) (c : Cord) (lane : Option Nat) (size : Nat) (l : LaneAcc) : LaneAcc :=
  match steer s c lane l.va size with
  | .ok t => { l with tgt := t }
  | .error code => l.become (.failed code 0)

/-- A lane of a notify form with the place of its flag, or the fault of the flag's address: a stack flag faults with 0x05 (R139, R341, R365, R382). -/
def placeFlag (s : State) (c : Cord) (lane : Option Nat) (l : LaneAcc) : LaneAcc :=
  if inStack l.fva then failLane 5 l
  else match steer s c lane l.fva 4 with
    | .ok t => { l with ftgt := t }
    | .error code => failLane code l

/-- A lane of an access with its place, as its operation takes it: a notify-store's data may not be in a stack (R382), a prefetch that faults or is in
scratch does nothing (R380), PGMV takes a global address and a status word in a window (R333). -/
def placeAcc (s : State) (c : Cord) (op : MemOp) (lane : Option Nat) (size : Nat) (l : LaneAcc) : LaneAcc :=
  let p := placeLane s c lane size l
  match op with
  | .load | .loadM | .store | .atom _ | .cas => p
  | .notify => placeFlag s c lane (if inStack l.va then failLane 5 p else p)
  | .ntf _ => placeFlag s c lane p
  | .prefetch => (match hasFailed p, p.tgt with
      | false, .virt => p
      | false, .stack _ => p
      | _, _ => p.become .dropped)
  | .pgmv =>
    let q := placeFlag s c lane (if inGlobal l.va then p else failLane 5 p)
    (match q.ftgt with
     | .win _ _ => q
     | _ => failLane 5 q)
  | _ => l

/-- The accesses of a replay with the places their addresses name now (R56, R106). -/
def replaced (s : State) (c : Cord) (r : Replay) : Replay :=
  match r with
  | .access f =>
    let lane := fun (l : LaneAcc) => if f.stream = .scalar then none else some l.lane
    .access { f with lanes := f.lanes.map (fun l => placeAcc s c f.op (lane l) f.size l) }
  | r => r

/-! ### Return from a trap (R56, R179, R343, R392) -/

/-- The blocks of a set-aside queue as the return puts them back: the current block from lane word r on, then the others; entries after an empty one
are ignored (R343, R390). -/
def restoreQueue (aside : List Block) (r : Option Nat) : List Block :=
  let rest := fun (bs : List Block) => bs.takeWhile (fun b => decide (b.done < b.count))
  match aside, r with
  | b :: bs, some r => (if r < b.first + b.count then [{ b with done := r - b.first }] else []) ++ rest bs
  | bs, _ => rest bs

/-- Whether a lane-stream resume point lies in the current block (R343). -/
def resumeOk (aside : List Block) (r : Nat) : Bool :=
  match aside.head? with
  | some b => decide (b.first ≤ r) && decide (r ≤ b.first + b.count)
  | none => false

/-- A fragment with the lookahead window of a long-latency instruction open (R55). -/
def addWindow (st : Stream) (w : Window) (f : Fragment) : Fragment :=
  if st = .scalar then { f with winS := f.winS ++ [w] } else { f with winL := f.winL ++ [w] }

/-- The cord with what a trap's return replays put back (R56): the access, and what was left of its lookahead window (R55). -/
def putReplay (r : Replay) (resume : Word) (c : Cord) : Cord :=
  match r with
  | .none => c
  | .reissue => { c with frag := { c.frag with pc := c.trap.pc, after := some resume, status := .running } }
  | .access f => { c with flights := c.flights ++ [{ f with paths := (f.paths.map (fun p => (p.1, false))) }]
                          frag := if f.op = .sndm then c.frag else addWindow f.stream { id := f.id, left := f.la } c.frag }

/-- The cord after the return from a trap: both streams continue, the faulting access is replayed, and a pending fault is delivered next. -/
def resumeCord (lane : Bool) (resume : Word) (aside : List Block) (replay : Replay) (pend : List PendFault) (c : Cord) : Cord :=
  let f := c.frag
  let q := if lane then restoreQueue aside (some resume.toNat) else restoreQueue aside none
  let f := { atPc (if lane then c.stopPc else resume) f with queue := q, faults := pend }
  let c := putReplay replay resume { c with frag := f }
  let more := (allFrags c).any (fun g => !g.faults.isEmpty)
  settlePaths { c with aside := [], mode := if more then .draining else .running }

/-! ### Issuing an access (R54, R55, R112) -/

/-- Whether a path can be raised: a counter above 255 waits (R112). -/
def pathRoom (c : Cord) (n : Nat) : Bool := decide ((c.paths.getD n 0).toNat < 255)

/-- The description of an access that issues. -/
structure Access where
  stream : Stream
  pc : Word
  isY : Bool
  op : MemOp
  scope : Nat
  size : Nat
  signed : Bool
  dest : Dest
  la : Nat
  lanes : List LaneAcc
  deriving DecidableEq, Repr

/-- The paths an access raises (R112): a store, an atomic, a notify form, a message or a migration request raises its path whatever its lanes, a prefetch path 0 when a lane's address is a
global or a stack one, even one that it drops (R380), and other accesses those of their lanes. -/
def accessPaths (a : Access) : List (Nat × Bool) :=
  match a.op with
  | .store => [(2, false)]
  | .atom _ | .notify | .ntf _ | .sndm | .pgmv => [(3, false)]
  | .prefetch => if a.lanes.any (fun l => inGlobal l.va || inStack l.va) then [(0, false)] else []
  | _ => (((a.lanes.filter (fun l => !settled l)).map (fun l => (lanePath a.op l.va))).eraseDups.filter (fun n => decide (n < 6))).map (fun n => (n, false))

/-- Whether a free choice performs a load or an atomic when it issues rather than when it returns (R130; log entry 2). -/
def performsNow (op : MemOp) (t : Nat) : Bool :=
  match op with
  | .load | .loadM | .atom _ | .cas | .ntf _ => Config.pick t % 2 == 0
  | _ => true

/-- The state with the line reads of a VLDM in flight (R117). -/
def noteMostly (id : Nat) (ls : List LaneAcc) (s : State) : State :=
  ls.foldl (fun s l => match l.tgt, cached s (thisCore s) s.cord.pasid l.va.toNat 1 with
    | .virt, some pa =>
      if (cacheLine (clusterOf s (thisCluster s)) (lineOf pa) false).valid != 0 then s else noteLine id (lineOf pa) s
    | _, _ => s) s

/-- The state without the line reads that have returned. -/
def dropMostly (s : State) : State :=
  let out := fun (m : MostlyRead) => (allCords s).any (fun c => c.id == m.cord && c.flights.any (fun f => f.id == m.flight && f.op == .loadM && !f.lanes.all settled))
  if s.mostly.isEmpty then s else { s with mostly := s.mostly.filter out }

/-- The state after an access has issued: its paths are raised, and its lanes are taken as far as they can go (R112). A path without a lane returns at once, behind the older instructions of the path (R113). A store is performed when it
issues, where it can be, and a load or an atomic then or when it returns, by a free choice: of the instants between that R130 leaves open the model takes one (DESIGN CHOICE, log
entry 2). -/
def issueAccess (a : Access) (s : State) : State :=
  if a.lanes.all settled && (accessPaths a).isEmpty then s
  else
    let (id, s) := fresh s
    let (t, s) := draw s
    let f : Flight := { id := id, frag := s.cord.frag.id, splits := s.cord.frag.arms.map (fun a => a.split), la := a.la, stream := a.stream, pc := a.pc, isY := a.isY, op := a.op, scope := a.scope
                        size := a.size, signed := a.signed, dest := a.dest, lanes := a.lanes, paths := accessPaths a
                        ord := if a.stream = .scalar then scalarOrd s else laneOrd s }
    let win : Window := { id := id, left := a.la }
    let s := setCord (fun c => { c with flights := c.flights ++ [f], frag := if a.op = .sndm then c.frag else addWindow a.stream win c.frag }) s
    let s := if performsNow a.op t then pushFlight id s else if a.op = .loadM then noteMostly id a.lanes s else s
    setCord (fun c => pruneWindows (settlePaths c)) s

/-! ### Returns (R112, R113) -/

/-- The flight with its performed lanes written to their destinations and settled (R166). -/
def writeLanes (f : Flight) (c : Cord) : Cord :=
  let c := f.lanes.foldl (fun c l => match l.st with
    | .done v => writeDest f l.lane (extendValue f.size f.signed v) c
    | _ => c) c
  putFlight { f with lanes := f.lanes.map (fun l => match l.st with
    | .done v => { l with st := .dropped, got := some v }
    | _ => l) } c

/-- How many more followers of a flight may issue: what its lookahead window has left (R55). -/
def windowLeft (c : Cord) (f : Flight) : Nat :=
  (((allFrags c).flatMap (fun g => g.winS ++ g.winL)).find? (fun w => w.id == f.id)).elim f.la (fun w => w.left)

/-- The state after a flight has returned what it can: values are written, counters fall, and a flight that ends in a fault is met by its fragment. -/
def returnFlight (id : Nat) (s : State) : State :=
  let s := pushFlight id s
  match s.cord.flights.find? (fun f => f.id == id) with
  | none => s
  | some f =>
    let s := setCord (writeLanes f) s
    match s.cord.flights.find? (fun f => f.id == id) with
    | none => s
    | some f =>
      let ended := f.lanes.all (fun l => settled l || hasFailed l)
      let s := dropMostly (setCord (fun c => pruneWindows (settlePaths c)) s)
      match ended, flightFault { f with la := windowLeft s.cord f } with
      | true, some p =>
        if (if f.op = .fetch then s.cord.frag.faults.any (fun q => q.ord == p.ord && q.replay == p.replay) else !unlisted s.cord f) then s
        else deliverTrap (setCord (addFault f.frag p) s)
      | _, _ => s

/-- The state after an access has issued; one whose every lane has already faulted returns at once. -/
def issue (a : Access) (s : State) : State :=
  let s' := issueAccess a s
  match s'.cord.flights.getLast? with
  | some f =>
    if s.nextId ≤ f.id && f.lanes.any hasFailed && f.lanes.all (fun l => settled l || hasFailed l) then returnFlight f.id s' else s'
  | none => s'

/-! ### Fences (R127) -/

/-- Whether some lane word that a fragment has enqueued has not issued. -/
def lanesQueued (f : Fragment) : Bool := !f.queue.isEmpty

/-- Whether the paths a list names all read 0. -/
def pathsZero (c : Cord) (ns : List Nat) : Bool := ns.all (fun n => (c.paths.getD n 0) == 0)

/-- Whether the core's log holds a pending entry of the acting cord (R127, R169). -/
def ownPending (s : State) : Bool := (coreOf s (thisCore s)).log.any (fun e => ownEntry s.cord e && !e.discarded)

/-- The state with the clean bytes of the reach dropped (R127). -/
def dropReach (c : ClusterId) (scope : Nat) (s : State) : State :=
  if scope < 2 then s
  else setCluster s c (fun cl => { cl with epoch := cl.epoch + 1, lines := (cl.lines.map (fun l => if lineInReach s c scope l then dropClean l else l)).filter (fun l => l.valid != 0) })

/-- A fence of a kind and scope: none while it waits, with what its write-backs have done (R127). -/
def fence (rel acq : Bool) (scope : Nat) (s : State) : Option State × State :=
  let c := thisCluster s
  if lanesQueued s.cord.frag then (none, s)
  else if rel && (!pathsZero s.cord [0, 1, 2, 3] || ownPending s) then (none, s)
  else
    let s := if rel && decide (2 ≤ scope) then writeBackReach c scope s else s
    if rel && decide (2 ≤ scope) && !reachClean s c scope then (none, s)
    else if acq && !pathsZero s.cord [0, 1, 3] then (none, s)
    else
      let s := if acq then dropReach c scope s else s
      (some s, s)

/-! ### Bodies (R154) -/

/-- Whether some lane of the fragment is in a transaction body. -/
def anyInBody (f : Fragment) : Bool := !f.tx.lock && !f.tx.lanes.isEmpty

/-- An instruction that R154 does not support in a body: it dooms every transactional lane of the fragment and does nothing else. -/
def outsideBody (k : State → State) (s : State) : State :=
  if anyInBody s.cord.frag then advance (setFrag (doomAll 7 0) s) else k s

end Sys2Proof.Machine
end

