-- ==== Sys2Proof/Machine/Scalar.lean ====
section
/-! DEFINITION. Scalar arithmetic (14 R297 to R300, R307, R312, R314, R322; 15 R326, R330, R334; 17 R389). -/

namespace Sys2Proof.Machine

/-- A 14-bit immediate, sign-extended (R281). -/
def sext14 (i : BitVec 14) : Word := i.signExtend 32
/-- A 14-bit immediate, zero-extended (R281). -/
def zext14 (i : BitVec 14) : Word := i.setWidth 32
/-- A shift count: bits [4:0] of a register (R326). -/
def shiftOf (x : Word) : Nat := x.toNat % 32
/-- The smaller of two words as signed numbers. -/
def minS {w : Nat} (x y : BitVec w) : BitVec w := if y.slt x then y else x
/-- The larger of two words as signed numbers. -/
def maxS {w : Nat} (x y : BitVec w) : BitVec w := if x.slt y then y else x
/-- The smaller of two words as unsigned numbers. -/
def minU {w : Nat} (x y : BitVec w) : BitVec w := if y.ult x then y else x
/-- The larger of two words as unsigned numbers. -/
def maxU {w : Nat} (x y : BitVec w) : BitVec w := if x.ult y then y else x
/-- The high half of a signed product (R330). -/
def mulHighS {w : Nat} (x y : BitVec w) : BitVec w := BitVec.ofInt w (x.toInt * y.toInt / (2 ^ w : Nat))
/-- The high half of an unsigned product (R330). -/
def mulHighU {w : Nat} (x y : BitVec w) : BitVec w := BitVec.ofNat w (x.toNat * y.toNat / 2 ^ w)
/-- The zero bits above the highest set bit of a w-bit number (R312). -/
def leadingZeros (w n : Nat) : Nat := if n = 0 then w else w - 1 - Nat.log2 n
/-- The set bits of a w-bit number (R334). -/
def onesIn (w n : Nat) : Nat := ((List.range w).filter (fun i => n.testBit i)).length
/-- A field length: 32 is written as 0 (R307). -/
def fieldLen (n : BitVec 5) : Nat := if n = 0 then 32 else n.toNat
/-- The mask of a field of n bits at p, cut off at bit 31 (R307). -/
def fieldMask (p n : Nat) : Word := BitVec.ofNat 32 ((2 ^ n - 1) * 2 ^ p)
/-- The field of n bits at p (R307). -/
def fieldExtract (x : Word) (p n : Nat) : Word := (x &&& fieldMask p n) >>> p
/-- A word with the field of n bits at p replaced (R307). -/
def fieldInsert (x y : Word) (p n : Nat) : Word := (x &&& ~~~(fieldMask p n)) ||| ((y <<< p) &&& fieldMask p n)

/-- The state after a scalar result has been written and the stream goes on (R297). -/
def result (d : Reg) (v : Word) (s : State) : State := advance (setReg s d v)
/-- The state after a pair result has been written (R314). -/
def resultPair (d : Reg) (v : DWord) (s : State) : State := advance (setPair s d v)

/-- ADD (R300). -/
def execAdd (d : Reg) (a : Reg) (b : Reg) (s : State) : Result := .next (result d (reg s a + reg s b) s)

/-- ADD_IMM (R300). -/
def execAddImm (d : Reg) (a : Reg) (i : BitVec 14) (s : State) : Result := .next (result d (reg s a + sext14 i) s)

/-- SUB (R326). -/
def execSub (d : Reg) (a : Reg) (b : Reg) (s : State) : Result := .next (result d (reg s a - reg s b) s)

/-- AND (R300). -/
def execAnd (d : Reg) (a : Reg) (b : Reg) (s : State) : Result := .next (result d (reg s a &&& reg s b) s)

/-- AND_IMM (R300). -/
def execAndImm (d : Reg) (a : Reg) (i : BitVec 14) (s : State) : Result := .next (result d (reg s a &&& zext14 i) s)

/-- OR (R326). -/
def execOr (d : Reg) (a : Reg) (b : Reg) (s : State) : Result := .next (result d (reg s a ||| reg s b) s)

/-- OR_IMM (R326). -/
def execOrImm (d : Reg) (a : Reg) (i : BitVec 14) (s : State) : Result := .next (result d (reg s a ||| zext14 i) s)

/-- XOR (R389). -/
def execXor (d : Reg) (a : Reg) (b : Reg) (s : State) : Result := .next (result d (reg s a ^^^ reg s b) s)

/-- XOR_IMM (R389). -/
def execXorImm (d : Reg) (a : Reg) (i : BitVec 14) (s : State) : Result := .next (result d (reg s a ^^^ zext14 i) s)

/-- SHL (R326). -/
def execShl (d : Reg) (a : Reg) (b : Reg) (s : State) : Result := .next (result d (reg s a <<< shiftOf (reg s b)) s)

/-- SHL_IMM (R326). -/
def execShlImm (d : Reg) (a : Reg) (n : BitVec 5) (s : State) : Result := .next (result d (reg s a <<< n.toNat) s)

/-- SHR (R326). -/
def execShr (d : Reg) (a : Reg) (b : Reg) (s : State) : Result := .next (result d (reg s a >>> shiftOf (reg s b)) s)

/-- SHR_IMM (R326). -/
def execShrImm (d : Reg) (a : Reg) (n : BitVec 5) (s : State) : Result := .next (result d (reg s a >>> n.toNat) s)

/-- SAR (R326). -/
def execSar (d : Reg) (a : Reg) (b : Reg) (s : State) : Result := .next (result d ((reg s a).sshiftRight (shiftOf (reg s b))) s)

/-- SAR_IMM (R326). -/
def execSarImm (d : Reg) (a : Reg) (n : BitVec 5) (s : State) : Result := .next (result d ((reg s a).sshiftRight n.toNat) s)

/-- MIN (R326). -/
def execMin (d : Reg) (a : Reg) (b : Reg) (s : State) : Result := .next (result d (minS (reg s a) (reg s b)) s)

/-- MAX (R326). -/
def execMax (d : Reg) (a : Reg) (b : Reg) (s : State) : Result := .next (result d (maxS (reg s a) (reg s b)) s)

/-- MINN (R326). -/
def execMinn (d : Reg) (a : Reg) (b : Reg) (s : State) : Result := .next (result d (minU (reg s a) (reg s b)) s)

/-- MAXN (R326). -/
def execMaxn (d : Reg) (a : Reg) (b : Reg) (s : State) : Result := .next (result d (maxU (reg s a) (reg s b)) s)

/-- SLT (R326). -/
def execSlt (d : Reg) (a : Reg) (b : Reg) (s : State) : Result := .next (result d (bit ((reg s a).slt (reg s b))) s)

/-- SLT_IMM (R326). -/
def execSltImm (d : Reg) (a : Reg) (i : BitVec 14) (s : State) : Result := .next (result d (bit ((reg s a).slt (sext14 i))) s)

/-- SLTN (R326). -/
def execSltn (d : Reg) (a : Reg) (b : Reg) (s : State) : Result := .next (result d (bit ((reg s a).ult (reg s b))) s)

/-- SLTN_IMM (R326: the immediate is sign-extended, then compared as unsigned). -/
def execSltnImm (d : Reg) (a : Reg) (i : BitVec 14) (s : State) : Result := .next (result d (bit ((reg s a).ult (sext14 i))) s)

/-- SEQ (R326). -/
def execSeq (d : Reg) (a : Reg) (b : Reg) (s : State) : Result := .next (result d (bit (reg s a == reg s b)) s)

/-- SEQ_IMM (R326). -/
def execSeqImm (d : Reg) (a : Reg) (i : BitVec 14) (s : State) : Result := .next (result d (bit (reg s a == sext14 i)) s)

/-- SEL (R326). -/
def execSel (d : Reg) (a : Reg) (b : Reg) (s : State) : Result := .next (result d (if reg s d = 0 then reg s b else reg s a) s)

/-- MUL (R330). -/
def execMul (d : Reg) (a : Reg) (b : Reg) (_l : BitVec 4) (s : State) : Result := .next (result d (reg s a * reg s b) s)

/-- MULH (R330). -/
def execMulh (d : Reg) (a : Reg) (b : Reg) (_l : BitVec 4) (s : State) : Result := .next (result d (mulHighS (reg s a) (reg s b)) s)

/-- MULHN (R330). -/
def execMulhn (d : Reg) (a : Reg) (b : Reg) (_l : BitVec 4) (s : State) : Result := .next (result d (mulHighU (reg s a) (reg s b)) s)

/-- CLZ (R312). -/
def execClz (d : Reg) (a : Reg) (s : State) : Result := .next (result d (BitVec.ofNat 32 (leadingZeros 32 (reg s a).toNat)) s)

/-- POPC (R334). -/
def execPopc (d : Reg) (a : Reg) (s : State) : Result := .next (result d (BitVec.ofNat 32 (onesIn 32 (reg s a).toNat)) s)

/-- BFX (R307). -/
def execBfx (d : Reg) (a : Reg) (p : BitVec 5) (n : BitVec 5) (s : State) : Result := .next (result d (fieldExtract (reg s a) p.toNat (fieldLen n)) s)

/-- BFI (R307). -/
def execBfi (d : Reg) (a : Reg) (p : BitVec 5) (n : BitVec 5) (s : State) : Result := .next (result d (fieldInsert (reg s d) (reg s a) p.toNat (fieldLen n)) s)

/-- LI (R322). -/
def execLi (d : Reg) (i : BitVec 20) (s : State) : Result := .next (result d (i.signExtend 32) s)

/-- LIH (R322). -/
def execLih (d : Reg) (i : BitVec 20) (s : State) : Result := .next (result d (i ++ 0#12) s)

/-- DADD (R314). -/
def execDadd (d a b : Reg) (s : State) : Result := .next (resultPair d (pair s a + pair s b) s)

/-- DSUB (R314). -/
def execDsub (d a b : Reg) (s : State) : Result := .next (resultPair d (pair s a - pair s b) s)

end Sys2Proof.Machine
end

