-- ==== Sys2Proof/Machine/Splits.lean ====
section
/-! DEFINITION. Splits of a cord into fragments, joins, fusions and ended arms (R30 to R37, R151). -/

namespace Sys2Proof.Machine

/-- Whether a split encloses a fragment. -/
def inSplit (split : Nat) (f : Fragment) : Bool := f.arms.any (fun a => a.split == split)
/-- Whether a split is the innermost that encloses a fragment. -/
def headSplit (split : Nat) (f : Fragment) : Bool := f.arms.head?.any (fun a => a.split == split)
/-- The side of a split that a fragment lies on. -/
def sideOf (split : Nat) (f : Fragment) : Nat := ((f.arms.find? (fun a => a.split == split)).map (fun a => a.side)).getD 0
/-- The fragments that a split encloses. -/
def splitFrags (split : Nat) (c : Cord) : List Fragment := (allFrags c).filter (inSplit split)
/-- The sides of a split that have a fragment. -/
def splitSides (split : Nat) (c : Cord) : List Nat := ((splitFrags split c).map (sideOf split)).eraseDups

/-- The open transactions' reservations of two split-table entries (R147): records not yet split, and their splits. -/
def reservations (c : Cord) : List (Bool × Nat) :=
  ((allFrags c).flatMap (fun f => (if f.tx.reserved then [(false, f.tx.split)] else []) ++ f.tx.nested.map (fun n => (false, n)) ++
    (f.arms.filter (fun a => a.trans)).map (fun a => (true, a.split)))).eraseDups
/-- The arms Q and E that use a reservation (R151). -/
def reservedArms (c : Cord) : List (Nat × Nat) :=
  ((allFrags c).flatMap (fun f => (f.arms.filter (fun a => a.trans && a.side != 0)).map (fun a => (a.split, a.side)))).eraseDups
/-- The split-table entries in use (R32, R147): one for each fragment, and two for each open transaction in place of its Q and E. -/
def entriesUsed (c : Cord) : Nat := (allFrags c).length - (reservedArms c).length + 2 * (reservations c).length

/-- A fragment whose arms have changed: it is at its join when its PC is that of the innermost one (R36), and a stopped one goes on otherwise. -/
def recheck (f : Fragment) : Fragment :=
  if f.after.isSome then f
  else
    let there := f.arms.head?.any (fun a => a.join == f.pc)
    { f with status := if there then .atJoin else match f.status with
        | .atJoin | .serial => .running
        | x => x }

/-- A fragment after a split that encloses it has closed (R37). -/
def unwrap (split : Nat) (f : Fragment) : Fragment :=
  if inSplit split f then
    let g := { f with arms := f.arms.filter (fun a => a.split != split) }
    if headSplit split f then recheck g else g
  else f

/-- The cord with one bank left after a topmost split: the surviving bank becomes bank 0, and values on their way to the other are discarded
(R36, R37). -/
def keepBank (b : Bool) (c : Cord) : Cord :=
  let move (d : Dest) : Dest := match d with
    | .sreg x r => if x = b then .sreg false r else .none
    | .spair x r => if x = b then .spair false r else .none
    | d => d
  { mapFrags (fun f => { f with bank := false }) c with
    bank0 := if b then c.bank1 else c.bank0, topSplit := false, flights := c.flights.map (fun f => { f with dest := move f.dest }) }

/-- The cord after a split has only one side left: that side takes the split's place (R37). -/
def closeSplit (split : Nat) (c : Cord) : Cord :=
  match splitFrags split c with
  | [] => c
  | f :: _ =>
    let top := f.arms.any (fun a => a.split == split && a.top)
    mapFrags (unwrap split) (if top then keepBank f.bank c else c)

/-- The cord after arm E of a transaction may start: Q owns no lane (R151). -/
def startE (split : Nat) (c : Cord) : Cord :=
  if (splitSides split c).contains 1 then c
  else mapFrags (fun f => if headSplit split f && sideOf split f == 2 && f.status == .serial then atPc f.pc f else f) c

/-- The cord without its acting fragment, which owns no lane any more: the cord ends, or another fragment acts (R37, R40). -/
def endArm (c : Cord) : Cord :=
  match c.frags with
  | [] => { c with mode := .ended, exitPc := c.frag.pc }
  | g :: gs =>
    let arm := c.frag.arms.head?
    let c := { c with frag := g, frags := gs, exitPc := c.frag.pc }
    match arm with
    | none => c
    | some a =>
      if a.trans then startE a.split c
      else if (splitSides a.split c).length ≤ 1 then closeSplit a.split c
      else c

/-- The scalar banks after a topmost split (R34): s1 to s60 of the root bank in the other. -/
def copyBank (c : Cord) : Cord :=
  { c with bank1 := (Vector.ofFn (fun (i : Fin 64) => if i.val = 0 ∨ 61 ≤ i.val then c.bank1[i] else (bankOf c c.frag.bank)[i])), topSplit := true }

/-- The transaction record of an arm: its lanes among those the arm owns (R147). -/
def txFor (owned : Mask) (t : TxRec) : TxRec :=
  { t with lanes := t.lanes.filter (fun l => owned.getLsbD l.lane), fallback := t.fallback.filter (fun l => owned.getLsbD l) }

/-- The cord after its acting fragment has split at a BD (R31, R34, R35): taken lanes t, both targets, the join. -/
def splitFrag (t : Mask) (target join : Word) (c : Cord) : Cord :=
  let f := c.frag
  let top := f.arms.isEmpty
  let arm (side : Nat) : Arm := { split := c.nextId, side := side, join := join, top := top, trans := false }
  let c := if top then copyBank c else c
  let n := atPc (f.pc + 4) { f with arms := arm 0 :: f.arms, mask := f.mask &&& ~~~t, owned := f.owned &&& ~~~t, tx := txFor (f.owned &&& ~~~t) f.tx }
  let k := { f with id := c.nextId, pc := target, after := none, arms := arm 1 :: f.arms, mask := t, owned := t, bank := f.bank || top, queue := []
                    cyclesHi := 0, winS := [], winL := [], faults := [], tx := txFor t f.tx, status := .serial }
  let k := if top then atPc target k else k
  { c with frag := n, frags := c.frags ++ [k], nextId := c.nextId + 1 }

/-- Whether an access of a fragment still has a part to perform (R136). -/
def unperformed (f : Flight) : Bool :=
  (match f.op with
   | .load | .loadM | .store | .atom _ | .cas | .notify | .ntf _ | .sndm | .lmtst => true
   | _ => false) && f.lanes.any (fun l => match l.st with
    | .dropped | .done _ | .failed _ _ => false
    | _ => true)

/-- Whether an access still has a scalar register of a bank to write. -/
def writesBank (c : Cord) (f : Flight) (bank : Bool) : Bool :=
  flightOpen c f && (match f.dest with
    | .sreg b _ | .spair b _ => b == bank
    | _ => false)

/-- Whether a scalar register of a bank waits for a returning value, whichever fragment asked for it (R34). -/
def scalarPending (c : Cord) (bank : Bool) : Bool := c.flights.any (fun f => writesBank c f bank)

/-- Whether a split's arms may fuse (R36, R136): all stopped at the join, lane queues empty, scalar writes and accesses complete, those of inner arms that
have ended among them. -/
def canFuse (split : Nat) (c : Cord) : Bool :=
  let fs := splitFrags split c
  c.mode == .running && !fs.isEmpty && fs.all (fun f => headSplit split f && f.status == .atJoin && f.queue.isEmpty && f.faults.isEmpty) &&
    !c.flights.any (fun g => g.splits.contains split && (unperformed g || unlisted c g || writesBank c g false || writesBank c g true))

/-- The fragment that two arms form (R36). A write of the mask by a lane word, or by a load, that an arm had asked for before it reached the join counts: its place in program order is
before the join (R29), and R36 does not say whether it belongs to the mask at the moment the arm arrived (DESIGN CHOICE, log entry 68). -/
def joinFrags (a b : Fragment) : Fragment :=
  { a with owned := a.owned ||| b.owned, mask := a.mask ||| b.mask, count := max a.count b.count, words := max a.words b.words
           winS := a.winS ++ b.winS, winL := a.winL ++ b.winL, tx := { a.tx with lanes := a.tx.lanes ++ b.tx.lanes } }

/-- The cord after the arms of a split have fused (R36): the not-taken arm, or P, continues at the join. -/
def fuse (split : Nat) (c : Cord) : Cord :=
  let fs := splitFrags split c
  let base := fs.foldl (fun (b : Option Fragment) f => match b with
    | none => some f
    | some x => if sideOf split f < sideOf split x then some f else some x) none
  match base, canFuse split c with
  | some b, true =>
    let trans := b.arms.any (fun a => a.split == split && a.trans)
    let top := b.arms.any (fun a => a.split == split && a.top)
    let others := fs.filter (fun f => f.id != b.id)
    let g := others.foldl joinFrags b
    let g := { g with arms := g.arms.tail, tx := if trans then TxRec.idle else g.tx }
    let rest := (allFrags c).filter (fun f => !inSplit split f)
    let c := { c with frag := recheck g, frags := rest
                      flights := c.flights.map (fun f => if others.any (fun o => o.id == f.frag) then { f with frag := b.id } else f) }
    if top then keepBank b.bank c else c
  | _, _ => c

/-- The cord after a serialised taken arm has started (R35). -/
def startSerial (split : Nat) (c : Cord) : Cord :=
  let sib := (splitFrags split c).filter (fun f => sideOf split f == 0)
  if sib.all (fun f => headSplit split f && f.status == .atJoin) then
    mapFrags (fun f => if headSplit split f && sideOf split f == 1 && f.status == .serial then atPc f.pc f else f) c
  else c

end Sys2Proof.Machine
end

