-- ==== Sys2Proof/Machine/Control.lean ====
section
/-! DEFINITION. Branches, EXIT, TRAP, TRET and the events of splits and cord ends (02 R31 to R40; 08 R180; 14 R303 to R310, R315; 15 R332, R336,
R342, R343). -/

namespace Sys2Proof.Machine

/-- A displacement target (R298). -/
def dispTarget {w : Nat} (s : State) (d : BitVec w) : Word := s.cord.frag.pc + 4 * d.signExtend 32

/-- The state after a branch to a register target: a misaligned one raises 0x02 and has no effect (R298). -/
def jumpReg (t : Word) (k : State → State) (s : State) : State := if t.toNat % 4 ≠ 0 then raiseScalar 2 s else jump (k s) t

/-- The state with the link written: d29 holds the next word (R309). -/
def writeLink (s : State) : State := setPair s 58 ((s.cord.frag.pc + 4).setWidth 64)

/-- B (R303). -/
def execB (d : BitVec 26) (s : State) : Result := .next (jump s (dispTarget s d))

/-- CALL (R309). -/
def execCall (d : BitVec 26) (s : State) : Result := .next (jump (writeLink s) (dispTarget s d))

/-- The conditions of R282. -/
def condHolds (c : BitVec 4) (x : Word) : Bool :=
  match c.toNat with
  | 0 => x == 0
  | 1 => x != 0
  | 2 => x.slt 0
  | 3 => !x.slt 0
  | 4 => (0 : Word).slt x
  | _ => !(0 : Word).slt x

/-- BC (R305). -/
def execBc (a : Reg) (c : BitVec 4) (d : BitVec 16) (s : State) : Result :=
  .next (if condHolds c (reg s a) then jump s (dispTarget s d) else advance s)

/-- The lanes that take a divergent branch (R31). -/
def takenLanes (s : State) (p : BitVec 3) (n : BitVec 1) : Mask :=
  s.cord.frag.mask &&& (if n = 1 then ~~~(predOf s.cord p) else predOf s.cord p)

/-- BD (R31, R32, R34). -/
def execBd (p : BitVec 3) (n : BitVec 1) (d j : BitVec 11) (s : State) : Result :=
  let t := takenLanes s p n
  .next (
    if lanesQueued s.cord.frag then wait 1 s
    else if t = 0 then advance s
    else if t = s.cord.frag.mask then jump s (dispTarget s d)
    else if 8 ≤ entriesUsed s.cord then raiseScalar 1 s
    else if s.cord.frag.arms.isEmpty && scalarPending s.cord s.cord.frag.bank then wait 1 s
    else setCord (splitFrag t (dispTarget s d) (dispTarget s j)) s)

/-- BX (R308). -/
def execBx (a : Reg) (s : State) : Result := .next (jumpReg (reg s a) id s)

/-- CALLR (R310): the target is read before the link is written. -/
def execCallr (a : Reg) (s : State) : Result := .next (jumpReg (reg s a) writeLink s)

/-- RET (R336). -/
def execRet (s : State) : Result := .next (jumpReg (reg s 58) id s)

/-- NOP (R332). -/
def execNop (s : State) : Result := .next (advance s)

/-- TRAP (R342). -/
def execTrap (s : State) : Result := .next (raiseOwn 0x0E s)

/-- The fragment without its active lanes (R39). -/
def exitLanes (f : Fragment) : Fragment := { f with owned := f.owned &&& ~~~f.mask, mask := 0 }

/-- The fragment's transaction record without its exited lanes; a fallback run whose lane has exited is over (R39, R152). -/
def exitTx (f : Fragment) : Fragment :=
  let ls := f.tx.lanes.filter (fun t => f.owned.getLsbD t.lane)
  { f with tx := { f.tx with lanes := ls, fallback := f.tx.fallback.filter (fun l => f.owned.getLsbD l), lock := f.tx.lock && !ls.isEmpty } }

/-- The state after the active lanes of the acting fragment have exited: the fallback lock is free when its lane is gone (R39, R152). -/
def exitFrag (s : State) : State :=
  let t := setFrag (fun f => exitTx (exitLanes f)) s
  if s.cord.frag.tx.lock && !t.cord.frag.tx.lock then { t with almanac := { t.almanac with lock := .free } } else t

/-- EXIT (R39, R315). -/
def execExit (s : State) : Result :=
  .next (outsideBody (fun s =>
    if s.cord.handlerFlag then raiseScalar 1 s
    else if lanesQueued s.cord.frag then wait 1 s
    else if (exitLanes s.cord.frag).owned = 0 then setCord endArm (exitFrag s)
    else advance (exitFrag s)) s)

/-- Whether %trap.resume is one TRET accepts (R343). -/
def resumeLegal (c : Cord) : Bool :=
  if c.handlerLane then resumeOk c.asideOuter c.trap.resume.toNat else c.trap.resume.toNat % 4 == 0

/-- TRET (R180, R343). -/
def execTret (s : State) : Result :=
  .next (
    if !s.cord.handlerFlag then raiseScalar 1 s
    else if !resumeLegal s.cord then raiseScalar 2 s
    else deliverTrap (setCord (fun c =>
      resumeCord c.handlerLane c.trap.resume c.asideOuter .none c.pend { c with handlerFlag := false, asideOuter := [], pend := [] }) s))

/-! ### Events of fragments and cords -/

/-- The cord an event names changed, if it exists. -/
def onEvent (c : CordId) (f : State → State) (s : State) : State :=
  let s := selectCord s c
  if onCord s c then f s else s

/-- The state with the acting cord changed, unless STOP has frozen it (R269). -/
def unfrozen (f : State → State) (s : State) : State := if frozen s then s else f s

/-- FUSION (R36). -/
def execFusion (c : CordId) (split : Nat) (s : State) : Result := .next (onEvent c (unfrozen (setCord (fuse split))) s)

/-- SERIAL_ARM_START (R35). -/
def execSerialArmStart (c : CordId) (split : Nat) (s : State) : Result := .next (onEvent c (unfrozen (setCord (startSerial split))) s)

/-- The state with an ended cord's slot held when its launch is persistent (R43). -/
def holdSlot (c : Cord) (s : State) : State :=
  if !persistentStand s c.stand then s
  else
    let h : HeldStand := { key := c.stand, cluster := c.id.core.cluster, pages := [], slots := [] }
    let hs := if s.held.any (fun h => h.key == c.stand) then s.held else s.held ++ [h]
    { s with held := modifyWhere (fun h => h.key == c.stand) (fun h => { h with slots := h.slots ++ [(c.id, c.alloc, c.tiles)] }) hs }

/-- The state after the acting cord's slot has been freed (R40), or is held by its persistent launch (R43). -/
def freeCord (s : State) : State :=
  let c := s.cord
  if c.id.handler then setCore { s with cord := Cord.blank } c.id.core (fun k => { k with serving := none })
  else
    let s := setPart s c.id.part (fun p =>
      { p with exits := p.exits.filter (fun e => e.1 != c.id.slot.toNat % 16) ++ (if c.exitSeen then [] else [(c.id.slot.toNat % 16, c.exitPc)]) })
    let s := if c.batches.all (fun b => b.left == 0) then journalLots c.stand c.batches s
      else setPart s c.id.part (fun p => { p with dead := p.dead ++ [{ cord := c.id, stand := c.stand, tiles := c.tiles, acc := c.acc, batches := c.batches }] })
    let s := holdSlot c { s with cord := Cord.blank }
    let s := setStand c.stand (fun st => { st with cordsLeft := st.cordsLeft - 1 }) s
    let s := match findStand s c.stand with
      | some st => if st.cordsLeft = 0 then endStand c.stand s else s
      | none => s
    dropContexts c.id.core s

/-- The state in which the stand of the acting cord, its last, leaves its grove as if by GLEAVE (R106). -/
def leaveLast (s : State) : State :=
  match findStand s s.cord.stand with
  | some st => if st.cordsLeft ≤ 1 && !s.cord.id.handler then startLeave s.cord.stand st.cluster s else s
  | none => s

/-- CORD_END (R40): the slot is freed once the cord's accesses have returned, and with the last cord of a stand once the stand may leave its grove (R106). -/
def execCordEnd (c : CordId) (s : State) : Result :=
  .next (onEvent c (unfrozen (fun s =>
    if s.cord.mode = .ended && s.cord.flights.all (fun f => f.lanes.all (fun l => settled l || hasFailed l)) then
      let s := leaveLast s
      if (findStand s s.cord.stand).any (fun st => decide (st.cordsLeft ≤ 1)) && !s.cord.id.handler && leaveWaits s s.cord.stand then s else freeCord s
    else s)) s)

end Sys2Proof.Machine
end

