-- ==== Sys2Proof/Machine/Records.lean ====
section
/-! DEFINITION. Launch records: their fields, what refuses them, and the groups and dependences they give (02 R18 to R24; 03 R46, R47; 12 R259, R260). -/

namespace Sys2Proof.Machine

/-! ### Fields (R259) -/

/-- Width w_k of field k (R18). -/
def recWidth (r : BitVec 1024) (k : Nat) : Nat := recField r (8 + k) 1
/-- B(k), the bits below and of fields 0 to k (R19). -/
def recB (r : BitVec 1024) : Nat → Nat
  | 0 => recWidth r 0
  | k + 1 => recB r k + recWidth r (k + 1)
/-- The first bit of field k. -/
def recLo (r : BitVec 1024) (k : Nat) : Nat := recB r k - recWidth r k
/-- Extent e_k of field k (R18, R259). -/
def recExtent (r : BitVec 1024) (k : Nat) : Nat := recField r 16 8 / 2 ^ recLo r k % 2 ^ recWidth r k + 1
/-- The lane-register allocation A. -/
def recAlloc (r : BitVec 1024) : Nat := 16 * (recField r 4 1 % 16 + 1)
/-- Accumulator tiles T. -/
def recTiles (r : BitVec 1024) : Nat := recField r 5 1
/-- The window in 4 KiB pages. -/
def recPages (r : BitVec 1024) : Nat := recField r 64 2
/-- The stack of a thread in bytes. -/
def recStack (r : BitVec 1024) : Nat := 16 * recField r 66 2
/-- The kind and c of ring j: kind 0 is no ring. -/
def recRing (r : BitVec 1024) (j : Nat) : Nat × Nat := (recField r (68 + j) 1 / 16 % 4, recField r (68 + j) 1 % 16)
/-- COMPTAG. -/
def recTag (r : BitVec 1024) : Word := BitVec.ofNat 32 (recField r 120 4)
/-- A launch that is placed with all its stands at once (R42, R43). -/
def recTogether (r : BitVec 1024) : Bool := recFlag r 1 || recFlag r 2

/-- A used dependence (R46): queue, launch sequence number, WHOLE, and level. -/
structure Dep where
  index : Nat
  queue : QueueNo
  seq : Nat
  whole : Bool
  level : Nat
  deriving DecidableEq, Repr

/-- The LEVEL byte of DEPS entry i. -/
def depLevel (r : BitVec 1024) (i : Nat) : Nat := recField r (72 + 12 * i + 10) 1

/-- The used dependences of a record. -/
def recDeps (r : BitVec 1024) : List Dep :=
  ((List.range 4).filter (fun i => (depLevel r i).testBit 7)).map (fun i =>
    { index := i, queue := BitVec.ofNat 14 (recField r (72 + 12 * i + 8) 2), seq := recField r (72 + 12 * i) 8, whole := (depLevel r i).testBit 6
      level := depLevel r i % 8 })

/-- The cords of a stand (R22). -/
def recCords (r : BitVec 1024) : Nat := (recExtent r 0 + 95) / 96

/-! ### Refusals (R260) -/

/-- Cords of an allocation that one partition takes (R23). -/
def cordsPerPart (alloc : Nat) : Nat := min 16 (262144 / (384 * alloc))

/-- The largest e0 of an allocation (R24). -/
def maxThreads (alloc : Nat) : Nat := min 16384 (96 * 16 * cordsPerPart alloc)

/-- Whether a byte of RINGS is in range. -/
def ringByteOk (b : Nat) : Bool := b == 0 || (decide (b < 64) && decide (16 ≤ b) && decide (b % 16 ≤ 10))

/-- Whether a record keeps R18, R24 and R259, the content of used DEPS entries apart. -/
def recordOk (r : BitVec 1024) : Bool :=
  recField r 0 2 == 1 && decide (recField r 2 2 < 16) && decide (recField r 4 1 < 16) && decide (recTiles r ≤ 16) && recField r 6 2 == 0 &&
  (List.range 6).all (fun k => decide (recWidth r k ≤ 63)) && decide (recB r 5 ≤ 64) && recField r 14 2 == 0 &&
  decide (recField r 16 8 < 2 ^ recB r 5) && decide (recExtent r 0 ≤ maxThreads (recAlloc r)) &&
  recField r 24 8 % 4 == 0 && recField r 32 8 % 16 == 0 && decide (1 ≤ recField r 40 4) && decide (recField r 40 4 ≤ 2 ^ 24) &&
  recField r 44 4 % 4 == 0 && decide (recPages r ≤ 1024) && decide (recStack r ≤ 65536) &&
  (List.range 4).all (fun j => ringByteOk (recField r (68 + j) 1)) && recField r 124 4 == 0

/-- Whether the content of a used DEPS entry is in range (R47, R259). -/
def depFieldsOk (r : BitVec 1024) (d : Dep) : Bool :=
  depLevel r d.index / 8 % 8 == 0 && recField r (72 + 12 * d.index + 11) 1 == 0 && decide (recField r (72 + 12 * d.index + 8) 2 < 16384) &&
    (if d.whole then d.level == 0 else decide (2 ≤ d.level) && decide (d.level ≤ 5))

/-- The launch of a queue with a sequence number. -/
def findLaunch (s : State) (q : QueueNo) (seq : Nat) : Option Launch := s.launches.find? (fun l => l.queue == q && l.seq == seq)
/-- The state with a launch changed. -/
def setLaunch (q : QueueNo) (seq : Nat) (f : Launch → Launch) (s : State) : State :=
  { s with launches := modifyWhere (fun l => l.queue == q && l.seq == seq) f s.launches }
/-- A live queue. -/
def findQueue (s : State) (q : QueueNo) : Option Queue := s.queues.find? (fun x => x.live && x.num == q)
/-- The state with a queue changed. -/
def setQueue (q : QueueNo) (f : Queue → Queue) (s : State) : State := { s with queues := modifyWhere (fun x => x.live && x.num == q) f s.queues }

/-- Whether a dependence of a record fetched as launch seq of a queue is accepted (R47). -/
def depOk (s : State) (q : Queue) (seq : Nat) (r : BitVec 1024) (d : Dep) : Bool :=
  depFieldsOk r d && d.queue != 0 && (match findQueue s d.queue with
    | none => false
    | some x => x.pasid == q.pasid && decide (1 ≤ d.seq) && decide (d.seq < if d.queue = q.num then seq else x.nextSeq)) &&
  (match findLaunch s d.queue d.seq with
   | some l => !(l.done && l.outcome != some (0, 0))
   | none => true)

/-! ### Groups (R19, R20, R48) -/

/-- The product of the extents of fields lo to hi - 1. -/
def extents (r : BitVec 1024) (lo hi : Nat) : Nat := ((List.range hi).drop lo).foldl (fun a k => a * recExtent r k) 1

/-- The gangs of a launch. -/
def gangCount (r : BitVec 1024) : Nat := extents r 2 6

/-- The level-1 group number of gang n in ascending order (R48). -/
def gangNumber (r : BitVec 1024) (n : Nat) : Nat :=
  (List.range 4).foldl (fun a i => a + n / extents r 2 (2 + i) % recExtent r (2 + i) * 2 ^ (recLo r (2 + i) - recB r 1)) 0

/-- The level-k group number, for k from 2, that gang n lies in (R20). -/
def gangGroup (r : BitVec 1024) (n k : Nat) : Nat := gangNumber r n / 2 ^ (recB r k - recB r 1)

/-- The level-0 group number of stand f of a gang (R20, R51). -/
def standNumber (r : BitVec 1024) (gang f : Nat) : Nat := f + gang * 2 ^ recWidth r 1

/-- Whether a launch has level-k group g (R46). -/
def hasGroup (r : BitVec 1024) (k g : Nat) : Bool :=
  decide (g < 2 ^ (recB r 5 - recB r k)) &&
    ((List.range 6).drop (k + 1)).all (fun i => decide (g / 2 ^ (recLo r i - recB r k) % 2 ^ recWidth r i < recExtent r i))

/-- The place of level-k group g among those of its launch, in ascending order. -/
def groupOrdinal (r : BitVec 1024) (k g : Nat) : Nat :=
  ((List.range 6).drop (k + 1)).foldl (fun a i => a + g / 2 ^ (recLo r i - recB r k) % 2 ^ recWidth r i * extents r (k + 1) i) 0

/-- Whether every gang of level-k group g has been placed. -/
def groupPlaced (l : Launch) (k g : Nat) : Bool := decide ((groupOrdinal l.record k g + 1) * extents l.record 2 (k + 1) ≤ l.nextGang)

/-- Whether a stand lies in level-k group g of its launch. -/
def inGroup (r : BitVec 1024) (k g : Nat) (key : StandKey) : Bool := key.num / 2 ^ (recB r k - recB r 0) == g

/-- Whether a dependence of a launch allows its gang n to be placed (R46). -/
def depSatisfied (s : State) (l : Launch) (n : Nat) (d : Dep) : Bool :=
  l.cleared.contains d.index || (match findLaunch s d.queue d.seq with
    | none => true
    | some x => x.done || (!d.whole && (let g := gangGroup l.record n d.level; !hasGroup x.record d.level g || x.groups.contains (d.level, g))))

end Sys2Proof.Machine
end

