-- ==== Sys2Proof/Machine/Sync.lean ====
section
/-! DEFINITION. Fences, barriers, path and ring waits, and lots (05 R110, R114; 06 R127; 09 R197, R198, R203 to R206). -/

namespace Sys2Proof.Machine

/-- The state after a fence that goes on or waits with stall code 12 (R127, R267). -/
def fenceStep (rel acq : Bool) (scope : Nat) (k : State → State) (s : State) : State :=
  match fence rel acq scope s with
  | (some s', _) => k s'
  | (none, s') => wait 12 s'

/-- FENCE.ACQ (R127). -/
def execFenceAcq (z : BitVec 6) (s : State) : Result := .next (outsideBody (fenceStep false true z.toNat advance) s)
/-- FENCE.REL (R127). -/
def execFenceRel (z : BitVec 6) (s : State) : Result := .next (outsideBody (fenceStep true false z.toNat advance) s)
/-- FENCE.FULL (R127). -/
def execFenceFull (z : BitVec 6) (s : State) : Result := .next (outsideBody (fenceStep true true z.toNat advance) s)

/-- The state after the scalar instruction has raised a data fault, with its address; it is replayed (R174, R299). -/
def raiseData (code : Nat) (va : DWord) (s : State) : State := raise { scalarFault s code .reissue with addr := va } (advance s)

/-- The place of a barrier: a window of scratch (R204). An address in a ring's records or control blocks faults with 0x05, aligned or not, the first of its faults in the order of
R176. -/
def barrierPlace (s : State) (va : DWord) : Except Nat (StandKey × Nat) :=
  if fieldNat va 56 8 ≠ 0x80 then .error 0x11
  else match scratchPlace s (thisCluster s) s.cord.stand (fieldNat va 0 56), decodeScratch s (thisCluster s) s.cord.stand (fieldNat va 0 56) 8 with
    | .ok (.win _ _), .ok (.win k o) => .ok (k, o)
    | .ok (.win _ _), .error code | .error _, .error code => .error code
    | _, _ => .error 0x05

/-- The 8 bytes of a barrier as its bank reads them. A barrier instruction raises no 0x0B (R296, R301, R304, R386), and no failed value is ever returned (R173): a failed run
reads as a free value (DESIGN CHOICE, log entry 64). -/
def barrierRead (k : StandKey) (o : Nat) (s : State) : Nat × State :=
  if runFailed s k o then (freePair s.tick, { s with tick := s.tick + 2 }) else (scratchRead (.win k o) 8 s, s)


/-- An instruction on a barrier: the fault of its address, or its effect there. -/
def onBarrier (va : DWord) (k : StandKey → Nat → State → State) (s : State) : State :=
  match barrierPlace s va with
  | .error code => raiseData code va s
  | .ok (b, o) => k b o s

/-- BARI (R204, R205): one 8-byte write at the bank, after the cord's older accesses there (R122). -/
def execBari (a b : Reg) (s : State) : Result :=
  let e := (reg s b).toNat
  .next (outsideBody (fun s =>
    if e = 0 ∨ 65536 ≤ e then raiseScalar 1 s
    else onBarrier (pair s a) (fun k o s =>
      if scratchClash s k o 8 then wait 1 s else advance (scratchWrite (.win k o) 8 (e + 65536 * e) s)) s) s)

/-- ARV (R204, R205): a release at its scope, then the arrival. -/
def execArv (c a b : Reg) (s : State) : Result :=
  let n := (reg s b).toNat
  .next (outsideBody (fun s =>
    if 65536 ≤ n then raiseScalar 1 s
    else onBarrier (pair s a) (fun k o s => fenceStep true false c.toNat (fun s =>
      let (b, s) := barrierRead k o s
      advance (scratchWrite (.win k o) 8 (arrive n b) s)) s) s) s)

/-- Whether a barrier wait is that of the instruction at the acting fragment's PC, at the barrier and with the parity that it names now. -/
def isMyWait (s : State) (va : DWord) (p : Bool) (w : BarrierWait) : Bool :=
  isMyLevel s w && w.pc == s.cord.frag.pc && w.parity == p && (match barrierPlace s va with
    | .ok (k, o) => w.barrier == k && w.off == o
    | .error _ => true)

/-- The end of a released WAITB: it acts as an acquire at its scope. -/
def waitbDone (scope : Nat) (s : State) : State := fenceStep false true scope (fun s => advance (dropWait s)) s

/-- WAITB (R204, R205): the bank holds it until a change of PHASE releases it. -/
def execWaitb (c a b : Reg) (s : State) : Result :=
  let p := (reg s b).getLsbD 0
  .next (outsideBody (fun s =>
    match s.bwaits.find? (isMyWait s (pair s a) p) with
    | some w => if w.released then waitbDone c.toNat s else wait 6 s
    | none =>
      onBarrier (pair s a) (fun k o s =>
        if scratchClash s k o 8 then wait 6 s
        else
          let (b, s) := barrierRead k o (dropWait s)
          let w : BarrierWait := { cord := s.cord.id, stand := s.cord.stand, frag := s.cord.frag.id, inHandler := s.cord.handlerFlag, pc := s.cord.frag.pc
                                   barrier := k, off := o, parity := p, released := b.testBit 32 != p }
          let s := { s with bwaits := s.bwaits ++ [w] }
          if w.released then waitbDone c.toNat s else wait 6 s) s) s)

/-- WPATH (R114). -/
def execWpath (n b : BitVec 6) (s : State) : Result :=
  .next (if (s.cord.paths.getD n.toNat 0).toNat ≤ (reg s b).toNat then advance s else wait 9 s)

/-- RNGW (R110): it reads TAIL and HEAD after the cord's older accesses to the control block (R122). -/
def execRngw (d a b : Reg) (s : State) : Result :=
  let j := (reg s a).toNat
  .next (
    match (if j ≤ 3 then findRing (clusterOf s (thisCluster s)) s.cord.stand j else none) with
    | none => raiseData 5 0 s
    | some r =>
      if olderClash s s.nextId { lane := 0, tgt := .ringCtl (thisCluster s) r.index 0, va := 0, at_ := none, size := 16 } then wait 10 s
      else if min (reg s b).toNat (ringSize r) ≤ ringCount r then result d (BitVec.ofNat 32 (ringCount r)) s else wait 10 s)

/-! ### Lots (R197, R198) -/

/-- LOT (R197). -/
def execLot (d : Reg) (s : State) : Result :=
  .next (outsideBody (fun s => result d (BitVec.ofNat 32 ((s.cord.lots + 1) % 256)) (setCord (fun c => { c with lots := c.lots + 1 }) s)) s)

/-- The earliest flagged lot among those a WLOT waits for (R198). -/
def flaggedLot (bs : List Batch) : Option Batch :=
  (bs.filter (fun b => b.fault.isSome)).foldl (fun (x : Option Batch) b => match x with
    | none => some b
    | some y => if b.n < y.n then some b else some y) none

/-- WLOT (R197, R198). -/
def execWlot (a : Reg) (s : State) : Result :=
  let c := s.cord.lots
  let back := (c + 256 - (reg s a).toNat % 256) % 256
  .next (outsideBody (fun s =>
    if 127 < back then raiseScalar 1 s
    else
      let mine := s.cord.batches.filter (fun b => decide (b.n + 1 + back ≤ c))
      if mine.any (fun b => b.left != 0) then wait 7 s
      else match flaggedLot (mine.filter (fun b => decide (c ≤ b.n + 1 + 127))) with
        | none => advance s
        | some b =>
          let (code, addr) := b.fault.getD (0, 0)
          raise { scalarFault s code .reissue with addr := addr, lot := some b.n } (advance s)) s)

end Sys2Proof.Machine
end

