-- ==== Sys2Proof/Machine/System.lean ====
section
/-! DEFINITION. Special registers, LQ, groves, and the cluster bank and log registers (02 R27; 05 R101 to R106; 08 R171; 15 R327, R328). -/

namespace Sys2Proof.Machine

/-! ### Special registers -/

/-- %txstatus of a fragment (R146). -/
def txStatus (f : Fragment) : Word :=
  let t := f.tx
  let b (v : Bool) (i : Nat) : Nat := if v then 2 ^ i else 0
  if t.lanes.isEmpty && !t.qarm && !t.lock then 0
  else
    BitVec.ofNat 32 (t.attempt % 16 * 2 ^ 20 + b t.qarm 18 + b t.lock 17 + b (!t.lanes.isEmpty) 16 +
      (t.lanes.filter (fun l => l.doomed.isSome)).length % 128 * 256 + t.lanes.length % 128)

/-- The trap record's registers 17 to 25 (R178). -/
def trapReg (t : TrapRec) (k : Nat) : Word := (trapWords t).getD k 0

/-- The registers that name a cord's place (R14, R328): 4 to 7. -/
def placeReg (f : Fabric) (c : CordId) (n : Nat) : Word :=
  match n with
  | 4 => BitVec.ofNat 32 (fieldNat c.core 0 2)
  | 5 => BitVec.ofNat 32 (fieldNat c.core 2 4)
  | 6 => BitVec.ofNat 32 (fieldNat c.core 6 2)
  | _ => f.num.setWidth 32

/-- A special register 0 to 29 as a cord reads it, but for the latch of %cycles.lo (R328). -/
def specialOf (f : Fabric) (c : Cord) (n : Nat) : Word :=
  match n with
  | 0 => DWord.lo c.work
  | 1 => DWord.hi c.work
  | 2 => BitVec.ofNat 32 c.index
  | 3 => BitVec.ofNat 32 c.ncords
  | 4 | 5 | 6 | 7 => placeReg f c.id n
  | 8 => DWord.lo c.cycles
  | 9 => c.frag.cyclesHi
  | 10 | 11 | 12 | 13 | 14 | 15 => (c.paths.getD (n - 10) 0).setWidth 32
  | 16 => BitVec.ofNat 32 (c.lots % 256)
  | 26 => DWord.lo c.uhandler
  | 27 => DWord.hi c.uhandler
  | 28 => txStatus c.frag
  | 29 => BitVec.ofNat 32 c.frag.arms.length
  | n => if 17 ≤ n ∧ n ≤ 25 then trapReg c.trap (n - 17) else 0

/-- A supervisor register of the handler's own core and cluster (R101, R171, R328). -/
def supervisorReg (s : State) (n : Nat) : Word :=
  match n with
  | 48 => (clusterOf s (thisCluster s)).bankmode
  | 49 => (clusterOf s (thisCluster s)).bankstat
  | 50 => fdlogValue (coreOf s (thisCore s))
  | _ => 0

/-- The state after an MFS of %cycles.lo: the high word is latched for the fragment (R328). -/
def readCycles (d : Reg) (s : State) : State :=
  result d (DWord.lo s.cord.cycles) (setFrag (fun f => { f with cyclesHi := DWord.hi s.cord.cycles }) s)

/-- MFS (R327, R328). -/
def execMfs (d r : BitVec 6) (s : State) : Result :=
  let n := r.toNat
  .next (
    if 30 ≤ n && decide (n < 48) then raiseScalar 1 s
    else if 48 ≤ n then (if s.cord.id.handler then result d (supervisorReg s n) s else raiseScalar 4 s)
    else if s.cord.id.handler then result d (if 4 ≤ n ∧ n ≤ 7 then placeReg s.fabric s.cord.id n else 0) s
    else if n = 8 then readCycles d s
    else result d (specialOf s.fabric s.cord n) s)

/-- CYCLES_LO_READ (R328). -/
def execCyclesLoRead (d : Reg) (s : State) : Result := .next (readCycles d s)

/-! ### Cluster banks (R101, R102) -/

/-- The mode field of bank k in a word. -/
def modeField (v : Word) (k : Nat) : Nat := fieldNat v (2 * k) 2
/-- A word with the mode field of bank k replaced. -/
def setModeField (v : Word) (k m : Nat) : Word :=
  (v &&& ~~~((3 : Word) <<< (2 * k))) ||| (BitVec.ofNat 32 m <<< (2 * k))

/-- Whether a window page or a ring that lies in bank k forbids a change (R102); the pages of ended stands of a persistent launch are held until its last stand has ended (R43). A pre-empted stand keeps its pages and rings (R60, R63), so pre-empting one does not free them, though
R102's last sentence names it beside ending (DESIGN CHOICE, log entry 63). -/
def bankHeld (s : State) (c : ClusterId) (k : Nat) : Bool :=
  (modeField (clusterOf s c).bankmode k == 1 && (s.stands.any (fun st => st.cluster == c && st.pages.any (fun b => b.toNat == k)) ||
      s.held.any (fun h => h.cluster == c && h.pages.any (fun b => b.toNat == k)))) ||
  (modeField (clusterOf s c).bankmode k == 2 && (clusterOf s c).rings.any (fun r => r.bank.toNat == k && !r.ended))

/-- The state after a change of bank k has been requested (R102). -/
def requestBank (c : ClusterId) (v : Word) (s : State) (k : Nat) : State :=
  let cl := clusterOf s c
  let m := modeField v k
  if m = 3 ∨ m = modeField cl.bankmode k then s
  else if bankBusy cl k || bankHeld s c k then setCluster s c (fun cl => { cl with bankstat := cl.bankstat ||| ((1 : Word) <<< (16 + k)) })
  else setCluster s c (fun cl => { cl with bankstat := cl.bankstat ||| ((1 : Word) <<< k), changing := cl.changing ++ [(BitVec.ofNat 4 k, BitVec.ofNat 2 m)] })

/-- The state after a write to %bankmode (R102). -/
def writeBankmode (c : ClusterId) (v : Word) (s : State) : State := (List.range 16).foldl (requestBank c v) s

/-- The state after a write to %bankstat: REFUSED bits are cleared by writing 1 (R101). -/
def writeBankstat (c : ClusterId) (v : Word) (s : State) : State :=
  setCluster s c (fun cl => { cl with bankstat := cl.bankstat &&& ~~~(v &&& 0xFFFF0000#32) })

/-- BANKMODE_WRITE (R102). -/
def execBankmodeWrite (c : ClusterId) (v : Word) (s : State) : Result := .next (writeBankmode c v s)
/-- BANKSTAT_WRITE (R101). -/
def execBankstatWrite (c : ClusterId) (v : Word) (s : State) : Result := .next (writeBankstat c v s)

/-- The lines that a way of the cluster cache holds (R103). -/
def bankLines (cl : Cluster) (bank : BitVec 4) : List CacheLine := cl.lines.filter (fun l => l.way == bank)

/-- BANK_MODE_CHANGE_COMPLETE (R102): a bank that leaves CACHE mode first writes back what it holds, and the change waits for that. -/
def execBankModeChangeComplete (c : ClusterId) (bank : BitVec 4) (s : State) : Result :=
  .next (
    match (clusterOf s c).changing.find? (fun x => x.1 == bank) with
    | none => s
    | some (_, m) =>
      let step := fun (p : Bool × State) (l : CacheLine) => match flushCopy c l.addr l.stack p.2 with
        | (some _, s') => (p.1, s')
        | (none, s') => (false, s')
      let (ok, s) := (bankLines (clusterOf s c) bank).foldl step (true, s)
      if !ok then s
      else setCluster s c (fun cl => { cl with changing := cl.changing.filter (fun x => x.1 != bank), badWays := cl.badWays.filter (fun x => x.1 != bank), loose := cl.loose.filter (fun x => x.1 != bank)
                                               bankmode := setModeField cl.bankmode bank.toNat m.toNat
                                               bankstat := cl.bankstat &&& ~~~((1 : Word) <<< bank.toNat) }))

/-! ### The log's release register (R171) -/

/-- The discarded entries of a log, oldest first. -/
def discardedLog (k : Core) : List LogEntry := sortList (fun a b => decide (a.seq ≤ b.seq)) (k.log.filter (fun e => e.discarded))

/-- The state after a write to %fdlrel (R171). -/
def writeFdlrel (c : CoreId) (v : Word) (s : State) : State :=
  ((discardedLog (coreOf s c)).take (v.toNat % 512)).foldl (fun s e => freeLog c e s) s

/-- FDLREL_WRITE (R171). -/
def execFdlrelWrite (c : CoreId) (v : Word) (s : State) : Result := .next (writeFdlrel c v s)

/-- The state after a supervisor register has been written (R101, R102, R171, R328). -/
def writeSupervisor (n : Nat) (v : Word) (s : State) : State :=
  match n with
  | 48 => writeBankmode (thisCluster s) v s
  | 49 => writeBankstat (thisCluster s) v s
  | 51 => writeFdlrel (thisCore s) v s
  | _ => s

/-- The cord after a special register 0 to 29 has been written, where it is writable (R328). -/
def writeSpecial (n : Nat) (v : Word) (c : Cord) : Cord :=
  match n with
  | 19 => if c.handlerFlag then { c with trap := { c.trap with resume := v } } else c
  | 26 => { c with uhandler := DWord.hi c.uhandler ++ v }
  | 27 => { c with uhandler := v ++ DWord.lo c.uhandler }
  | _ => c

/-- MTS (R327, R328). -/
def execMts (a r : BitVec 6) (s : State) : Result :=
  let n := r.toNat
  .next (
    if 30 ≤ n && decide (n < 48) then raiseScalar 1 s
    else if 48 ≤ n then (if s.cord.id.handler then advance (writeSupervisor n (reg s a) s) else raiseScalar 4 s)
    else if s.cord.id.handler then advance s
    else advance (setCord (writeSpecial n (reg s a)) s))

/-! ### LQ (R27, R325) -/

/-- LQ (R27, R325): the checks, the full queue, and the new block. -/
def execLq (a b : Reg) (s : State) : Result :=
  let first := (reg s a).toNat
  let count := (reg s b).toNat
  .next (
    if count = 0 ∨ 4096 < count then raiseScalar 1 s
    else if s.cord.lwords < first + count then raiseScalar 2 s
    else if 8 ≤ s.cord.frag.queue.length then wait 3 s
    else advance (setFrag (fun f => { f with queue := f.queue ++ [{ first := first, count := count, done := 0, ord := f.count }] }) s))

/-! ### Groves (R105, R106) -/

/-- Whether the cluster's grove table is performing a GLEAVE of another stand than the acting cord's. -/
def groveBusy (s : State) : Bool :=
  (clusterOf s (thisCluster s)).groves.any (fun g => g.leaving.any (fun k => k != s.cord.stand))

/-- The lowest free grove index (R105). -/
def freeIndex (g : Grove) : Nat := ((List.range 8).find? (fun i => !g.members.any (fun m => m.1 == i))).getD 0

/-- GJOIN's result and the state after it (R105). -/
def joinGrove (key : Word) (s : State) : Word × State :=
  let c := thisCluster s
  let me := s.cord.stand
  let p := s.cord.pasid
  match groveOf (clusterOf s c) me with
  | some (g, i) => (if g.key = key && g.pasid = p then BitVec.ofNat 32 i else 0xFFFFFFFE, s)
  | none =>
    match (clusterOf s c).groves.find? (fun g => g.key == key && g.pasid == p) with
    | none => (0, setCluster s c (fun cl => { cl with groves := cl.groves ++ [{ pasid := p, key := key, members := [(0, me)], leaving := [] }] }))
    | some g =>
      if 8 ≤ g.members.length then (0xFFFFFFFF, s)
      else
        let i := freeIndex g
        (BitVec.ofNat 32 i, setCluster s c (fun cl =>
          { cl with groves := modifyWhere (fun x => x.key == key && x.pasid == p) (fun x => { x with members := x.members ++ [(i, me)] }) cl.groves }))

/-- GJOIN (R105). -/
def execGjoin (d a : Reg) (s : State) : Result :=
  .next (outsideBody (fun s =>
    if (clusterOf s (thisCluster s)).groves.any (fun g => !g.leaving.isEmpty) then wait 1 s
    else let r := joinGrove (reg s a) s; result d r.1 r.2) s)

/-- GLEAVE (R106). -/
def execGleave (d : Reg) (s : State) : Result :=
  .next (outsideBody (fun s =>
    let c := thisCluster s
    let me := s.cord.stand
    if groveBusy s then wait 1 s
    else match groveOf (clusterOf s c) me with
      | none => result d 0xFFFFFFFF s
      | some _ =>
        let s := startLeave me c s
        if leaveWaits s me then wait 1 s else result d 0 (setCluster s c (leaveGrove me))) s)

end Sys2Proof.Machine
end

