-- ==== Sys2Proof/Machine/Placement.lean ====
section
/-! DEFINITION. The package dispatcher and the cluster scheduler: what fits where, reservations, placement, and the choice of stands to pre-empt (02 R22 to R24,
R40 to R43; 03 R44 to R51, R62; 05 R96, R100, R107). -/

namespace Sys2Proof.Machine

/-! ### Room (R23, R48, R50) -/

/-- What a cluster has left: per partition its cords, register bytes, tiles and whether it is unparked; free pages of each SCRATCH bank, free bytes of each FIFO bank,
free ring-table entries; whether contexts and reservations allow a stand (R48). -/
structure Room where
  parts : List (Nat × Nat × Nat × Bool)
  pages : List Nat
  fifo : List Nat
  rings : Nat
  allowed : Bool
  deriving DecidableEq, Repr

/-- What a stand of a launch needs. -/
structure Need where
  pasid : Pasid
  priority : Nat
  cords : Nat
  alloc : Nat
  tiles : Nat
  pages : Nat
  rings : List (Nat × Nat)
  stack : Nat
  deriving DecidableEq, Repr

/-- The bytes of a ring of 2^(c+4) records (R107). -/
def ringBytes (c : Nat) : Nat := 16 * 2 ^ (c + 4)

/-- The needs of a launch's stands; the rings are those declared, largest first. -/
def needOfRecord (q : Queue) (r : BitVec 1024) : Need :=
  let js := ((List.range 4).filter (fun j => (recRing r j).1 != 0)).map (fun j => (j, (recRing r j).2))
  { pasid := q.pasid, priority := q.priority, cords := recCords r, alloc := recAlloc r, tiles := recTiles r, pages := recPages r
    rings := sortList (fun a b => decide (b.2 ≤ a.2)) js, stack := recStack r }

/-- Whether a core holds the reservations that a stand needs (R100). -/
def coreReserved (n : Need) (k : Core) : Bool :=
  k.resv.any (fun r => r.kind == 2) && k.resv.any (fun r => r.kind == 0 && r.pasid == n.pasid) &&
    (n.stack == 0 || k.resv.any (fun r => r.kind == 1 && r.pasid == n.pasid && decide (n.stack ≤ r.stackMax)))

/-- The cores of a cluster. -/
def clusterCores (c : ClusterId) : List CoreId := (List.range 4).map (fun i => c ++ BitVec.ofNat 2 i)
/-- The clusters of a die. -/
def dieClusters (d : DieId) : List ClusterId := (List.range 16).map (fun i => d ++ BitVec.ofNat 4 i)

/-- The pages and rings that a cluster's windows leave free, or all of those its bank modes give. -/
def bankRoom (s : State) (c : ClusterId) (empty : Bool) : List Nat × List Nat × Nat :=
  let cl := clusterOf s c
  let mine := s.stands.filter (fun st => st.cluster == c && !empty)
  let rings := cl.rings.filter (fun r => !r.ended && !empty)
  let pages := mine.flatMap (fun st => st.pages) ++ (s.held.filter (fun h => h.cluster == c && !empty)).flatMap (fun h => h.pages)
  let usable (m k : Nat) : Bool := bankMode cl k == m && (empty || !bankBusy cl k)
  ((List.range 16).map (fun k => if usable 1 k then 64 - pages.countP (fun b => b.toNat == k) else 0),
   (List.range 16).map (fun k => if usable 2 k then 262144 - rings.foldl (fun a r => if r.bank.toNat = k then a + ringBytes r.c else a) 0 else 0),
   64 - rings.length)

/-- The room of a cluster that holds nothing (R23, R48). -/
def emptyRoom (s : State) (n : Need) (c : ClusterId) : Room :=
  let (pages, fifo, rings) := bankRoom s c true
  { parts := List.replicate 16 (0, 0, 0, true), pages := pages, fifo := fifo, rings := rings
    allowed := (clusterCores c).all (fun k => coreReserved n (coreOf s k)) }

/-- The phase of a cord's stand. -/
def phaseOf (s : State) (c : Cord) : Nat := match findStand s c.stand with
  | some st => st.phase
  | none => 0

/-- The cords that hold slots of a core: the resident ones, and those that stream back (R63). -/
def slotCords (s : State) (k : CoreId) : List Cord :=
  (allCords s).filter (fun c => c.id.core == k && !c.id.handler) ++
    ((coreOf s k).saved.flatMap (fun v => v.cords)).filter (fun c => phaseOf s c == 2)

/-- The slots of a core that ended cords of persistent launches hold, with their registers and tiles (R43). -/
def heldSlots (s : State) (k : CoreId) : List (CordId × Nat × Nat) := s.held.flatMap (fun h => h.slots.filter (fun x => x.1.core == k))

/-- What a partition has in use, without the cords of some stands (R23, R40, R43). A tile of an ended cord counts once. -/
def partUse (s : State) (gone : List StandKey) (p : PartId) : Nat × Nat × Nat × Bool :=
  let cs := ((slotCords s p.core).filter (fun c => c.id.part == p && !gone.contains c.stand)).map (fun c => (c.id, c.alloc, c.tiles)) ++
    (heldSlots s p.core).filter (fun h => h.1.part == p)
  let x := partOf s p
  let dead := x.dead.filter (fun d => !s.held.any (fun h => h.key == d.stand))
  (cs.length, cs.foldl (fun a c => a + 384 * c.2.1) 0, cs.foldl (fun a c => a + c.2.2) 0 + dead.foldl (fun a d => a + d.tiles) 0, !x.parking)

/-- Whether a queue is suspended (R62). -/
def suspended (s : State) (q : QueueNo) : Bool := match findQueue s q with
  | some x => x.suspended
  | none => false

/-- Whether a pre-empted stand that is to resume on a cluster goes before a new stand of a priority (R63). -/
def resumesFirst (s : State) (c : ClusterId) (priority : Nat) : Bool :=
  s.stands.any (fun st => st.cluster == c && st.phase != 0 && decide (priority ≤ st.priority) && !suspended s st.key.queue)

/-- Whether a core has a context of a PASID or a free context slot, without the cords of some stands (R48, R58). -/
def contextRoom (s : State) (gone : List StandKey) (p : Pasid) (k : CoreId) : Bool :=
  let ps := (((slotCords s k).filter (fun c => !gone.contains c.stand)).map (fun c => c.pasid)).eraseDups
  ps.contains p || decide (ps.length < 3)

/-- The room of a cluster as it stands, without the cords of some stands. -/
def roomOf (s : State) (gone : List StandKey) (n : Need) (c : ClusterId) : Room :=
  let (pages, fifo, rings) := bankRoom s c false
  { parts := (List.range 16).map (fun i => partUse s gone (c ++ BitVec.ofNat 4 i)), pages := pages, fifo := fifo, rings := rings
    allowed := !resumesFirst s c n.priority && (clusterCores c).all (fun k => coreReserved n (coreOf s k) && contextRoom s gone n.pasid k) }

/-- The free cord slots of a cluster's unparked partitions. -/
def freeSlots (r : Room) : Nat := r.parts.foldl (fun a p => if p.2.2.2 then a + (16 - p.1) else a) 0

/-- Whether a partition takes one more cord (R23, R265). -/
def partTakes (n : Need) (p : Nat × Nat × Nat × Bool) : Bool :=
  p.2.2.2 && decide (p.1 < 16) && decide (p.2.1 + 384 * n.alloc ≤ 262144) && decide (p.2.2.1 + n.tiles ≤ 16)

/-- The partition, 4 x core + partition, that takes the next cord (R50): the one with the most free slots, the lowest among equals. -/
def bestPart (n : Need) (ps : List (Nat × Nat × Nat × Bool)) : Option Nat :=
  (ps.zipIdx.filter (fun p => partTakes n p.1)).foldl (fun (b : Option (Nat × Nat)) p => match b with
    | some x => if p.1.1 < x.1 then some (p.1.1, p.2) else some x
    | none => some (p.1.1, p.2)) none |>.map (fun x => x.2)

/-- The partitions of k cords in ascending cord index, and what is left (R50). -/
def assignCords (n : Need) : Nat → List (Nat × Nat × Nat × Bool) → Option (List Nat × List (Nat × Nat × Nat × Bool))
  | 0, ps => some ([], ps)
  | k + 1, ps =>
    match bestPart n ps with
    | none => none
    | some i =>
      match assignCords n k (ps.modify i (fun p => (p.1 + 1, p.2.1 + 384 * n.alloc, p.2.2.1 + n.tiles, p.2.2.2))) with
      | none => none
      | some (is, ps) => some (i :: is, ps)

/-- The banks of the pages of a window, from banks in a given order (R96), and the pages left. -/
def takePages (want : Nat) : List Nat → List Nat → Option (List Nat × List Nat)
  | [], ps => if want = 0 then some ([], ps) else none
  | k :: ks, ps =>
    let t := min want (ps.getD k 0)
    match takePages (want - t) ks (ps.set k (ps.getD k 0 - t)) with
    | none => none
    | some (bs, ps) => some (List.replicate t k ++ bs, ps)

/-- The bank for a ring of some bytes: the FIFO bank with the least room that has enough (R107). -/
def ringBank (bytes : Nat) (fs : List Nat) : Option Nat :=
  (fs.zipIdx.filter (fun f => decide (bytes ≤ f.1))).foldl (fun (b : Option (Nat × Nat)) f => match b with
    | some x => if f.1 < x.1 then some f else some x
    | none => some f) none |>.map (fun x => x.2)

/-- The banks of a stand's rings, and the bytes left. -/
def takeRings : List (Nat × Nat) → List Nat → Option (List (Nat × Nat × Nat) × List Nat)
  | [], fs => some ([], fs)
  | (j, c) :: rs, fs =>
    match ringBank (ringBytes c) fs with
    | none => none
    | some k => match takeRings rs (fs.modify k (fun f => f - ringBytes c)) with
      | none => none
      | some (bs, fs) => some ((j, c, k) :: bs, fs)

/-- Where a stand goes in a cluster: the partition of each cord, the bank of each page, and each ring with its c and bank. -/
structure Fit where
  parts : List Nat
  pages : List Nat
  rings : List (Nat × Nat × Nat)
  deriving DecidableEq, Repr

/-- The fit of a stand in a room, taking pages from the banks in a given order (R48). -/
def fitRoom (order : List Nat) (n : Need) (r : Room) : Option (Fit × Room) :=
  if !r.allowed || decide (r.rings < n.rings.length) then none
  else match assignCords n n.cords r.parts, takePages n.pages order r.pages, takeRings n.rings r.fifo with
    | some (is, ps), some (bs, pages), some (rs, fifo) =>
      some ({ parts := is, pages := bs, rings := rs }, { r with parts := ps, pages := pages, fifo := fifo, rings := r.rings - n.rings.length })
    | _, _, _ => none

/-- The cluster of a die that takes the next stand: the one with the most free slots at which it fits, the lowest among equals (R48). -/
def bestCluster (order : List Nat) (n : Need) (rs : List Room) : Option (Nat × Fit × Room) :=
  rs.zipIdx.foldl (fun (b : Option (Nat × Fit × Room)) r =>
    let better := match b with
      | some (i, _, _) => decide (((rs[i]?).map freeSlots).getD 0 < freeSlots r.1)
      | none => true
    if !better then b
    else match fitRoom order n r.1 with
      | some (f, r') => some (r.2, f, r')
      | none => b) none

/-- Where the stands of a gang go on a die, in ascending order, and the rooms left; none when they do not all fit. -/
def fitStands (order : List Nat) (n : Need) : Nat → List Room → Option (List (Nat × Fit) × List Room)
  | 0, rs => some ([], rs)
  | k + 1, rs =>
    match bestCluster order n rs with
    | none => none
    | some (i, f, r) => match fitStands order n k (rs.set i r) with
      | none => none
      | some (xs, rs) => some ((i, f) :: xs, rs)

/-- Where a gang of a number of stands goes on a die; a die has 4,096 cord slots. -/
def fitDie (order : List Nat) (n : Need) (stands : Nat) (rs : List Room) : Option (List (Nat × Fit) × List Room) :=
  if 4096 < stands then none else fitStands order n stands rs

/-- The banks in ascending order. -/
def allBanks : List Nat := List.range 16

/-- Where gangs of equal size go, one after another, each on the lowest die on which it fits (R48). -/
def fitGangs (n : Need) (stands : Nat) : Nat → List (List Room) → Option (List (Nat × List (Nat × Fit)))
  | 0, _ => some []
  | k + 1, ds =>
    match ds.zipIdx.findSome? (fun d => (fitDie allBanks n stands d.1).map (fun x => (d.2, x))) with
    | none => none
    | some (i, f, rs) => (fitGangs n stands k (ds.set i rs)).map (fun xs => (i, f) :: xs)

/-- Where all the gangs of a whole-resident or persistent launch go; a package has 16,384 cord slots. -/
def fitWhole (n : Need) (r : BitVec 1024) (ds : List (List Room)) : Option (List (Nat × List (Nat × Fit))) :=
  if 16384 < gangCount r then none else fitGangs n (recExtent r 1) (gangCount r) ds

/-- The rooms of every die, empty. -/
def emptyRooms (s : State) (n : Need) : List (List Room) := allDies.map (fun d => (dieClusters d).map (emptyRoom s n))
/-- The rooms of every die, without the cords of some stands. -/
def roomsOf (s : State) (gone : List StandKey) (n : Need) : List (List Room) := allDies.map (fun d => (dieClusters d).map (roomOf s gone n))

/-- The priority of a queue. -/
def queuePriority (s : State) (q : QueueNo) : Nat := match findQueue s q with
  | some x => x.priority
  | none => 0

/-- Whether a die is reserved for another gang at a priority or above. -/
def dieHeld (s : State) (l : Launch) (priority : Nat) (d : DieId) : Bool := match (dieOf s d).reserved with
  | some (q, n, g) => !(q == l.queue && n == l.seq && g == l.nextGang) && decide (priority ≤ queuePriority s q)
  | none => false

/-- The rooms of every die for a launch that is placed at once, without the cords of some stands: nothing fits on a die held for another gang (R49). -/
def openRooms (s : State) (l : Launch) (gone : List StandKey) (n : Need) : List (List Room) :=
  (roomsOf s gone n).zipIdx.map (fun d => if dieHeld s l n.priority (BitVec.ofNat 2 d.2) then d.1.map (fun r => { r with allowed := false }) else d.1)

/-- Whether a launch can be placed at all (R48, R260). -/
def fitsEmpty (s : State) (q : Queue) (r : BitVec 1024) : Bool :=
  let n := needOfRecord q r
  let ds := emptyRooms s n
  if recTogether r then (fitWhole n r ds).isSome else ds.any (fun d => (fitDie allBanks n (recExtent r 1) d).isSome)

/-! ### Placing a stand (R22, R45, R50, R96, R107) -/

/-- The lanes that cord i of a launch's stands has (R22). -/
def cordLanes (r : BitVec 1024) (i : Nat) : Mask := BitVec.ofNat 96 (2 ^ min 96 (recExtent r 0 - 96 * i) - 1)

/-- The lowest free cord slot of a partition (R50). -/
def freeSlot (s : State) (p : PartId) : Nat :=
  let taken := (slotCords s p.core).map (fun c => c.id.slot) ++ (heldSlots s p.core).map (fun h => h.1.slot)
  ((List.range 16).find? (fun i => !taken.contains (p.extractLsb' 0 2 ++ BitVec.ofNat 4 i))).getD 0

/-- A new cord at its slot (R22, R259): its registers, its place in the launch, and its root fragment at the entry. -/
def newCord (l : Launch) (pasid : Pasid) (key : StandKey) (i : Nat) (id : CordId) : Cord :=
  let r := l.record
  let m := cordLanes r i
  let args : DWord := BitVec.ofNat 64 (recField r 56 8)
  let bank := (zeroBank.set 2 (DWord.lo args)).set 3 (DWord.hi args)
  let f : Fragment := { Fragment.blank with pc := BitVec.ofNat 32 (recField r 44 4), mask := m, owned := m }
  { Cord.blank with
    id := id, mode := .running, queue := l.queue, seq := l.seq, order := l.order.getD 0, pasid := pasid, stand := key
    work := BitVec.ofNat 64 (key.num * 2 ^ recWidth r 0), index := i, ncords := recCords r, alloc := recAlloc r, tiles := recTiles r
    stackSize := recStack r, text := BitVec.ofNat 64 (recField r 24 8), ltext := BitVec.ofNat 64 (recField r 32 8), lwords := recField r 40 4
    bank0 := bank, frag := f, uhandler := BitVec.ofNat 64 (recField r 48 8) }

/-- The state with a context of a PASID on a core (R58); a core on which no context is resident makes it the active one. Where others are resident and none is active, the choice
is that of R59. -/
def addContext (p : Pasid) (k : CoreId) (s : State) : State :=
  setCore s k (fun x =>
    let alone := x.active.isNone && x.ctxs.all (fun c => c.pasid == p)
    { x with ctxs := if x.ctxs.any (fun c => c.pasid == p) then x.ctxs else x.ctxs ++ [{ pasid := p, inactive := x.clock.toNat, eligible := false }]
             active := if alone then some p else x.active
             quantumLeft := if alone then (if s.mgmt.quantum = 0 then 0 else 2 ^ s.mgmt.quantum) else x.quantumLeft })

/-- The state with one cord placed. -/
def placeCord (l : Launch) (pasid : Pasid) (key : StandKey) (c : ClusterId) (s : State) (i : Nat × Nat) : State :=
  let p : PartId := c ++ BitVec.ofNat 4 i.1
  let id : CordId := { core := p.core, slot := p.extractLsb' 0 2 ++ BitVec.ofNat 4 (freeSlot s p), handler := false }
  addContext pasid p.core { s with cords := s.cords ++ [newCord l pasid key i.2 id] }

/-- The lowest ring-table index not in use. -/
def freeRing (cl : Cluster) : BitVec 6 :=
  BitVec.ofNat 6 (((List.range 64).find? (fun i => !cl.rings.any (fun r => r.index.toNat == i && !r.ended))).getD 0)

/-- A cluster in which a new window or ring may lie on runs that are marked failed. Where in a bank its pages or its records lie is not stated and shows in nothing else (R96), so that a free
choice says for each mark of its banks which of the places, if any, has it (R173; log entry 33). -/
def layOver (t : Nat) (places : BitVec 4 × Nat → List Nat) (k : Cluster → Nat → Cluster) (cl : Cluster) : Cluster :=
  cl.loose.zipIdx.foldl (fun cl x =>
    let ps := places x.1
    match ps[Config.pick (t + x.2) % (ps.length + 1)]? with
    | some i => k { cl with loose := cl.loose.erase x.1 } i
    | none => cl) cl

/-- The state with the marks under a new window given to its runs. -/
def layWindow (key : StandKey) (c : ClusterId) (pages : List (BitVec 4)) (s : State) : State :=
  let n := (clusterOf s c).loose.length
  let places := fun (x : BitVec 4 × Nat) => ((List.range pages.length).filter (fun i => pages.getD i 0 == x.1)).map (fun i => 32 * i + x.2)
  setCluster { s with tick := s.tick + n } c (layOver s.tick places (fun cl i => { cl with failed := cl.failed ++ [(key, i)] }))

/-- The state with the marks under a new ring given to its runs. -/
def layRing (c : ClusterId) (i : BitVec 6) (bank : BitVec 4) (runs : Nat) (s : State) : State :=
  let n := (clusterOf s c).loose.length
  let places := fun (x : BitVec 4 × Nat) => if x.1 = bank then List.range runs else []
  setCluster { s with tick := s.tick + n } c (layOver s.tick places (fun cl j =>
    { cl with rings := modifyWhere (fun r => r.index == i && !r.ended) (fun r => { r with failed := r.failed ++ [j] }) cl.rings }))

/-- The state with a ring allocated (R107, R108). -/
def placeRing (r : BitVec 1024) (pasid : Pasid) (key : StandKey) (c : ClusterId) (s : State) (x : Nat × Nat × Nat) : State :=
  let i := freeRing (clusterOf s c)
  layRing c i (BitVec.ofNat 4 x.2.2) (2 ^ (x.2.1 + 1)) (setCluster s c (fun cl =>
    let ring : Ring := { index := i, stand := key, pasid := pasid, j := x.1, kind := (recRing r x.1).1, c := x.2.1, bank := BitVec.ofNat 4 x.2.2
                         head := 0, tail := 0, recs := [], failed := [], ended := false }
    { cl with rings := cl.rings.filter (fun y => y.index != i) ++ [ring] }))

/-- The state with a stand placed on a cluster: its zeroed window, its rings, its cords, and an acquire at package scope (R45, R46). -/
def placeStand (l : Launch) (n : Need) (gang f : Nat) (c : ClusterId) (fit : Fit) (s : State) : State :=
  let key : StandKey := { queue := l.queue, seq := l.seq, num := standNumber l.record gang f }
  let st : Stand := { key := key, pasid := n.pasid, priority := n.priority, order := l.order.getD 0, cluster := c, gang := gang, window := []
                      size := 4096 * n.pages, pages := fit.pages.map (fun k => BitVec.ofNat 4 k), cordsLeft := n.cords, phase := 0, together := [] }
  let s := layWindow key c st.pages (dropReach c 3 { s with stands := s.stands ++ [st] })
  let s := fit.rings.foldl (placeRing l.record n.pasid key c) s
  fit.parts.zipIdx.foldl (placeCord l n.pasid key c) s

/-- The state with a launch's placement order given, when it begins placement (R51). -/
def beginLaunch (l : Launch) (s : State) : Launch × State :=
  match l.order with
  | some _ => (l, s)
  | none =>
    let l := { l with order := some s.disp.nextOrder }
    (l, setLaunch l.queue l.seq (fun _ => l) { s with disp := { s.disp with nextOrder := s.disp.nextOrder + 1 } })

/-- The state with the next gang of a launch placed on a die. -/
def placeGang (l : Launch) (n : Need) (d : Nat) (xs : List (Nat × Fit)) (s : State) : State :=
  let (l, s) := beginLaunch l s
  let die : DieId := BitVec.ofNat 2 d
  let g := gangNumber l.record l.nextGang
  let s := xs.zipIdx.foldl (fun s x => placeStand l n g x.2 (die ++ BitVec.ofNat 4 x.1.1) x.1.2 s) s
  let mine := fun (r : QueueNo × Nat × Nat) => r == (l.queue, l.seq, l.nextGang)
  let s := { s with dies := s.dies.map (fun x => { x with reserved := x.reserved.filter (fun r => !mine r) }) }
  setLaunch l.queue l.seq (fun l => { l with nextGang := l.nextGang + 1, placed := l.placed + xs.length }) s

/-! ### Which launch is next (R44, R45, R62) -/

/-- Whether a launch may have a gang placed now: its queue's order and its dependences allow it. -/
def launchReady (s : State) (l : Launch) : Bool :=
  let earlier := s.launches.filter (fun x => x.queue == l.queue && decide (x.seq < l.seq))
  !l.done && l.outcome.isNone && !l.depFailed && decide (l.nextGang < gangCount l.record) &&
  (l.order.isSome || (earlier.all (fun x => x.order.isSome || x.done) && (!recFlag l.record 0 || earlier.all (fun x => x.written)))) &&
  (recDeps l.record).all (depSatisfied s l l.nextGang)

/-- The launch of a queue whose gang is placed next: its earliest ready one. R44 and R45 do not say which of several ready launches of one queue is next, nor whether a later one is
tried while that one cannot be placed: DESIGN CHOICE, log entry 55. -/
def nextLaunch (s : State) (q : Queue) : Option Launch :=
  if q.suspended || q.destroying.isSome then none
  else (s.launches.filter (fun l => l.queue == q.num && launchReady s l)).foldl (fun (b : Option Launch) l => match b with
    | some x => if l.seq < x.seq then some l else some x
    | none => some l) none

/-- The user queues in the order in which the dispatcher serves them: by priority, and round-robin by number from the one served last (R44). -/
def servingOrder (s : State) : List Queue :=
  (List.range 16).reverse.flatMap (fun p =>
    let qs := sortList (fun a b => decide (a.num ≤ b.num)) (s.queues.filter (fun q => q.live && q.num != 0 && q.priority == p))
    match s.disp.served.find? (fun x => x.1 == p) with
    | some (_, last) => qs.filter (fun q => decide (last < q.num)) ++ qs.filter (fun q => decide (q.num ≤ last))
    | none => qs)

/-- The state with a queue served last at its priority. -/
def markServed (q : Queue) (s : State) : State :=
  { s with disp := { s.disp with served := (q.priority, q.num) :: s.disp.served.filter (fun x => x.1 != q.priority) } }

/-! ### Reservations (R49) -/

/-- Whether a launch other than the one named has the package reserved at a priority or above. -/
def packageHeld (s : State) (l : Launch) (priority : Nat) : Bool := match s.disp.reserved with
  | some (q, n) => !(q == l.queue && n == l.seq) && decide (priority ≤ queuePriority s q)
  | none => false

/-- The die that a gang has reserved. -/
def gangDie (s : State) (l : Launch) : Option DieId := allDies.find? (fun d => (dieOf s d).reserved == some (l.queue, l.seq, l.nextGang))

/-- The free cord slots of a die. -/
def dieFree (rs : List Room) : Nat := rs.foldl (fun a r => a + freeSlots r) 0

/-- The die that a gang which fits nowhere reserves: the one with the most free slots among those not passed over. -/
def dieToReserve (s : State) (l : Launch) (n : Need) : Option DieId :=
  if packageHeld s l n.priority then none
  else ((roomsOf s [] n).zipIdx.filter (fun d => !dieHeld s l n.priority (BitVec.ofNat 2 d.2))).foldl (fun (b : Option (Nat × Nat)) d => match b with
    | some x => if x.1 < dieFree d.1 then some (dieFree d.1, d.2) else some x
    | none => some (dieFree d.1, d.2)) none |>.map (fun x => BitVec.ofNat 2 x.2)

/-! ### Pre-emption by the dispatcher (R62) -/

/-- The stands that stream out with a stand: those of its gang, or of its whole-resident or persistent launch. -/
def coResident (s : State) (k : Stand) : List StandKey :=
  let whole := match findLaunch s k.key.queue k.key.seq with
    | some l => recTogether l.record
    | none => false
  (s.stands.filter (fun x => ofLaunch k.key.queue k.key.seq x.key && (whole || x.gang == k.gang))).map (fun x => x.key)

/-- Whether a stand has a cord on a stopped partition, which is not pre-empted (R269). -/
def standStopped (s : State) (k : StandKey) : Bool := (allCords s).any (fun c => c.stand == k && !c.id.handler && (partOf s c.id.part).stopped)

/-- The state with stands pre-empted: they stream out together (R62). -/
def preempt (ks : List StandKey) (s : State) : State :=
  { s with stands := modifyWhere (fun x => ks.contains x.key && x.phase == 0) (fun x => { x with phase := 1, together := ks }) s.stands }

/-- The stands of strictly lower priority on some dies, lowest priority first, then youngest (R62). -/
def victims (s : State) (priority : Nat) (ds : List DieId) : List Stand :=
  sortList
    (fun a b => decide (a.priority < b.priority) || (a.priority == b.priority && (decide (b.order < a.order) || (a.order == b.order && decide (b.key.num ≤ a.key.num)))))
    (s.stands.filter (fun x => x.phase == 0 && decide (x.priority < priority) && ds.contains x.cluster.die && (coResident s x).all (fun k => !standStopped s k)))

/-- The stands to pre-empt, taken in order until a test holds; none when it never does. -/
def chooseVictims (s : State) (fits : List StandKey → Bool) : List StandKey → List Stand → Option (List StandKey)
  | gone, [] => if fits gone then some gone else none
  | gone, v :: vs => if fits gone then some gone else chooseVictims s fits (gone ++ (coResident s v).filter (fun k => !gone.contains k)) vs

/-- The state after victims have been chosen for a gang, or for a whole launch, on the dies it needs; none when nothing changes. -/
def preemptFor (priority : Nat) (ds : List DieId) (fits : List StandKey → Bool) (s : State) : Option State :=
  let leaving := (s.stands.filter (fun x => x.phase == 1)).map (fun x => x.key)
  match chooseVictims s fits leaving (victims s priority ds) with
  | none => none
  | some gone =>
    let new := gone.filter (fun k => !leaving.contains k)
    if new.isEmpty then none else some (new.foldl (fun s k => match findStand s k with
      | some st => if st.phase = 0 then preempt (coResident s st) s else s
      | none => s) s)

/-! ### GANG_PLACEMENT (R48, R49) -/

/-- The banks in ascending order from one that a free choice names (R96: pages may lie in any banks; log entry 2). -/
def bankOrder (t : Nat) : List Nat := (List.range 16).map (fun i => (i + Config.pick t) % 16)

/-- The state after the dispatcher has tried the next gang of a launch: placed, or a die reserved, or stands pre-empted for it; none when nothing changes. A gang that holds a
reserved die goes on the lowest open die on which it comes to fit, which R49 does not say: DESIGN CHOICE, log entry 56. A launch that has reserved the package keeps that when a gang of a
higher priority reserves one of its dies: R49 takes away a die's reservation and says nothing of a package's (DESIGN CHOICE, log entry 69). -/
def tryGang (q : Queue) (l : Launch) (s : State) : Option State :=
  let n := needOfRecord q l.record
  let e1 := recExtent l.record 1
  let open_ := fun (d : Nat) => !packageHeld s l n.priority && !dieHeld s l n.priority (BitVec.ofNat 2 d)
  let (t, s') := draw s
  match ((roomsOf s [] n).zipIdx.filter (fun d => open_ d.2)).findSome? (fun d => (fitDie (bankOrder t) n e1 d.1).map (fun x => (d.2, x.1))) with
  | some (d, xs) => some (markServed q (placeGang l n d xs s'))
  | none =>
    match gangDie s l with
    | some d => preemptFor n.priority [d] (fun gone => (fitDie allBanks n e1 ((dieClusters d).map (roomOf s gone n))).isSome) s
    | none => (dieToReserve s l n).map (fun d => setDie s d (fun x => { x with reserved := some (l.queue, l.seq, l.nextGang) }))

/-- The state with every gang of a launch placed. -/
def placeAll (l : Launch) (n : Need) (xs : List (Nat × List (Nat × Fit))) (s : State) : State :=
  let s := xs.foldl (fun s x => match findLaunch s l.queue l.seq with
    | some l => placeGang l n x.1 x.2 s
    | none => s) s
  unreserve l.queue l.seq s

/-- The state after the dispatcher has tried a whole-resident or persistent launch (R42, R43, R49): its stands go on the dies that no gang of its priority or
above has reserved, and it reserves the package when no die is so reserved. -/
def tryWhole (q : Queue) (l : Launch) (s : State) : Option State :=
  let n := needOfRecord q l.record
  let held := packageHeld s l n.priority
  match (if held then none else fitWhole n l.record (openRooms s l [] n)) with
  | some xs => some (markServed q (placeAll l n xs s))
  | none =>
    if held then none
    else if s.disp.reserved = some (l.queue, l.seq) then
      preemptFor n.priority (allDies.filter (fun d => !dieHeld s l n.priority d)) (fun gone => (fitWhole n l.record (openRooms s l gone n)).isSome) s
    else if allDies.any (dieHeld s l n.priority) then none
    else some { s with dies := s.dies.map (fun x => { x with reserved := none }), disp := { s.disp with reserved := some (l.queue, l.seq) } }

/-- The state after the dispatcher's next action over queues in its serving order. -/
def dispatch : List Queue → State → State
  | [], s => s
  | q :: qs, s =>
    match nextLaunch s q with
    | none => dispatch qs s
    | some l => match (if recTogether l.record then tryWhole q l s else tryGang q l s) with
      | some s' => s'
      | none => dispatch qs s

/-- GANG_PLACEMENT (R48 to R50). -/
def execGangPlacement (s : State) : Result := .next (dispatch (servingOrder s) s)

end Sys2Proof.Machine
end

