-- ==== Sys2Proof/Machine/Contexts.lean ====
section
/-! DEFINITION. The issue rotation, the choice of the active context, and streaming contexts and stands out and in (03 R51, R52, R58 to R63; 05 R100). -/

namespace Sys2Proof.Machine

/-! ### The age ring of a partition (R51, R52) -/

/-- The age of a cord: placement order, stand number, cord index (R51). -/
def ageOf (c : Cord) : Nat × Nat × Nat := (c.order, c.stand.num, c.index)
/-- Whether an age is older than, or equal to, another. -/
def ageLe (a b : Nat × Nat × Nat) : Bool :=
  decide (a.1 < b.1) || (a.1 == b.1 && (decide (a.2.1 < b.2.1) || (a.2.1 == b.2.1 && decide (a.2.2 ≤ b.2.2))))

/-- The cords of a partition's ring, oldest first: the resident cords of the active context (R51). -/
def partitionRing (s : State) (p : PartId) : List Cord :=
  match (coreOf s p.core).active with
  | none => []
  | some a => sortList (fun x y => ageLe (ageOf x) (ageOf y)) ((allCords s).filter (fun c => c.id.part == p && !c.id.handler && c.pasid == a))

/-- A ring as the rotation offset turns it: from the cord at rot, or the next younger one (R52). -/
def rotated (rot : Option (Nat × Nat × Nat)) (cs : List Cord) : List Cord :=
  match rot with
  | none => cs
  | some k =>
    let young := cs.filter (fun c => ageLe k (ageOf c))
    if young.isEmpty then cs else young ++ cs.filter (fun c => !ageLe k (ageOf c))

/-- A partition whose rot points at a cord of its ring (R52): when the cord that it named has left, at the next younger one, with its streak cleared. -/
def pointRot (ring : List Cord) (x : Partition) : Partition :=
  if x.rot.any (fun k => ring.any (fun c => ageOf c == k)) then x
  else { x with rot := (rotated x.rot ring).head?.map ageOf, streak := 0, streakAt := none }

/-- The state with the rot of some partitions pointed at cords of their rings, as cords join and leave them (R52). -/
def pointRots (ps : List PartId) (s : State) : State := ps.foldl (fun s p => setPart s p (pointRot (partitionRing s p))) s

/-- ROTATION_STREAK (R52): after 64 clocks in which the cord at rot issued, rot moves to the next one. -/
def execRotationStreak (p : PartId) (s : State) : Result :=
  .next (if (partOf s p).streak < 64 then s
    else
      let next := ((rotated (partOf s p).rot (partitionRing s p)).drop 1).head?
      let to_ (old : Option (Nat × Nat × Nat)) : Option (Nat × Nat × Nat) := match next with
        | some c => some (ageOf c)
        | none => old
      setPart s p (fun x => { x with rot := to_ x.rot, streak := 0, streakAt := none }))

/-- The state after the cord at a partition's rot has issued, or another one: a clock in which it issues counts once, and a cord that has left the ring clears the
count (R52). -/
def countStreak (p : PartId) (c : Cord) (s : State) : State :=
  match (rotated (partOf s p).rot (partitionRing s p)).head? with
  | none => s
  | some h =>
    let now := (coreOf s p.core).clock
    let same := (partOf s p).rot == some (ageOf h)
    let streak := if same then (partOf s p).streak else 0
    let counts := h.id == c.id && !(same && (partOf s p).streakAt == some now)
    setPart s p (fun x => { x with rot := some (ageOf h), streak := if counts then streak + 1 else streak, streakAt := if counts then some now else x.streakAt })

/-! ### The active context (R58, R59) -/

/-- The priority of a context of a core (R59). -/
def contextPriority (s : State) (k : CoreId) (p : Pasid) : Nat :=
  ((allCords s).filter (fun c => c.id.core == k && !c.id.handler && c.pasid == p)).foldl (fun a c => match findStand s c.stand with
    | some st => max a st.priority
    | none => a) 0

/-- The context that a core takes among some: the highest priority, then the one that has been inactive longest (R59). -/
def bestContext (s : State) (k : CoreId) (cs : List Ctx) : Option Ctx :=
  cs.foldl (fun (b : Option Ctx) c => match b with
    | none => some c
    | some x =>
      let pc := contextPriority s k c.pasid
      let px := contextPriority s k x.pasid
      if px < pc || (px == pc && decide (c.inactive < x.inactive)) then some c else some x) none

/-- The state with a core's other context made the active one: cords hold their state in place (R59). When the quantum starts to run is not said: it starts anew each time a
context becomes active, and one that has run out stays so until a switch (DESIGN CHOICE, log entry 58). -/
def switchTo (k : CoreId) (p : Pasid) (s : State) : State :=
  let s := setCore s k (fun x =>
    let now := x.clock.toNat
    { x with ctxs := modifyWhere (fun c => some c.pasid == x.active) (fun c => { c with inactive := now }) x.ctxs
             active := some p, idle := 0, quantumLeft := if s.mgmt.quantum = 0 then 0 else 2 ^ s.mgmt.quantum })
  (List.range 4).foldl (fun s i => setPart s (k ++ BitVec.ofNat 2 i) (fun x => { x with rot := none, streak := 0, streakAt := none })) s

/-- The contexts of a core other than the active one. -/
def shadows (s : State) (k : CoreId) : List Ctx := (coreOf s k).ctxs.filter (fun c => some c.pasid != (coreOf s k).active)

/-- The shadows of a core whose priority equals that of the active context. -/
def equalShadows (s : State) (k : CoreId) : List Ctx :=
  match (coreOf s k).active with
  | none => []
  | some a => (shadows s k).filter (fun c => contextPriority s k c.pasid == contextPriority s k a)

/-- CONTEXT_SWITCH (R59 cases 1 and 2): the active context has no cords left, or a resident one has a higher priority. -/
def execContextSwitch (k : CoreId) (s : State) : Result :=
  .next (match bestContext s k (shadows s k), (coreOf s k).active with
    | none, _ => s
    | some c, none => switchTo k c.pasid s
    | some c, some a => if contextPriority s k a < contextPriority s k c.pasid then switchTo k c.pasid s else s)

/-- QUANTUM_EXPIRY (R59 case 3). -/
def execQuantumExpiry (k : CoreId) (s : State) : Result :=
  .next (if s.mgmt.quantum = 0 || (coreOf s k).quantumLeft != 0 then s
    else match bestContext s k (equalShadows s k) with
      | some c => switchTo k c.pasid s
      | none => s)

/-- IDLE_SWITCH_COUNT (R59 case 4): one more clock without an eligible stream in the active context; on the 512th another one of equal priority that has
one is made active. -/
def execIdleSwitchCount (k : CoreId) (s : State) : Result :=
  .next (if (coreOf s k).idle < 511 then setCore s k (fun x => { x with idle := x.idle + 1 })
    else match bestContext s k ((equalShadows s k).filter (fun c => c.eligible)) with
      | some c => switchTo k c.pasid s
      | none => s)

/-! ### Streaming out (R60, R61) -/

/-- The cords of a PASID on a core whose stands stream out. -/
def leavingCords (s : State) (k : CoreId) (p : Pasid) : List Cord :=
  (allCords s).filter (fun c => c.id.core == k && !c.id.handler && c.pasid == p && phaseOf s c == 1)

/-- Whether a lane of one of some cords holds the fallback lock (R61). -/
def holdsLock (s : State) (ids : List CordId) : Bool := match s.almanac.lock with
  | .cord i _ _ => ids.contains i
  | _ => false

/-- Whether a context of a core may not stream out yet: a lane holds the fallback lock (R61), the supervisor handler has one of its cords, or a partition is stopped
(R269). -/
def streamHeld (s : State) (k : CoreId) (p : Pasid) : Bool :=
  let ctx := (allCords s).filter (fun c => c.id.core == k && !c.id.handler && c.pasid == p)
  holdsLock s (ctx.map (fun c => c.id)) ||
    (leavingCords s k p).any (fun c => c.mode == .trapped || c.mode == .stopped || (partOf s c.id.part).stopped)

/-- Whether a lane's access does not keep its cord: it has returned or faulted, or is parked on a page request (R61 step 3). -/
def laneAside (l : LaneAcc) : Bool := settled l || hasFailed l || isParked l

/-- Whether a cord has drained for streaming out (R61 step 4). -/
def cordDrained (s : State) (c : Cord) : Bool :=
  c.flights.all (fun f => f.op == .fetch || f.lanes.all laneAside) &&
    !(partOf s c.id.part).cordic.any (fun o => o.cord == c.id) && !(partOf s c.id.part).mq.any (fun m => m.cord == c.id && m.stand == c.stand)

/-- A cord as its image holds it: parked accesses are withdrawn and replayed after the return (R61). -/
def withdrawn (c : Cord) : Cord :=
  let keep := c.flights.filter (fun f => f.op != .fetch)
  settlePaths { c with flights := keep.map (fun f => { f with lanes := f.lanes.map (fun l => if isParked l then l.become .todo else l) }) }

/-- The bytes of a cord's image (R60). -/
def imageSize (c : Cord) : Nat := 384 * c.alloc + 1024 + 16384 * c.tiles

/-- The state with the images of cords of one partition written, packed in ascending slot; what their bytes are is not defined (R60, R100). -/
def writeImages (a : Nat) : List Cord → State → State
  | [], s => s
  | c :: cs, s => writeImages (a + imageSize c) cs (putFree a (imageSize c) s)

/-- The state with the images of a core's streamed-out context written into its save area (R60, R100). -/
def writeSave (k : CoreId) (p : Pasid) (s : State) : State :=
  match (coreOf s k).resv.find? (fun r => r.kind == 0 && r.pasid == p), (coreOf s k).saved.find? (fun v => v.pasid == p) with
  | some r, some v =>
    (List.range 4).foldl (fun s i =>
      let cs := sortList (fun x y => decide (x.id.slot ≤ y.id.slot)) (v.cords.filter (fun c => fieldNat c.id.slot 4 2 == i))
      writeImages (r.base + 540672 * i) cs s) s
  | _, _ => s

/-- The state with cords moved from their slots to the save area (R60). -/
def saveCords (k : CoreId) (p : Pasid) (cs : List Cord) (s : State) : State :=
  let ids := cs.map (fun c => c.id)
  let goes := fun (c : Cord) => ids.contains c.id
  let waits := s.almanac.waiters.filter (fun w => match w with
    | .cord i _ _ => !ids.contains i
    | _ => true)
  let s := { s with cord := if s.cord.live && goes s.cord then Cord.blank else s.cord, cords := s.cords.filter (fun c => !goes c)
                    almanac := { s.almanac with waiters := waits } }
  let s := setCore s k (fun x =>
    let old := ((x.saved.filter (fun v => v.pasid == p)).flatMap (fun v => v.cords))
    { x with saved := x.saved.filter (fun v => v.pasid != p) ++ [{ pasid := p, cords := old ++ cs.map withdrawn }] })
  dropContexts k (writeSave k p s)

/-- STREAM_OUT (R61): the cords' transactions abort with PREEMPT, and once everything has drained their image is written. -/
def execStreamOut (k : CoreId) (p : Pasid) (s : State) : Result :=
  .next (
    let cs := leavingCords s k p
    if cs.isEmpty || streamHeld s k p then s
    else
      let ids := cs.map (fun c => c.id)
      let s := mapCords (fun c => if c.live && ids.contains c.id then mapFrags (doomAll 5 0) c else c) s
      let cs := leavingCords s k p
      if cs.all (cordDrained s) then saveCords k p cs s else s)

/-! ### Streaming in (R60, R63) -/

/-- The saved cords of some stands, with their cores. -/
def savedOf (s : State) (ks : List StandKey) : List Cord :=
  (List.range 256).flatMap (fun i => ((coreOf s (BitVec.ofNat 8 i)).saved.flatMap (fun v => v.cords)).filter (fun c => ks.contains c.stand))

/-- STREAM_IN (R60, R63): saved cords return to their slots, those of a suspended queue not (R62); stands that stream together issue once all of them are resident. -/
def execStreamIn (k : CoreId) (p : Pasid) (s : State) : Result :=
  .next (
    let goes := fun (c : Cord) => phaseOf s c == 2 && !suspended s c.stand.queue
    let back := ((coreOf s k).saved.filter (fun v => v.pasid == p)).flatMap (fun v => v.cords.filter goes)
    if back.isEmpty then s
    else
      let saved := (coreOf s k).saved.map (fun v => if v.pasid = p then { v with cords := v.cords.filter (fun c => !goes c) } else v)
      let s := setCore { s with cords := s.cords ++ back } k (fun x => { x with saved := saved.filter (fun v => !v.cords.isEmpty) })
      let s := addContext p k s
      let ready := fun (st : Stand) => st.phase == 2 && (savedOf s (st.key :: st.together)).isEmpty
      { s with stands := modifyWhere ready (fun st => { st with phase := 0, together := [] }) s.stands })

/-- Whether the slots and the resources of returning cords are free on their partitions (R23, R63). -/
def slotsFree (s : State) (cs : List Cord) : Bool :=
  cs.all (fun c => !(slotCords s c.id.core).any (fun x => x.id == c.id) && !(heldSlots s c.id.core).any (fun h => h.1 == c.id)) &&
  ((cs.map (fun c => c.id.part)).eraseDups).all (fun p =>
    let mine := cs.filter (fun c => c.id.part == p)
    let u := partUse s [] p
    decide (u.1 + mine.length ≤ 16) && decide (u.2.1 + mine.foldl (fun a c => a + 384 * c.alloc) 0 ≤ 262144) &&
      decide (u.2.2.1 + mine.foldl (fun a c => a + c.tiles) 0 ≤ 16)) &&
  ((cs.map (fun c => (c.id.core, c.pasid))).eraseDups).all (fun x => contextRoom s [] x.2 x.1)

/-- Whether a cluster's die, or the package, is reserved for a gang or a launch of a priority above a stand's, which is placed first (R49, R63). -/
def heldAbove (s : State) (st : Stand) : Bool :=
  ((dieOf s st.cluster.die).reserved.any (fun r => decide (st.priority < queuePriority s r.1))) ||
    s.disp.reserved.any (fun r => decide (st.priority < queuePriority s r.1))

/-- PREEMPTED_STAND_RESUME (R63): the stands that were pre-empted together go back once all are out, their queue is not suspended, their slots are free, and no gang of a higher
priority has reserved a die of theirs. -/
def execPreemptedStandResume (k : StandKey) (s : State) : Result :=
  .next (match findStand s k with
    | none => s
    | some st =>
      let ks := k :: st.together
      let cs := savedOf s ks
      if st.phase != 1 || suspended s k.queue || (allCords s).any (fun c => !c.id.handler && ks.contains c.stand) || !slotsFree s cs ||
        s.stands.any (fun x => ks.contains x.key && heldAbove s x) then s
      else { s with stands := modifyWhere (fun x => ks.contains x.key && x.phase == 1) (fun x => { x with phase := 2 }) s.stands })

end Sys2Proof.Machine
end

