-- ==== Sys2Proof/Machine/Operands.lean ====
section
/-! DEFINITION. The operand forms of lane operations: active lanes, operands A, B and C, elements of packed registers, addresses, and the
registers a word names (R25, R70, R77, R175, R294, R345, R346, R361). -/

namespace Sys2Proof.Machine

/-- The lanes that a guard admits (R285): its predicate, negated or not. -/
def guardMask (c : Cord) (neg : Bool) (i : BitVec 3) : Mask := if neg then ~~~(predOf c i) else predOf c i

/-- Active(L) for the acting fragment (R294, R346). -/
def activeMask (c : Cord) (o : LaneOp) : Mask := c.frag.mask &&& guardMask c o.pneg o.pidx

/-- A lane register as a function of its lane. -/
def laneVec (f : Nat → Word) : LaneVec := Vector.ofFn (fun l => f l.val)

/-- Lane L of a register, or of the pair that starts at it (R70). -/
def laneValue (c : Cord) (r : VReg) (pair : Bool) (l : Nat) : Nat :=
  if pair then (laneGet (vreg c r) l).toNat + 2 ^ 32 * (laneGet (vreg c (r + 1)) l).toNat else (laneGet (vreg c r) l).toNat

/-- A scalar source as an element of 32 bits, or sign-extended to 64 (R345). -/
def scalarValue (c : Cord) (r : Reg) (wide : Bool) : Nat :=
  if wide then ((cordReg c r).signExtend 64).toNat else (cordReg c r).toNat

/-- Operand A (R345). -/
def valA (c : Cord) (o : LaneOp) (l : Nat) : Nat := laneValue c o.va (o.ty == .i64) l
/-- Operand B: the lane register vb when ss = 0, else the scalar (R345). -/
def valB (c : Cord) (o : LaneOp) (l : Nat) : Nat :=
  if o.ss = 0 then laneValue c o.vb (o.ty == .i64) l else scalarValue c o.ss (o.ty == .i64)
/-- Operand C (R345). -/
def valC (c : Cord) (o : LaneOp) (l : Nat) : Nat := laneValue c o.vc false l
/-- The value vd holds, for the operations that read it (R357, R372, R381). -/
def valD (c : Cord) (o : LaneOp) (l : Nat) : Nat := laneValue c o.vd (o.ty == .i64) l

/-! ### Elements (R70, R77) -/

/-- The width of an element of a type. -/
def tyBits : LaneTy → Nat
  | .i32 | .n32 | .f32 => 32
  | .f16x2 | .bf16x2 | .i16x2 | .n16x2 => 16
  | .i64 => 64

/-- Whether a type's elements are read as signed numbers. -/
def tySigned : LaneTy → Bool
  | .i32 | .i16x2 | .i64 => true
  | _ => false

/-- The elements of a value, element 0 first (R70). -/
def elems (t : LaneTy) (x : Nat) : List Nat := if tyBits t = 16 then [x % 65536, x / 65536 % 65536] else [x]
/-- A value of its elements. -/
def ofElems : List Nat → Nat
  | [a, b] => a + 65536 * b
  | [a] => a
  | _ => 0

/-- Each element of a type computed on its own (R346). -/
def mapElems (t : LaneTy) (f : Nat → Nat → Nat → Nat) (a b c : Nat) : Nat :=
  ofElems (((elems t a).zip ((elems t b).zip (elems t c))).map (fun p => f p.1 p.2.1 p.2.2))

/-- An element as a number: signed for i types, unsigned for n types (R370). -/
def elemInt (t : LaneTy) (x : Nat) : Int := if tySigned t then signedOf (tyBits t) x else (x : Int)

/-- The range of an integer type (R77). -/
def tyRange (t : LaneTy) : Int × Int :=
  if tySigned t then (-(2 ^ (tyBits t - 1) : Nat), (2 ^ (tyBits t - 1) : Nat) - 1) else (0, (2 ^ (tyBits t) : Nat) - 1)

/-- An exact integer result in its type: wrapped, or clamped under .SAT (R77). -/
def elemResult (t : LaneTy) (v : Variant) (r : Int) : Nat :=
  wrapNat (tyBits t) (if v = .sat then clampInt (tyRange t).1 (tyRange t).2 r else r)

/-- The floating-point format of a type's elements. -/
def tyFmt : LaneTy → NumFmt
  | .f16x2 => .fp16
  | .bf16x2 => .bf16
  | _ => .fp32

/-! ### What a lane operation produces -/

/-- The effect of a lane operation on the registers: new values of lane registers and of a predicate for the lanes of mask, scalar registers, and the
lanes that raised the invalid condition or division by zero (R75). -/
structure LaneOut where
  mask : Mask
  regs : List (VReg × LaneVec)
  pred : Option (BitVec 3 × Mask)
  scalars : List (Reg × Word)
  inv : Mask
  dz : Mask
  deriving DecidableEq, Repr

/-- An effect on nothing. -/
def LaneOut.none (m : Mask) : LaneOut := { mask := m, regs := [], pred := .none, scalars := [], inv := 0, dz := 0 }

/-- Values for vd, and for vd + 1 when the type is a pair. -/
def toVd (c : Cord) (o : LaneOp) (f : Nat → Nat) : LaneOut :=
  let lo : LaneVec := laneVec (fun l => BitVec.ofNat 32 (f l))
  let hi : LaneVec := laneVec (fun l => BitVec.ofNat 32 (f l / 2 ^ 32))
  { LaneOut.none (activeMask c o) with regs := if o.ty == .i64 then [(o.vd, lo), (o.vd + 1, hi)] else [(o.vd, lo)] }

/-- The lanes below 96 where a test holds. -/
def lanesWhere (p : Nat → Bool) : Mask := maskOf ((List.range 96).filter p)

/-- Values for vd with the lanes that raise the invalid condition. -/
def toVdCond (c : Cord) (o : LaneOp) (f : Nat → Nat × Bool) : LaneOut :=
  { toVd c o (fun l => (f l).1) with inv := lanesWhere (fun l => (f l).2) &&& activeMask c o }

/-- Bits for the predicate that vd names (R346). -/
def toPred (c : Cord) (o : LaneOp) (p : Nat → Bool) : LaneOut :=
  { LaneOut.none (activeMask c o) with pred := some (o.vd.setWidth 3, lanesWhere p) }

/-- The cord with the effect of a lane operation in the lanes of a mask; scalar writes are whole. -/
def applyOut (out : LaneOut) (skip : Mask) (c : Cord) : Cord :=
  let m := out.mask &&& ~~~skip
  let c := out.regs.foldl (fun c r => let old := vreg c r.1
                                      setVreg c r.1 (Vector.ofFn (fun l => if m.getLsbD l.val then laneGet r.2 l.val else laneGet old l.val))) c
  let c := match out.pred with
    | some (i, v) => setPred c i ((predOf c i &&& ~~~m) ||| (v &&& m))
    | none => c
  out.scalars.foldl (fun c r => setCordReg c r.1 r.2) c

/-- The condition code of a comparison (R346). -/
def ccOf (o : LaneOp) : Nat := o.vd.toNat / 8 % 16

/-! ### Registers a word names (R175) -/

/-- Whether every lane register that an operation names lies within the cord's allocation. -/
def regsOk (c : Cord) (k : LaneKind) (o : LaneOp) : Bool := (k.reads o ++ k.writes o).all (fun r => decide (r < c.alloc))

/-! ### Lane addresses (R361, R381, R382) -/

/-- The 64-bit address in a lane register pair. -/
def pairAddr (c : Cord) (r : VReg) (l : Nat) : DWord := laneGet (vreg c (r + 1)) l ++ laneGet (vreg c r) l

/-- An address pair plus the sign-extended imm32. -/
def addrOff (c : Cord) (o : LaneOp) (l : Nat) : DWord := pairAddr c o.va l + o.imm.signExtend 64

/-- The contiguous scratch address of lane L (R361). -/
def addrRun (c : Cord) (o : LaneOp) (size l : Nat) : DWord :=
  BitVec.ofNat 64 (2 ^ 63) ||| (cordReg c o.ss + o.imm + BitVec.ofNat 32 (size * l)).setWidth 64

/-- The access size of a lane load or store (R361). -/
def accessSize (o : LaneOp) : Nat :=
  if o.ty == .i64 then 8 else if o.var == .alt6 then 1 else if o.var == .alt7 then 2 else 4

end Sys2Proof.Machine
end

