-- ==== Sys2Proof/Machine/Flags.lean ====
section
/-! DEFINITION. Conditions and comparisons: the tests of BC, VCMP and VFCMP, the class masks of VFCLS, and how an operation that raises an
arithmetic condition traps (R73, R75, R76, R305, R350, R354, R355). -/

namespace Sys2Proof.Machine

/-- The tests of VCMP and VCMPN on exact numbers (R350). -/
def compareInt (cc : Nat) (a b : Int) : Bool :=
  match cc with
  | 0 => decide (a = b)
  | 1 => decide (a ≠ b)
  | 2 => decide (a < b)
  | 3 => decide (b ≤ a)
  | 4 => decide (a ≤ b)
  | _ => decide (b < a)

/-- The tests of VFCMP (R355): a NaN is unordered, and -0 equals +0. -/
def compareFloat (cc : Nat) (a b : FVal) : Bool :=
  let un := a.isNan || b.isNan
  let lt := a.lt b
  let gt := b.lt a
  match cc with
  | 0 => !un && !lt && !gt
  | 1 => un || lt || gt
  | 2 => !un && lt
  | 3 => !un && !lt
  | 4 => !un && !gt
  | 5 => !un && gt
  | 6 => un
  | _ => !un

/-- The class mask of an element (R354). -/
def classMask (f : NumFmt) (x : Nat) : Nat :=
  let sub := match f.float with
    | some ff => decide (x % 2 ^ (ff.ebits + ff.mbits) < 2 ^ ff.mbits)
    | none => false
  match f.value x with
  | .nan => 2 ^ 8
  | .inf neg => if neg then 1 else 2 ^ 7
  | .num neg m _ =>
    if m = 0 then (if neg then 2 ^ 3 else 2 ^ 4)
    else if sub then (if neg then 2 ^ 2 else 2 ^ 5)
    else if neg then 2 ^ 1 else 2 ^ 6

/-- The lanes in which an operation under .X raised a condition; under any other variant conditions only shape the result (R75). -/
def trapping (o : LaneOp) (out : LaneOut) : Mask := if o.var == .x then out.inv ||| out.dz else 0

/-- The code of an arithmetic trap: 0x0C if any lane raised the invalid condition (R76). -/
def conditionCode (inv : Mask) : Nat := if inv == 0 then 0x0D else 0x0C

/-- The arithmetic fault of the lane word that issues (R76): its position follows that of the word's accesses (R176). -/
def conditionFault (s : State) (inv lanes : Mask) (x y : Bool) : PendFault :=
  { stream := .lane, pc := lanePc s, code := conditionCode inv, sub := 0, lanes := lanes, addr := 0, x := x, y := y, remote := false
    deferred := false, replay := .none, ord := ((laneOrd s).1, (laneOrd s).2 + 1) }

/-- The state after a fault of the lane word that concerns the whole word: no effect, and the transactional lanes are doomed with FAULT first (R155, R295). -/
def raiseLaneOwn (code : Nat) (x y : Bool) (s : State) : State := raiseLane code 0 x y (setFrag (doomAll 8 0) s)

/-- The state after a register-only lane operation: raising lanes keep their destinations, the others complete, and one arithmetic trap follows (R76). -/
def finishLane (o : LaneOp) (out : LaneOut) (s : State) : State :=
  let bad := trapping o out
  let s := setCord (applyOut out bad) s
  if bad == 0 then s else
    let s := setFrag (doomAll 8 0) s
    raise (conditionFault s out.inv bad true false) s

/-- A register-only lane operation (R295, R345, R346): 0x03 with no effect when it names a register beyond the allocation (R175). -/
def laneAlu (k : LaneKind) (out : LaneOp → Cord → LaneOut) (o : LaneOp) (s : State) : State :=
  if regsOk s.cord k o then finishLane o (out o s.cord) s else raiseLaneOwn 3 true false s

end Sys2Proof.Machine
end

