-- ==== Sys2Proof/Machine/Cordic.lean ====
section
/-! DEFINITION. The CORDIC functions, their bounds and domains, and the CORDIC queues (R90 to R93, R182, R359, R360). A result is any FP32 value that
R92 allows: the unit's own value where it lies within the bound, and otherwise the exact value rounded (log entry 7). -/

namespace Sys2Proof.Machine

/-! ### Real values to 128 fraction bits -/

/-- One in fixed point. -/
def fxOne : Int := 2 ^ 128
/-- A product in fixed point. -/
def fxMul (a b : Int) : Int := a * b / 2 ^ 128
/-- A quotient in fixed point. -/
def fxDiv (a b : Int) : Int := a * 2 ^ 128 / b
/-- pi in fixed point, rounded down. -/
def fxPi : Int := 0x3243F6A8885A308D313198A2E03707344

/-- sum of n terms, each the last one times x and divided by the next number of a list: the Taylor series used below. -/
def fxSeries (x : Int) : List Nat → Int → Int
  | [], t => t
  | k :: ks, t => t + fxSeries x ks (fxMul t x / (k : Int))

/-- sin t, by its Taylor series; |t| is at most pi. -/
def fxSin (t : Int) : Int := fxSeries (-(fxMul t t)) ((List.range 40).map (fun i => (2 * i + 2) * (2 * i + 3))) t
/-- cos t, by its Taylor series. -/
def fxCos (t : Int) : Int := fxSeries (-(fxMul t t)) ((List.range 40).map (fun i => (2 * i + 1) * (2 * i + 2))) fxOne
/-- sinh t; |t| is at most 1. -/
def fxSinh (t : Int) : Int := fxSeries (fxMul t t) ((List.range 40).map (fun i => (2 * i + 2) * (2 * i + 3))) t
/-- cosh t. -/
def fxCosh (t : Int) : Int := fxSeries (fxMul t t) ((List.range 40).map (fun i => (2 * i + 1) * (2 * i + 2))) fxOne
/-- e^t; |t| is at most 1. -/
def fxExp (t : Int) : Int := fxSeries t ((List.range 60).map (fun i => i + 1)) fxOne

/-- The terms of Euler's series for arctan t, each 2k/(2k+1) of the last times q = t^2/(1+t^2). -/
def fxAtanSum (q : Int) : Nat → Nat → Int → Int
  | 0, _, t => t
  | n + 1, k, t => t + fxAtanSum q n (k + 1) (fxMul t q * (2 * (k : Int)) / (2 * (k : Int) + 1))
/-- arctan t for t from 0 to 1. -/
def fxAtan (t : Int) : Int :=
  let d := fxOne + fxMul t t
  fxAtanSum (fxDiv (fxMul t t) d) 130 1 (fxDiv t d)

/-- The terms of the series of arctanh. -/
def fxAtanhSum (w2 : Int) : Nat → Nat → Int → Int
  | 0, _, _ => 0
  | n + 1, k, p => p / (2 * (k : Int) + 1) + fxAtanhSum w2 n (k + 1) (fxMul p w2)
/-- ln z for z from 1 to 2. -/
def fxLn (z : Int) : Int :=
  let w := fxDiv (z - fxOne) (z + fxOne)
  2 * fxAtanhSum (fxMul w w) 45 0 w
/-- ln 2. -/
def fxLn2 : Int := fxLn (2 * fxOne)

/-- The square root of a number rounded down, bit by bit from 2^(n - 1). -/
def natSqrt : Nat → Nat → Nat → Nat
  | 0, r, _ => r
  | n + 1, r, x => natSqrt n (if (r + 2 ^ n) * (r + 2 ^ n) ≤ x then r + 2 ^ n else r) x

/-! ### Enclosures -/

/-- What a CORDIC function gives: values fixed by R92, a real number between lo and hi quanta of 2^q with its output scale S = 2^s (none
for P(y)), or a value that R92 does not state. -/
inductive CordicVal where
  | exact (v : FVal)
  | zero
  | real (lo hi q : Int) (s : Option Int)
  | unstated
  deriving DecidableEq, Repr

/-- A fixed-point value with the slack of its series. -/
def fxReal (v : Int) (s : Option Int) : CordicVal := .real (v - 2 ^ 24) (v + 2 ^ 24) (-128) s

/-- A whole number of quanta as an exact value. -/
def quanta (k q : Int) : FVal := .num (decide (k < 0)) k.natAbs q

/-- The exponent of P(y), the least power of two strictly above |y|, at least -126 (R92). -/
def scaleOf (lo hi q : Int) : Int :=
  let m := max lo.natAbs hi.natAbs
  if m = 0 then -126 else max (-126) ((Nat.log2 m : Int) + q + 1)

/-- Whether an FP32 word lies between RoundF32(y - 2^(1-n) S) and RoundF32(y + 2^(1-n) S) (R92). -/
def withinBound (n : Nat) (lo hi q : Int) (s : Option Int) (w : Word) : Bool :=
  let e := s.getD (scaleOf lo hi q) + 1 - n
  let a := sumFinite [quanta lo q, .num true 1 e]
  let b := sumFinite [quanta hi q, .num false 1 e]
  let a := f32 (roundF32 a)
  let b := f32 (roundF32 b)
  let x := f32 w
  !x.isNan && !(x.lt a) && !(b.lt x)

/-- The word of a CORDIC result, given the unit's own value. -/
def cordicWord (n : Nat) (own : Word) : CordicVal → Word
  | .exact v => roundF32 v
  | .zero => if own == 0x80000000 then own else 0
  | .real lo hi q s => if withinBound n lo hi q s own then own else roundF32 (quanta lo q)
  | .unstated => if (f32 own).isNan then nanF32 else own

/-! ### The functions -/

/-- A finite value in fixed point; its magnitude is at most some thousands. -/
def toFx : FVal → Int
  | .num neg m e => let k : Int := if 0 ≤ e + 128 then (m * 2 ^ (e + 128).toNat : Nat) else (m / 2 ^ (-(e + 128)).toNat : Nat); if neg then -k else k
  | _ => 0

/-- x - round(x), exact, in fixed point; whole and half-integer turns are exact (R92). -/
def turnOf (x : FVal) : Int :=
  match x with
  | .num neg m e => if 0 ≤ e then 0 else
      let d := (-e).toNat
      let r := m - m / 2 ^ d * 2 ^ d
      let r : Int := if 2 ^ d ≤ 2 * r then (r : Int) - (2 ^ d : Nat) else r
      let k := if d ≤ 128 then r * 2 ^ (128 - d) else r / 2 ^ (d - 128)
      if neg then -k else k
  | _ => 0

/-- Whether |x| is at least 2^22 (R92). -/
def bigTurn : FVal → Bool
  | .num _ m e => decide (0 < m) && decide (22 ≤ (Nat.log2 m : Int) + e)
  | _ => false

/-- The whole number at or below a finite value. -/
def floorOf : FVal → Int
  | .num neg m e =>
    let d := 2 ^ (-e).toNat
    if 0 ≤ e then (if neg then -((m * 2 ^ e.toNat : Nat) : Int) else ((m * 2 ^ e.toNat : Nat) : Int))
    else if neg then -(((m + d - 1) / d : Nat) : Int) else ((m / d : Nat) : Int)
  | _ => 0

/-- 2^x: a value in quanta of 2^q. 2^x is below 2^(floor x + 1), which is P(y) (R92). -/
def fxExp2 (x : FVal) : CordicVal :=
  let u := toFx x
  let i := u / 2 ^ 128
  let v := fxExp (fxMul (u - i * 2 ^ 128) fxLn2)
  .real (v - 2 ^ 24) (v + 2 ^ 24) (i - 128) (some (max (-126) (floorOf x + 1)))

/-- The order-preserving ratio of two positive finite values in fixed point: the smaller over the larger. -/
def fxRatio (a b : FVal) : Int :=
  let q := min a.exp b.exp
  let x := (a.scaled q).natAbs
  let y := (b.scaled q).natAbs
  ((min x y * 2 ^ 128 / max x y : Nat) : Int)

/-- atan2(y, x) / 2 pi of finite values, not both zero. -/
def turnsOf (y x : FVal) : Int :=
  let q := min y.exp x.exp
  let a := (y.scaled q).natAbs
  let b := (x.scaled q).natAbs
  let t := fxDiv (fxAtan (fxRatio y x)) (2 * fxPi)
  let t := if b < a then fxOne / 4 - t else t
  let t := if x.neg then fxOne / 2 - t else t
  if y.neg then -t else t

/-- The value of a direction for atan2 when an operand is infinite (R92). -/
def direction : FVal → Int
  | .inf neg => if neg then -1 else 1
  | _ => 0

/-- VCRAT (R92). -/
def cordicAtan (y x : FVal) : CordicVal × CordicVal :=
  let sg (v : CordicVal) : CordicVal × CordicVal := (v, v)
  if y.isInf || x.isInf then
    let a := fxOne / 8 * (if direction x = 0 then 2 else if direction y = 0 then (if x.neg then 4 else 0) else (if x.neg then 3 else 1))
    sg (fxReal (if y.neg && a ≠ fxOne / 2 then -a else a) (some 0))
  else if y.isZero then
    if x.isZero then sg (if x.neg then .exact (.num false 1 (-1)) else .exact y)
    else sg (fxReal (if x.neg then fxOne / 2 else 0) (some 0))
  else sg (fxReal (turnsOf y x) (some 0))

/-- 1 / m x 2^(-e), the square root of m x 2^e and its reciprocal, in quanta: relative precision 2^-120 or better. -/
def sqrtReal (m : Nat) (e : Int) : CordicVal :=
  let odd : Nat := if e % 2 = 0 then 0 else 1
  let s := natSqrt 160 0 (m * 2 ^ (256 + odd))
  .real (s : Int) ((s : Int) + 1) ((e - (odd : Int)) / 2 - 128) none

/-- 1/sqrt(m x 2^e). -/
def rsqrtReal (m : Nat) (e : Int) : CordicVal :=
  let odd : Nat := if e % 2 = 0 then 0 else 1
  let s := natSqrt 160 0 (2 ^ 300 / (m * 2 ^ odd))
  .real (s : Int) ((s : Int) + 2) (-(e - (odd : Int)) / 2 - 150) none

/-- |a| / |b| with a sign. -/
def quotReal (neg : Bool) (m1 m2 : Nat) (e : Int) : CordicVal :=
  let k : Int := ((m1 * 2 ^ 160 / m2 : Nat) : Int)
  if neg then .real (-(k + 1)) (-k) (e - 160) none else .real k (k + 1) (e - 160) none

/-- tanh x for a finite x. -/
def tanhFx (neg : Bool) (m : Nat) (e : Int) : Int :=
  let top := (Nat.log2 m : Int) + e
  if m = 0 then 0
  else if 6 ≤ top then (if neg then -fxOne else fxOne)
  else
    let u := fxDiv (2 * toFx (.num false m e)) fxLn2
    let i := (-u) / 2 ^ 128
    let f := fxExp (fxMul (-u - i * 2 ^ 128) fxLn2)
    let ex := f / 2 ^ (-i).toNat
    let v := fxDiv (fxOne - ex) (fxOne + ex)
    if neg then -v else v

/-- The conditions of a CORDIC lane: invalid, division by zero (R75). -/
structure CordicRes where
  r0 : CordicVal
  r1 : CordicVal
  inv : Bool
  dz : Bool
  deriving DecidableEq, Repr

/-- A result without a condition. -/
def CordicRes.plain (v : CordicVal) : CordicRes := { r0 := v, r1 := v, inv := false, dz := false }
/-- The canonical NaN without a condition. -/
def CordicRes.quiet : CordicRes := CordicRes.plain (.exact .nan)
/-- The canonical NaN with the invalid condition. -/
def CordicRes.invalid : CordicRes := { r0 := .exact .nan, r1 := .exact .nan, inv := true, dz := false }

/-- One unit. -/
def oneVal (neg : Bool) : FVal := .num neg 1 0

/-- The domain table of R92. -/
def cordicFn (fn : CordicFn) (a b : FVal) : CordicRes :=
  match fn, a with
  | _, .nan => .quiet
  | .sc, .inf _ => .invalid
  | .sc, x =>
    let t := turnOf x
    if bigTurn x then
      (if t = 0 then { r0 := .zero, r1 := .exact (oneVal false), inv := false, dz := false }
       else { r0 := .zero, r1 := .exact (oneVal true), inv := false, dz := false })
    else
      let u := fxMul t (2 * fxPi)
      { r0 := fxReal (fxSin u) (some 0), r1 := fxReal (fxCos u) (some 0), inv := false, dz := false }
  | .rat, y => if b.isNan then .quiet else let r := cordicAtan y b; .plain r.1
  | .hy, .inf _ => .invalid
  | .hy, x =>
    if (oneVal false).lt x || x.lt (oneVal true) then .invalid
    else { r0 := fxReal (fxSinh (toFx x)) (some 1), r1 := fxReal (fxCosh (toFx x)) (some 1), inv := false, dz := false }
  | .ex, .inf neg => .plain (if neg then .exact (.num false 0 0) else .exact (.inf false))
  | .ex, x =>
    if !(x.lt (.num false 128 0)) then .plain (.exact (.inf false))
    else if x.lt (.num true 400 0) then .plain (.real 0 1 (-400) none)
    else .plain (fxExp2 x)
  | .lg, .inf neg => if neg then .invalid else .plain (.exact (.inf false))
  | .lg, .num neg m e =>
    if m = 0 then .plain (.exact (.inf true))
    else if neg then .invalid
    else
      let k := Nat.log2 m
      .plain (fxReal (((k : Int) + e) * 2 ^ 128 + fxDiv (fxLn ((m : Int) * 2 ^ 128 / 2 ^ k)) fxLn2) (some 0))
  | .sq, .inf neg => if neg then .invalid else .plain (.exact (.inf false))
  | .sq, .num neg m e =>
    if m = 0 then .plain (if neg then .exact (.num true 0 0) else .real 0 0 0 none) else if neg then .invalid else .plain (sqrtReal m e)
  | .rs, .inf neg => if neg then .invalid else .plain (.exact (.num false 0 0))
  | .rs, .num neg m e => if m = 0 then .plain (.exact (.inf neg)) else if neg then .invalid else .plain (rsqrtReal m e)
  | .dv, x =>
    if b.isNan then .quiet
    else
      let sg := x.neg != b.neg
      if x.isInf then
        (if b.isInf then .invalid
         else if b.isZero then { r0 := .unstated, r1 := .unstated, inv := true, dz := false }
         else .plain (.exact (.inf sg)))
      else if b.isInf then .plain (.exact (.num sg 0 0))
      else match x, b with
        | .num _ m1 e1, .num _ m2 e2 =>
          if m2 = 0 then (if m1 = 0 then .invalid else { r0 := .exact (.inf sg), r1 := .exact (.inf sg), inv := false, dz := true })
          else if m1 = 0 then .plain (.real 0 0 0 none)
          else .plain (quotReal sg m1 m2 (e1 - e2))
        | _, _ => .quiet
  | .th, .inf neg => .plain (.exact (oneVal neg))
  | .th, .num neg m e => .plain (fxReal (tanhFx neg m e) (some 0))

/-- The number of a function in its opcode (R359). -/
def CordicFn.code : CordicFn → Nat
  | .sc => 0 | .rat => 1 | .hy => 2 | .ex => 3 | .lg => 4 | .sq => 5 | .rs => 6 | .dv => 7 | .th => 8

/-- The words of one lane, and its conditions. -/
def cordicLane (fn : CordicFn) (n : Nat) (a b : Word) : Word × Word × Bool × Bool :=
  let r := cordicFn fn (f32 a) (f32 b)
  (cordicWord n (Config.cordic fn.code n false a b) r.r0, cordicWord n (Config.cordic fn.code n true a b) r.r1, r.inv, r.dz)

/-! ### The queue (R91, R182, R360) -/

/-- The instruction as it enters its partition's queue: raising lanes under .X have their results discarded (R76, R360). -/
def cordicEntry (fn : CordicFn) (o : LaneOp) (c : Cord) (id : Nat) : CordicOp :=
  let n := 2 * fieldNat o.imm 0 4 + 8
  let res := fun (l : Nat) => cordicLane fn n (BitVec.ofNat 32 (valA c o l)) (BitVec.ofNat 32 (laneValue c o.vb false l))
  let act := activeMask c o
  let inv := if o.var == .x then lanesWhere (fun l => (res l).2.2.1) &&& act else 0
  let dz := if o.var == .x then lanesWhere (fun l => (res l).2.2.2) &&& act else 0
  { cord := c.id, flight := id, vd := o.vd, two := fn == .sc || fn == .hy, writes := act &&& ~~~(inv ||| dz), inv := inv, dz := dz
    r0 := laneVec (fun l => (res l).1), r1 := laneVec (fun l => (res l).2.1), beat := 0 }

/-- The flight that keeps a CORDIC instruction incomplete until beat 2 is written (R54): its active lanes, or one that no cord has. -/
def cordicFlight (s : State) (id : Nat) (two : Bool) (o : LaneOp) : Flight :=
  let ls := lanesOf (activeMask s.cord o)
  { id := id, frag := s.cord.frag.id, splits := [], la := o.la.toNat, stream := .lane, pc := lanePc s, isY := false, op := .cordic, scope := 0, size := 4, signed := false
    dest := if two then .vpair o.vd else .vreg o.vd, lanes := (if ls.isEmpty then [96] else ls).map (fun l => { newLane l 0 0 with st := .sent 0 0 }), paths := [], ord := laneOrd s }

/-- A CORDIC instruction issues into its partition's queue (R91, R360). -/
def cordicIssue (k : LaneKind) (fn : CordicFn) (o : LaneOp) (s : State) : State :=
  if regsOk s.cord k o then
    let (id, s) := fresh s
    let e := cordicEntry fn o s.cord id
    let f := cordicFlight s id e.two o
    let win : Window := { id := id, left := o.la.toNat }
    let s := setCord (fun c => { c with flights := c.flights ++ [f], frag := addWindow .lane win c.frag }) s
    setPart s (thisPart s) (fun p => { p with cordic := p.cordic ++ [e] })
  else raiseLaneOwn 3 true false s

/-- The cord with one beat of an instruction's results written (R91). -/
def writeBeat (e : CordicOp) (c : Cord) : Cord :=
  let m := e.writes &&& setMaskWord 0 e.beat 0xFFFFFFFF
  applyOut { LaneOut.none m with regs := if e.two then [(e.vd, e.r0), (e.vd + 1, e.r1)] else [(e.vd, e.r0)] } 0 c

/-- The fault of a finished CORDIC instruction whose lanes raised conditions under .X (R76). -/
def cordicFault (e : CordicOp) (f : Flight) : PendFault :=
  { stream := .lane, pc := f.pc, code := conditionCode e.inv, sub := 0, lanes := e.inv ||| e.dz, addr := 0, x := true, y := false, remote := false
    deferred := false, replay := .none, ord := (f.ord.1, f.ord.2 + 1) }

/-- The state after a CORDIC instruction has written beat 2: it is complete, and its conditions trap (R54, R76). -/
def cordicDone (e : CordicOp) (s : State) : State :=
  match s.cord.flights.find? (fun f => f.id == e.flight) with
  | none => s
  | some f =>
    let s := setCord (fun c => pruneWindows { c with flights := c.flights.filter (fun g => g.id != f.id) }) s
    if (e.inv ||| e.dz) == 0 then deliverTrap s
    else deliverTrap (setCord (addFault f.frag (cordicFault e f)) (setFragById f.frag (doomAll 8 0) s))

/-- CORDIC_BEAT_WRITE (R91, R93): the head of a partition's queue writes its next beat. -/
def execCordicBeatWrite (p : PartId) (s : State) : Result :=
  .next (match (partOf s p).cordic with
    | [] => s
    | e :: es =>
      let s := selectCord s e.cord
      let s := if onCord s e.cord then setCord (writeBeat e) s else s
      if e.beat < 2 then setPart s p (fun x => { x with cordic := { e with beat := e.beat + 1 } :: es })
      else
        let s := setPart s p (fun x => { x with cordic := es })
        if onCord s e.cord then cordicDone e s else s)

/-- VCRSC (R359). -/
def execVcrsc (o : LaneOp) (s : State) : Result := .next (cordicIssue .vcrsc .sc o s)
/-- VCRAT (R359). -/
def execVcrat (o : LaneOp) (s : State) : Result := .next (cordicIssue .vcrat .rat o s)
/-- VCRHY (R359). -/
def execVcrhy (o : LaneOp) (s : State) : Result := .next (cordicIssue .vcrhy .hy o s)
/-- VCREX (R359). -/
def execVcrex (o : LaneOp) (s : State) : Result := .next (cordicIssue .vcrex .ex o s)
/-- VCRLG (R359). -/
def execVcrlg (o : LaneOp) (s : State) : Result := .next (cordicIssue .vcrlg .lg o s)
/-- VCRSQ (R359). -/
def execVcrsq (o : LaneOp) (s : State) : Result := .next (cordicIssue .vcrsq .sq o s)
/-- VCRRS (R359). -/
def execVcrrs (o : LaneOp) (s : State) : Result := .next (cordicIssue .vcrrs .rs o s)
/-- VCRDV (R359). -/
def execVcrdv (o : LaneOp) (s : State) : Result := .next (cordicIssue .vcrdv .dv o s)
/-- VCRTH (R359). -/
def execVcrth (o : LaneOp) (s : State) : Result := .next (cordicIssue .vcrth .th o s)

end Sys2Proof.Machine
end

