-- ==== Sys2Proof/Machine/Matrix.lean ====
section
/-! DEFINITION. Engine commands in general (R184 to R186), and the matrix engine (04 R80 to R85; 09 R187 to R198; 15 R329). -/

namespace Sys2Proof.Machine

/-! ### Accepting a command (R112, R184 to R186) -/

/-- The state after an accepted command has raised and returned its path (R112). -/
def countPath (n : Nat) (s : State) : State :=
  let (id, s) := fresh s
  let f : Flight := { id := id, frag := s.cord.frag.id, splits := [], la := 0, stream := .scalar, pc := s.cord.frag.pc, isY := false, op := .engine, scope := 0, size := 0
                      signed := false, dest := .none, lanes := [], paths := [(n, false)], ord := scalarOrd s }
  setCord (fun c => settlePaths { c with flights := c.flights ++ [f] }) s

/-- A command that its engine refuses: a precise descriptor fault, replayed at the return (R174, R185). -/
def refuseCmd (s : State) : State := raiseAgain 0x10 s

/-- Register n of an operand block (R184). -/
def blockReg (s : State) (a : Reg) (n : Nat) : Word := reg s (a + BitVec.ofNat 6 n)
/-- A pair of an operand block. -/
def blockPair (s : State) (a : Reg) (n : Nat) : DWord := blockReg s a (n + 1) ++ blockReg s a n

/-- The place of a scratch operand whose n bytes lie in one window, at an alignment (R97, R185). -/
def winRange (s : State) (o n align : Nat) : Option WinPos :=
  if o % align ≠ 0 then none
  else match decodeScratch s (thisCluster s) s.cord.stand o 1 with
    | .ok (.win k off) =>
      if inWindow s (.win k off) n then some { key := k, off := off, raw := o } else none
    | _ => none

/-- Whether an operation of a stand may still reach a window: its own, or that of a member of its grove (R106). -/
def winReach (s : State) (c : ClusterId) (me k : StandKey) : Bool :=
  (findStand s k).isSome && (k == me || (List.range 7).any (fun i => match slotStand s c me (i + 1) with
    | .ok x => x == k
    | .error _ => false))

/-- The generic address of byte j from a scratch operand (R184). -/
def winAddr (w : WinPos) (j : Nat) : DWord := BitVec.ofNat 64 (2 ^ 63 + w.raw + j)

/-! ### Formats (R71, R190) -/

/-- The format of a matrix operand code; none for the weight codes and codes that name no format. -/
def matFmt (code : Nat) : Option NumFmt :=
  match code with
  | 0 => some .fp32 | 1 => some .bf16 | 2 => some .fp16 | 3 => some .e5m2 | 4 => some .e4m3 | 5 => some .e3m2 | 6 => some .e2m3
  | 7 => some .e2m1 | 8 => some .int8 | 9 => some .int4 | _ => none
/-- The element width of a code (R71). -/
def matWidth (code : Nat) : Nat := if code = 10 then 2 else if code = 11 then 3 else match matFmt code with
  | some f => f.width
  | none => 32
/-- The bytes of the scale a code carries per 32 elements (R71): E8M0, BF16, or none. -/
def scaleBytes (code : Nat) : Nat := if 3 ≤ code ∧ code ≤ 7 then 1 else if code = 10 ∨ code = 11 then 2 else 0
/-- The valid pairs of MMA (R190). -/
def pairValid (a b : Nat) : Bool :=
  (decide (a < 3) && a == b) || (decide (3 ≤ a) && decide (a ≤ 7) && decide (3 ≤ b) && decide (b ≤ 7)) ||
  (decide (8 ≤ a) && decide (a ≤ 9) && decide (8 ≤ b) && decide (b ≤ 9))
/-- The valid pairs of MMLUT (R193). -/
def lutValid (a b : Nat) : Bool := (a == 1 || a == 2 || a == 4) && (b == 10 || b == 11)
/-- The block size of a pair (R80). -/
def blockSize (a b : Nat) : Nat := let w := max (matWidth a) (matWidth b); if w = 32 then 8 else if w = 16 then 16 else 32
/-- The value of an element (R69, R81). -/
def matValue (code x : Nat) : FVal :=
  if code = 10 then .ofInt (2 * (x : Int) - 3) else if code = 11 then .ofInt (2 * (x : Int) - 7)
  else match matFmt code with
    | some f => f.value x
    | none => .nan
/-- The value of a scale, or 1 for a format that carries none (R71, R81). -/
def scaleValue (code x : Nat) : FVal :=
  match scaleBytes code with
  | 1 => NumFmt.value .e8m0 x
  | 2 => NumFmt.value .bf16 x
  | _ => .num false 1 0

/-! ### Reading operands (R70, R189, R195) -/

/-- A byte reader of a scratch operand. -/
abbrev Rd := Nat → Byte

/-- Element k of width w of the bit string at a byte (R70). -/
def elemAt (rd : Rd) (base w k : Nat) : Nat :=
  let p := base + w * k / 8
  let v := (List.range 5).foldr (fun i a => (rd (p + i)).toNat + 256 * a) 0
  v / 2 ^ (w * k % 8) % 2 ^ w

/-- The bytes of a window an operation reads: a byte that changed since it started is read old or new, as a free choice says (R195). -/
def mixed (s : State) (m : MatCmd) (w : WinPos) : Rd := fun j =>
  let o := w.off + j
  let cur := match findStand s w.key with
    | some st => memGet st.window o
    | none => 0
  let old := match m.snap.find? (fun x => x.1 == w.key) with
    | some (_, mem) => memGet mem o
    | none => cur
  if cur = old || Config.pick (s.tick + o) % 2 = 0 then cur else old

/-- The rows of an operand in bytes from its address: count, stride and length. -/
structure Rows where
  w : WinPos
  n : Nat
  stride : Nat
  len : Nat
  deriving DecidableEq, Repr

/-- The first byte of a row whose run of scratch has failed (R173). -/
def rowFailed (s : State) (r : Rows) (i : Nat) : Option Nat :=
  let o := r.w.off + r.stride * i
  ((List.range (r.len / 128 + 2)).map (fun q => max o ((o / 128 + q) * 128))).find? (fun b => decide (b < o + r.len) && runFailed s r.w.key b)

/-- The fault of reading an operand, with its address (R196). -/
def rowsFault (s : State) (m : MatCmd) (r : Rows) : Option (Nat × DWord) :=
  if r.n = 0 then none
  else if !winReach s m.cord.core.cluster m.stand r.w.key then some (0x0F, winAddr r.w 0)
  else ((List.range r.n).findSome? (rowFailed s r)).map (fun b => (0x0B, winAddr r.w (b - r.w.off)))

/-- The operands a command reads (R189, R192 to R194). -/
def readRows (m : MatCmd) : List Rows :=
  let scales (w : WinPos) (code k : Nat) : Rows := { w := w, n := if scaleBytes code = 0 then 0 else 1, stride := 0, len := 64 * (k / 32) * scaleBytes code }
  match m.op with
  | .mma fa fb k | .mmlut fa fb k =>
    [{ w := m.a, n := 64, stride := m.strideA, len := k * matWidth fa / 8 }, { w := m.b, n := 64, stride := m.strideB, len := k * matWidth fb / 8 },
     scales m.sa fa k, scales m.sb fb k]
  | .mmax _ fb _ _ _ => [{ w := m.b, n := 64, stride := m.strideB, len := 64 * matWidth fb / 8 }, scales m.sb fb 64]
  | .mmld => [{ w := m.a, n := 64, stride := m.strideA, len := 256 }]
  | .mmz => []
  | .mmst _ _ _ => []

/-! ### Products (R81 to R84) -/

/-- Word (i, j) of a tile. -/
def tileWord (t : Vector Word 4096) (i j : Nat) : Word := t.getD (64 * i + j) 0

/-- The blocks of R81 for one element: ks are the products in increasing k. -/
def blockSums (b : Nat) : Nat → List FVal → Word → Word
  | 0, _, acc => acc
  | n + 1, ps, acc => blockSums b n (ps.drop b) (roundF32 (sumVals (f32 acc :: ps.take b)).1)

/-- The exact product of four values (R81). -/
def mul4 (a b c d : FVal) : FVal := (mulVals (mulVals (mulVals a b).1 c).1 d).1

/-- The tile after a floating-point product (R81): a, b give elements, sa, sb scales. -/
def floatProduct (fa fb k : Nat) (a b sa sb : Nat → Nat → Nat) (t : Vector Word 4096) : Vector Word 4096 :=
  let bs := blockSize fa fb
  Vector.ofFn (fun p =>
    let i := p.val / 64
    let j := p.val % 64
    let ps := (List.range k).map (fun x => mul4 (matValue fa (a i x)) (matValue fb (b j x)) (scaleValue fa (sa i (x / 32))) (scaleValue fb (sb j (x / 32))))
    blockSums bs (k / bs) ps (tileWord t i j))

/-- The tile after an integer product (R83). -/
def intProduct (fa fb k : Nat) (a b : Nat → Nat → Nat) (t : Vector Word 4096) : Vector Word 4096 :=
  Vector.ofFn (fun p =>
    let i := p.val / 64
    let j := p.val % 64
    let sum := (List.range k).foldl (fun (z : Int) x => z + signedOf (matWidth fa) (a i x) * signedOf (matWidth fb) (b j x)) 0
    BitVec.ofInt 32 ((tileWord t i j).toInt + sum))

/-- The tile after a product of either kind. -/
def product (fa fb k : Nat) (a b sa sb : Nat → Nat → Nat) (t : Vector Word 4096) : Vector Word 4096 :=
  if 8 ≤ fa ∧ fa ≤ 9 then intProduct fa fb k a b t else floatProduct fa fb k a b sa sb t

/-! ### Tiles and batches of a cord, live or ended (R187, R198) -/

/-- The tiles that a command's cord holds. -/
def tilesOf (s : State) (c : CordId) (k : StandKey) : Vector (Vector Word 4096) 16 :=
  match (allCords s).find? (fun x => x.id == c && x.stand == k) with
  | some x => x.acc
  | none => match (partOf s c.part).dead.find? (fun d => d.cord == c && d.stand == k) with
    | some d => d.acc
    | none => Cord.blank.acc

/-- The cord whose engine command it is, changed; an ended cord's remains instead. -/
def onOwner (c : CordId) (k : StandKey) (f : Cord → Cord) (g : DeadCord → DeadCord) (s : State) : State :=
  let s := mapCords (fun x => if x.id == c && x.stand == k then f x else x) s
  setPart s c.part (fun p => { p with dead := modifyWhere (fun d => d.cord == c && d.stand == k) g p.dead })

/-- The state with a tile of a command's cord written. -/
def setTile (c : CordId) (k : StandKey) (n : Nat) (t : Vector Word 4096) : State → State :=
  onOwner c k (fun x => { x with acc := x.acc.setIfInBounds n t }) (fun d => { d with acc := d.acc.setIfInBounds n t })

/-- The batches with one more operation in batch n. -/
def addOp (n : Nat) (bs : List Batch) : List Batch :=
  if bs.any (fun b => b.n == n) then modifyWhere (fun b => b.n == n) (fun b => { b with left := b.left + 1 }) bs
  else bs ++ [{ n := n, left := 1, fault := none }]

/-- The batches after an operation of batch n has ended, with the first fault kept (R198). -/
def endOp (n : Nat) (flt : Option (Nat × DWord)) (bs : List Batch) : List Batch :=
  keepBatches (modifyWhere (fun b => b.n == n) (fun b => { b with left := b.left - 1, fault := if b.fault.isSome then b.fault else flt }) bs)

/-- The state with the remains of ended cords dropped once their last operation has ended: unreported flags enter the journal (R40, R198). -/
def buryDead (p : PartId) (s : State) : State :=
  let past := (partOf s p).dead.filter (fun d => d.batches.all (fun b => b.left == 0))
  let s := past.foldl (fun s d => journalLots d.stand d.batches s) s
  setPart s p (fun x => { x with dead := x.dead.filter (fun d => !d.batches.all (fun b => b.left == 0)) })

/-! ### Executing a command (R191 to R196) -/

/-- The state after MMST has written its rows from row i on, and its fault (R194, R196). -/
def storeRows (m : MatCmd) (row : Nat → Nat) (len : Nat) : Nat → Nat → State → Option (Nat × DWord) × State
  | 0, _, s => (none, s)
  | n + 1, i, s =>
    if !winReach s m.cord.core.cluster m.stand m.a.key then (some (0x0F, winAddr m.a (m.strideA * i)), s)
    else storeRows m row len n (i + 1) (scratchWrite (.win m.a.key (m.a.off + m.strideA * i)) len (row i) s)

/-- The state after a command has executed, with its fault (R191 to R196). -/
def runMat (m : MatCmd) (s : State) : Option (Nat × DWord) × State :=
  match (readRows m).findSome? (rowsFault s m) with
  | some f => (some f, s)
  | none =>
    let tiles := tilesOf s m.cord m.stand
    let t := tiles.getD m.tile (Vector.replicate 4096 0)
    let put (t : Vector Word 4096) : Option (Nat × DWord) × State := (none, setTile m.cord m.stand m.tile t s)
    let arr (w : WinPos) (stride code : Nat) : Nat → Nat → Nat := fun i x => elemAt (mixed s m w) (stride * i) (matWidth code) x
    let scl (w : WinPos) (code k : Nat) : Nat → Nat → Nat := fun i q =>
      if scaleBytes code = 0 then 0 else elemAt (mixed s m w) ((k / 32 * i + q) * scaleBytes code) (8 * scaleBytes code) 0
    match m.op with
    | .mma fa fb k => put (product fa fb k (arr m.a m.strideA fa) (arr m.b m.strideB fb) (scl m.sa fa k) (scl m.sb fb k) t)
    | .mmlut fa fb k => put (product fa fb k (arr m.a m.strideA fa) (arr m.b m.strideB fb) (scl m.sa fa k) (scl m.sb fb k) t)
    | .mmax fa fb src relu scale =>
      let source := tiles.getD src (Vector.replicate 4096 0)
      let fmt := (matFmt fa).getD .fp32
      let one : Nat → Nat → Nat := fun _ _ => 0x7F
      put (product fa fb 64 (fun i x => downConvert (tileWord source i x) scale relu fmt) (arr m.b m.strideB fb) one (scl m.sb fb 64) t)
    | .mmz => put (Vector.replicate 4096 0)
    | .mmld => put (Vector.ofFn (fun p => BitVec.ofNat 32 (elemAt (mixed s m m.a) (m.strideA * (p.val / 64)) 32 (p.val % 64))))
    | .mmst fmt relu scale =>
      let f := (matFmt fmt).getD .fp32
      let el (i j : Nat) : Nat := if fmt = 0 then (tileWord t i j).toNat else downConvert (tileWord t i j) scale relu f
      let row (i : Nat) : Nat := (List.range 64).foldl (fun a j => a + el i j * 2 ^ (f.width * j)) 0
      storeRows m row (64 * f.width / 8) 64 0 s

/-- MATRIX_COMMAND_START (R195): the engine starts its oldest command, once the cord's older accesses are performed (R137). -/
def execMatrixCommandStart (p : PartId) (s : State) : Result :=
  .next (match (partOf s p).mq with
    | m :: rest =>
      if m.running then s
      else match forkReady m.cord m.stand m.fork 0 s with
        | (none, s') => s'
        | (some s', _) =>
          let keys := ((readRows m).map (fun r => r.w.key)).eraseDups
          let snap := (s'.stands.filter (fun st => keys.contains st.key)).map (fun st => (st.key, st.window))
          setPart s' p (fun x => { x with mq := { m with running := true, snap := snap } :: rest })
    | [] => s)

/-- MATRIX_COMMAND_END (R195 to R198): the running command takes effect and leaves its batch. -/
def execMatrixCommandEnd (p : PartId) (s : State) : Result :=
  .next (match (partOf s p).mq with
    | m :: rest =>
      if !m.running then s
      else
        let (flt, s) := runMat m s
        let s := { s with tick := s.tick + 2 ^ 24 }
        let s := setPart s p (fun x => { x with mq := rest })
        let s := onOwner m.cord m.stand (fun c => { c with batches := endOp m.batch flt c.batches }) (fun d => { d with batches := endOp m.batch flt d.batches }) s
        buryDead p s
    | [] => s)

/-! ### The instructions (R188 to R194, R329) -/

/-- A matrix command of the acting cord that its engine accepts: it joins the cord's next lot. -/
def acceptMat (m : MatCmd) (s : State) : State :=
  let s := countPath 5 s
  let s := setCord (fun c => { c with batches := addOp c.lots c.batches }) s
  advance (setPart s (thisPart s) (fun p => { p with mq := p.mq ++ [m] }))

/-- A position that a command does not use. -/
def noWin (s : State) : WinPos := { key := s.cord.stand, off := 0, raw := 0 }

/-- A matrix instruction: its tiles, the queue's room, and the checks of acceptance (R185 to R187). -/
def matIssue (tiles : List Nat) (build : State → Option MatCmd) (s : State) : State :=
  outsideBody (fun s =>
    if tiles.any (fun t => decide (s.cord.tiles ≤ t)) then raiseScalar 3 s
    else if 16 ≤ (partOf s (thisPart s)).mq.length then wait 5 s
    else match build s with
      | none => refuseCmd s
      | some m => acceptMat m s) s

/-- A command with its operands. -/
def matCmd (s : State) (op : MatOp) (tile : Nat) (a b sa sb : WinPos) (strideA strideB : Nat) : MatCmd :=
  { cord := s.cord.id, pc := s.cord.frag.pc, frag := s.cord.frag.id, stand := s.cord.stand, op := op, tile := tile, a := a, b := b, sa := sa, sb := sb, strideA := strideA, strideB := strideB
    batch := s.cord.lots, fork := s.nextId, running := false, snap := [] }

/-- The checks of a row stride (R189). -/
def strideOk (stride len : Nat) : Bool := stride % 16 == 0 && decide (len ≤ stride) && decide (stride ≤ 65520)

/-- The scales of an operand: none when one is needed and its range is refused (R189). -/
def scaleWin (s : State) (o : Word) (code k : Nat) : Option WinPos :=
  if scaleBytes code = 0 then some (noWin s) else winRange s o.toNat (64 * (k / 32) * scaleBytes code) (scaleBytes code)

/-- An operand of 64 rows (R189). -/
def rowsWin (s : State) (o : Word) (stride len : Nat) : Option WinPos :=
  if strideOk stride len then winRange s o.toNat (63 * stride + len) 16 else none

/-- The command of MMA and MMLUT (R189, R190, R193). -/
def buildProduct (op : MatOp) (ok : Bool) (tile fa fb k : Nat) (a : Reg) (s : State) : Option MatCmd :=
  if !ok then none
  else
    let st := blockReg s a 4
    let strideA := fieldNat st 0 16
    let strideB := fieldNat st 16 16
    match rowsWin s (blockReg s a 0) strideA (k * matWidth fa / 8), rowsWin s (blockReg s a 1) strideB (k * matWidth fb / 8),
          scaleWin s (blockReg s a 2) fa k, scaleWin s (blockReg s a 3) fb k with
    | some wa, some wb, some wsa, some wsb => some (matCmd s op tile wa wb wsa wsb strideA strideB)
    | _, _, _, _ => none

/-- K of a product (R188). -/
def prodK (k : BitVec 4) : Nat := 32 * (k.toNat + 1)

/-- MMA (R188 to R191). -/
def execMma (a : Reg) (n x y k _l : BitVec 4) (s : State) : Result :=
  .next (matIssue [n.toNat]
    (buildProduct (.mma x.toNat y.toNat (prodK k)) (pairValid x.toNat y.toNat) n.toNat x.toNat y.toNat (prodK k) a) s)

/-- MMLUT (R193). -/
def execMmlut (a : Reg) (n x y k _l : BitVec 4) (s : State) : Result :=
  .next (matIssue [n.toNat]
    (buildProduct (.mmlut x.toNat y.toNat (prodK k)) (lutValid x.toNat y.toNat) n.toNat x.toNat y.toNat (prodK k) a) s)

/-- MMAX's command (R192). -/
def buildMmax (tile fa fb : Nat) (a : Reg) (s : State) : Option MatCmd :=
  let z := (blockReg s a 0).toNat
  let strideB := fieldNat (blockReg s a 4) 16 16
  if !pairValid fa fb || decide (8 ≤ fa) || decide (32 ≤ z) || z % 16 == tile then none
  else match rowsWin s (blockReg s a 1) strideB (64 * matWidth fb / 8), scaleWin s (blockReg s a 3) fb 64 with
    | some wb, some wsb => some (matCmd s (.mmax fa fb (z % 16) (z.testBit 4) (blockReg s a 2)) tile (noWin s) wb (noWin s) wsb 0 strideB)
    | _, _ => none

/-- MMAX (R192). -/
def execMmax (a : Reg) (n x y : BitVec 4) (_l : BitVec 4) (s : State) : Result :=
  .next (matIssue [n.toNat, (blockReg s a 0).toNat % 16] (buildMmax n.toNat x.toNat y.toNat a) s)

/-- MMZ (R194). -/
def execMmz (n _l : BitVec 4) (s : State) : Result :=
  .next (matIssue [n.toNat] (fun s => some (matCmd s .mmz n.toNat (noWin s) (noWin s) (noWin s) (noWin s) 0 0)) s)

/-- The command of MMLD and MMST (R194). -/
def buildTileMove (op : MatOp) (tile len : Nat) (a : Reg) (s : State) : Option MatCmd :=
  let stride := (blockReg s a 1).toNat
  if stride % 16 ≠ 0 || stride < len then none
  else (winRange s (blockReg s a 0).toNat (63 * stride + len) 16).map (fun w => matCmd s op tile w (noWin s) (noWin s) (noWin s) stride 0)

/-- MMLD (R194). -/
def execMmld (a : Reg) (n _l : BitVec 4) (s : State) : Result := .next (matIssue [n.toNat] (buildTileMove .mmld n.toNat 256 a) s)

/-- MMST's row length (R194). -/
def storeLen (f : BitVec 4) : Nat := 64 * matWidth f.toNat / 8

/-- MMST (R194). -/
def execMmst (a : Reg) (n f _l : BitVec 4) (s : State) : Result :=
  .next (matIssue [n.toNat] (fun s => buildTileMove (.mmst f.toNat false (blockReg s a 2)) n.toNat (storeLen f) a s) s)

/-- MMST.RELU (R194). -/
def execMmstRelu (a : Reg) (n f _l : BitVec 4) (s : State) : Result :=
  .next (matIssue [n.toNat] (fun s => buildTileMove (.mmst f.toNat true (blockReg s a 2)) n.toNat (storeLen f) a s) s)

end Sys2Proof.Machine
end

