-- ==== Sys2Proof/Machine/EngineMem.lean ====
section
/-! DEFINITION. How an engine command reads and writes global addresses and scratch (06 R106; 08 R165, R166, R173; 09 R184, R196). -/

namespace Sys2Proof.Machine

/-- Whether n bytes from an address lie in the global aperture (R94). -/
def globalRange (a : DWord) (n : Nat) : Bool :=
  let top := fieldNat a 56 8
  (top == 0x00 || top == 0xFF) && decide (fieldNat a 0 56 + n ≤ 2 ^ 56)

/-- An engine access to a global address: translated first, its page requests answered (R165, R166). -/
def engGlobal (e : Eng) (need : Nat) (va : Nat) (k : Nat → State → Got × State) (s : State) : Got × State :=
  match engTranslate (engDie e) e.pasid e.id va need s with
  | (.phys pa, s) => k pa s
  | (.later, s) => (.later, s)
  | (.fault code, s) => (.fault code, s)

/-- Whether one of the runs of 128 bytes that n bytes of a window lie in has failed (R173). -/
def runsFailed (s : State) (k : StandKey) (off n : Nat) : Bool :=
  (List.range (if n = 0 then 1 else (off + n - 1) / 128 - off / 128 + 1)).any (fun i => runFailed s k (off / 128 * 128 + 128 * i))

/-- n bytes of a window that an operation may reach (R106, R173, R196). -/
def winRead (e : Eng) (w : WinPos) (off n : Nat) (s : State) : Got :=
  if !winReach s e.cluster e.stand w.key then .fault 0x0F
  else if runsFailed s w.key (w.off + off) n then .fault 0x0B
  else .ok (scratchRead (.win w.key (w.off + off)) n s)

/-- The state with n bytes of a window written, or the fault of reaching it. -/
def winWrite (e : Eng) (w : WinPos) (off n v : Nat) (s : State) : Got × State :=
  if winReach s e.cluster e.stand w.key then (.ok 0, scratchWrite (.win w.key (w.off + off)) n v s) else (.fault 0x0F, s)

/-- n bytes from a global address. -/
def engRead (e : Eng) (a : DWord) (n : Nat) (s : State) : Got × State :=
  readPieces (fun off len s => engGlobal e 1 (a.toNat + off) (fun pa s => engReadPhys e pa len s) s) (linePieces (n + 1) a.toNat 0 n) s

/-- n bytes to a global address. -/
def engWrite (e : Eng) (a : DWord) (n v : Nat) (s : State) : Got × State :=
  writePieces (fun off len v s => engGlobal e 2 (a.toNat + off) (fun pa s => engWritePhys e pa len v s) s) v (linePieces (n + 1) a.toNat 0 n) s

end Sys2Proof.Machine
end

