-- ==== Sys2Proof/Machine/Queues.lean ====
section
/-! DEFINITION. Kick pages, the fetch of launch records, the end of level groups and launches, and completion records (02 R40; 03 R45 to R47; 12 R258 to R263). -/

namespace Sys2Proof.Machine

/-! ### Kick pages (R258) -/

/-- The state after a queue's TAIL has been written. -/
def writeTail (q : Queue) (t : Word) (s : State) : State :=
  let ahead := (t - q.head).toNat
  if ahead ≤ 2 ^ q.q && decide ((q.tail - q.head).toNat ≤ ahead) then setQueue q.num (fun x => { x with tail := t }) s
  else journalEntry 6 q.num.toNat t.toNat 1 (setQueue q.num (fun x => { x with state := 2, errored := true }) s)

/-- TAIL_WRITE (R258). -/
def execTailWrite (q : QueueNo) (t : Word) (s : State) : Result :=
  .next (match findQueue s q with
    | some x => writeTail x t s
    | none => s)

/-- The state after a queue's CHEAD has been written. -/
def writeChead (q : Queue) (h : Word) (s : State) : State :=
  if (h - q.chead).toNat ≤ (q.written - q.chead).toNat then setQueue q.num (fun x => { x with chead := h }) s
  else journalEntry 6 q.num.toNat h.toNat 2 s

/-- CHEAD_WRITE (R258). -/
def execCheadWrite (q : QueueNo) (h : Word) (s : State) : Result :=
  .next (match findQueue s q with
    | some x => writeChead x h s
    | none => s)

/-! ### The dispatcher's own accesses (R258, R261) -/

/-- The accesses of the dispatcher for a queue's ring, at package scope; they enter memory on die 0 as those of the host die do (R232). -/
def ringEng (q : Queue) : Eng :=
  { id := 2 ^ 200 + q.num.toNat, cluster := 0, pasid := q.pasid, scope := 3, stand := { queue := q.num, seq := 0, num := 0 } }
/-- The accesses of the dispatcher for a queue's completion ring. -/
def compEng (q : Queue) : Eng := { ringEng q with id := 2 ^ 201 + q.num.toNat }

/-! ### The end of a launch (R40, R45, R47, R261) -/

/-- The state with a completion entered: its journal entry is made, and its record waits to be written (R261, R263). -/
def complete (q : QueueNo) (seq a : Nat) (tag : Word) (status code : Nat) (extra : Word) (cint : Bool) (s : State) : State :=
  let c : Completion := { queue := q, seq := seq, tag := tag, status := status, code := code, extra := extra, jseq := s.mgmt.journalSeq, cint := cint }
  let s := journalEntry 3 q.toNat a (status % 256 + 256 * (code % 256)) s
  { s with completions := s.completions ++ [c] }

/-- The state with every launch that depends on one that failed marked: what it has not placed is not placed (R47). -/
def failDependents (q : QueueNo) (seq : Nat) (s : State) : State :=
  let hit := fun (l : Launch) => !l.done && (recDeps l.record).any (fun d => d.queue == q && d.seq == seq && !l.cleared.contains d.index)
  let ls := s.launches.filter hit
  ls.foldl (fun s l => unreserve l.queue l.seq s) { s with launches := modifyWhere hit (fun l => { l with depFailed := true }) s.launches }

/-- The state after a launch has completed with a STATUS and CODE (R40, R261). -/
def finishLaunch (l : Launch) (status code : Nat) (s : State) : State :=
  let s := unreserve l.queue l.seq (setLaunch l.queue l.seq (fun l => { l with done := true, outcome := some (status, code) }) s)
  let s := complete l.queue l.seq l.seq (recTag l.record) status code 0 (recFlag l.record 3) s
  if status = 0 then s else failDependents l.queue l.seq s

/-- Whether an engine operation of some stands is still to complete (R40, R46). -/
def enginesBusy (mine : StandKey → Bool) (s : State) : Bool :=
  s.parts.toList.any (fun p => p.mq.any (fun m => mine m.stand)) || s.clusters.toList.any (fun c => c.copies.any (fun x => x.slices.any (fun y => mine y.stand))) ||
    s.dies.toList.any (fun d => d.gathers.any (fun g => mine g.stand)) || s.quads.toList.any (fun es => es.any (fun e => mine e.stand))

/-- Whether a contribution of a launch waits for a reduction unit. -/
def contributionsBusy (q : QueueNo) (seq : Nat) (s : State) : Bool := s.dies.toList.any (fun d => d.rdx.any (fun k => k.launch == some (q, seq)))

/-- The clusters of the package. -/
def allClusters : List ClusterId := (List.range 64).map (fun i => BitVec.ofNat 6 i)

/-- A release at package scope from every cluster (R45, R46): the state, and whether nothing of the package's own lines is still dirty. -/
def releasePackage (s : State) : Bool × State :=
  let s := allClusters.foldl (fun s c => writeBackReach c 3 s) s
  (allClusters.all (fun c => reachClean s c 3), s)

/-- LEVEL_GROUP_COMPLETE (R46): every stand of the group has ended, and its engine operations; the group releases at package scope. -/
def execLevelGroupComplete (q : QueueNo) (seq level group : Nat) (s : State) : Result :=
  .next (match findLaunch s q seq with
    | none => s
    | some l =>
      let mine := fun (k : StandKey) => ofLaunch q seq k && inGroup l.record level group k
      if level < 2 || decide (5 < level) || !hasGroup l.record level group || l.groups.contains (level, group) || !groupPlaced l level group ||
          s.stands.any (fun x => mine x.key) || enginesBusy mine s || contributionsBusy q seq s then s
      else match releasePackage s with
        | (true, s) => setLaunch q seq (fun l => { l with groups := l.groups ++ [(level, group)] }) s
        | (false, s) => s)

/-- Whether no more stands of a launch will be placed. -/
def placementOver (l : Launch) : Bool := decide (gangCount l.record ≤ l.nextGang) || l.depFailed || l.outcome.isSome

/-- Whether a core dump of a launch is still to be written: its completion record follows the dump (R183). -/
def dumpOut (q : QueueNo) (seq : Nat) (s : State) : Bool := s.devWrites.any (fun w => match w.dump with
  | some (q', seq', _, _) => q' == q && seq' == seq
  | none => false)

/-- LAUNCH_COMPLETE (R40, R45): every stand has ended and every engine operation; then the release at package scope. -/
def execLaunchComplete (q : QueueNo) (seq : Nat) (s : State) : Result :=
  .next (match findLaunch s q seq with
    | none => s
    | some l =>
      if l.done || !placementOver l || l.ended != l.placed || dumpOut q seq s || enginesBusy (ofLaunch q seq) s || contributionsBusy q seq s then s
      else match releasePackage s with
        | (false, s) => s
        | (true, s) => match l.outcome with
          | some (status, code) => finishLaunch l status code s
          | none => if l.depFailed then finishLaunch l 3 0 s else finishLaunch l 0 0 s)

/-! ### LAUNCH_RECORD_FETCH (R45, R258, R260, R263) -/

/-- The STATUS with which a record is refused as a queue's next launch; 0 when it is accepted (R260). -/
def refusalStatus (s : State) (q : Queue) (seq : Nat) (r : BitVec 1024) : Nat :=
  if !recordOk r then 1
  else if !fitsEmpty s q r then 2
  else if (recDeps r).all (depOk s q seq r) then 0
  else 3

/-- The state after a queue's next record has been read. -/
def acceptRecord (q : Queue) (r : BitVec 1024) (s : State) : State :=
  let seq := q.nextSeq
  let l : Launch := { queue := q.num, seq := seq, record := r, order := none, nextGang := 0, placed := 0, ended := 0, depFailed := false, groups := []
                      cleared := [], outcome := none, done := false, written := false }
  let s := setQueue q.num (fun x => { x with head := x.head + 1, nextSeq := x.nextSeq + 1 }) s
  let s := journalEntry 1 q.num.toNat seq 0 { s with launches := s.launches ++ [l] }
  match refusalStatus s q seq r with
  | 0 => s
  | status => finishLaunch l status 0 s

/-- Whether a user queue has a record to fetch (R258): after an error it fetches nothing until RESUMEQ. -/
def hasRecord (q : Queue) : Bool := q.live && q.num != 0 && !q.errored && q.destroying.isNone && q.head != q.tail

/-- LAUNCH_RECORD_FETCH (R258): the record is read as one 128-byte read in the queue's PASID; while it cannot be read the queue makes no progress. -/
def execLaunchRecordFetch (q : QueueNo) (s : State) : Result :=
  .next (match findQueue s q with
    | none => s
    | some x =>
      if !hasRecord x then s
      else
        let a : DWord := BitVec.ofNat 64 (x.ring + 128 * (x.head.toNat % 2 ^ x.q))
        match engRead (ringEng x) a 128 s with
        | (.ok v, s) => acceptRecord x (BitVec.ofNat 1024 v) (forgetEng (ringEng x).id s)
        | (.later, s) => s
        | (.fault _, s) => forgetEng (ringEng x).id s)

/-! ### COMPLETION_RECORD_WRITE (R261) -/

/-- The 32 bytes of a completion record, at the written count it takes. SEQ of a record of queue 0 is not stated: a free value. -/
def completionBytes (q : Queue) (c : Completion) (free : Nat) : Nat :=
  let phase := if q.written.toNat / 2 ^ q.c % 2 = 0 then 1 else 0
  let seq := if q.num = 0 then (Config.freeWord free).toNat + 2 ^ 32 * (Config.freeWord (free + 1)).toNat else c.seq % 2 ^ 64
  seq + 2 ^ 64 * c.tag.toNat + 2 ^ 96 * (c.status % 256) + 2 ^ 104 * (c.code % 256) + 2 ^ 112 * phase + 2 ^ 128 * (c.jseq % 2 ^ 64) + 2 ^ 192 * c.extra.toNat

/-- The state after a record has been written: the count rises, its launch counts as completed for its queue (R45), and the vector is raised. -/
def recordWritten (q : Queue) (c : Completion) (s : State) : State :=
  let s := setQueue q.num (fun x => { x with written := x.written + 1 }) { s with completions := s.completions.erase c }
  let s := if q.num = 0 then s else setLaunch c.queue c.seq (fun l => { l with written := true }) s
  match q.vector with
  | some v => if c.status != 0 || c.cint then raiseMsix v s else s
  | none => s

/-- The state after a queue's next completion record has been written, where its ring has room. -/
def writeRecord (q : Queue) (c : Completion) (s : State) : State :=
  let at_ := q.comp + 32 * (q.written.toNat % 2 ^ q.c)
  let v := completionBytes q c s.tick
  let e := compEng q
  match (if q.num = 0 then engWritePhys e at_ 32 v s else engWrite e (BitVec.ofNat 64 at_) 32 v s) with
  | (.ok _, s) => recordWritten q c (forgetEng e.id { s with tick := s.tick + 2 })
  | (.later, s) => s
  | (.fault _, s) =>
    let s := forgetEng e.id s
    if q.destroying.isSome then { s with completions := s.completions.filter (fun x => x.queue != q.num) } else s

/-- COMPLETION_RECORD_WRITE (R261): a full ring withholds the record. -/
def execCompletionRecordWrite (q : QueueNo) (s : State) : Result :=
  .next (match findQueue s q, s.completions.find? (fun c => c.queue == q) with
    | some x, some c => if (x.written - x.chead).toNat = 2 ^ x.c then s else writeRecord x c s
    | _, _ => s)

end Sys2Proof.Machine
end

