-- ==== Sys2Proof/Machine/Tx.lean ====
section
/-! DEFINITION. Cord transactions and the fallback lock (07 R142 to R155, R159; 15 R344). -/

namespace Sys2Proof.Machine

/-! ### The fallback lock (R152) -/

/-- The state after a holder has taken the free fallback lock: a host transaction that has taken its ticket and waits to commit is aborted with LOCKWAIT. -/
def takeLock (h : LockHolder) (s : State) : State :=
  flushHosts (mapHosts (fun x => if x.active && x.ticket.isSome then abortedHost 10 0 x else x)
    { s with almanac := { s.almanac with lock := h, waiters := s.almanac.waiters.filter (fun w => w != h) } })

/-- The state with the lock free. -/
def releaseLock (s : State) : State := { s with almanac := { s.almanac with lock := .free } }

/-- The state with a holder among those that wait for the lock. -/
def awaitLock (h : LockHolder) (s : State) : State :=
  if s.almanac.waiters.contains h then s else { s with almanac := { s.almanac with waiters := s.almanac.waiters ++ [h] } }

/-- FALLBACK_LOCK_TAKE (R152): the next waiter takes the free lock. -/
def execFallbackLockTake (s : State) : Result :=
  .next (match s.almanac.lock, s.almanac.waiters with
    | .free, w :: _ => takeLock w s
    | _, _ => s)

/-! ### TXB (R147, R149, R152) -/

/-- A lane as it enters a body. -/
def enterLane (l : Nat) : LaneTx := { lane := l, doomed := none, reads := [], writes := [] }

/-- The trap of a first TXB, or 0 (R147): the lowest of the codes that apply. -/
def txbCode (s : State) (v : Nat) (target : Word) : Nat :=
  if 6 < entriesUsed s.cord then 1
  else if target.toNat % 4 ≠ 0 then 2
  else if s.cord.alloc ≤ v then 3
  else 0

/-- A TXB acts as an acquiring load at package scope (R159). -/
def txAcquire (s : State) : State := dropReach (thisCluster s) 3 s

/-- The state after a first TXB whose lanes enter the body (R147). -/
def txbFirst (fb : Bool) (v : VReg) (target : Word) (n : Nat) (s : State) : State :=
  let t := s.cord.frag.tx
  let ls := (lanesOf s.cord.frag.mask).map enterLane
  let kept := t.lanes.filter (fun l => !s.cord.frag.mask.getLsbD l.lane)
  let rec_ : TxRec :=
    { restart := s.cord.frag.pc, target := target, budget := n, fb := fb, vreg := v, attempt := 1, qarm := false, lock := false
      lanes := kept ++ ls, fallback := [], reserved := true, split := s.cord.nextId, spec := 1
      nested := if t.reserved then t.split :: t.nested else t.nested }
  advance (txAcquire (setCord (fun c => { c with nextId := c.nextId + 1, frag := { c.frag with tx := rec_ } }) s))

/-- The state after a retry entry (R149): the attempt number rises, and the lanes of a list enter the body. -/
def txbRetry (ls : List Nat) (lock : Bool) (s : State) : State :=
  advance (txAcquire (setFrag (fun f =>
    { f with mask := maskOf ls &&& f.owned, tx := { f.tx with attempt := min 15 (f.tx.attempt + 1), spec := (if lock then f.tx.spec else min 15 (f.tx.spec + 1)), lock := lock, lanes := ls.map enterLane } }) s))

/-- The holder that a fallback lane of the acting fragment is. -/
def laneHolder (s : State) (l : Nat) : LockHolder := .cord s.cord.id s.cord.frag.id l

/-- TXB in a retry arm (R149, R152): its fallback lanes run first, one at a time, under the lock. -/
def txbAgain (s : State) : State :=
  match s.cord.frag.tx.fallback with
  | [] => txbRetry (lanesOf s.cord.frag.mask) false s
  | l :: _ =>
    if s.almanac.lock = laneHolder s l then txbRetry [l] true s
    else if s.almanac.lock = .free && s.almanac.waiters.isEmpty then txbRetry [l] true (takeLock (laneHolder s l) s)
    else wait 15 (awaitLock (laneHolder s l) s)

/-- The active lanes of the acting fragment that are in a body. -/
def activeTx (s : State) : List Nat := (s.cord.frag.tx.lanes.map (fun t => t.lane)).filter (fun l => s.cord.frag.mask.getLsbD l)

/-- TXB and TXB.F: a lane already in a body is doomed with NEST, before anything else of the pseudocode (R147). A TXB that a fallback run executes only goes on: R147 and
R152 name no case for it (DESIGN CHOICE, log entry 59). -/
def txBegin (fb : Bool) (d a : Reg) (n : BitVec 4) (s : State) : State :=
  let v : VReg := (reg s d).setWidth 8
  let target := reg s a
  let nested := activeTx s
  if s.cord.frag.tx.lock then advance s
  else
    let s := setFrag (fun f => doomLanes nested 9 0 { f with mask := f.mask &&& ~~~maskOf nested }) s
    if s.cord.frag.tx.qarm then (if !nested.isEmpty && s.cord.frag.mask = 0 then advance s else txbAgain s)
    else match txbCode s v.toNat target with
      | 0 => txbFirst fb v target n.toNat s
      | 3 => raiseOwn 3 s
      | code => raiseScalar code s

/-- TXB (R147). -/
def execTxb (d a : Reg) (n : BitVec 4) (s : State) : Result := .next (txBegin false d a n s)
/-- TXB.F (R147). -/
def execTxbF (d a : Reg) (n : BitVec 4) (s : State) : Result := .next (txBegin true d a n s)

/-- TXA (R150): every active transactional lane is doomed with EXPLICIT and the code. -/
def execTxa (c : BitVec 6) (s : State) : Result := .next (advance (setFrag (doomLanes (activeTx s) 6 c.toNat) s))

/-- Whether transactional accesses of a fragment have not returned (R146). -/
def txPending (c : Cord) (frag : Nat) : Bool :=
  c.flights.any (fun f => f.frag == frag && f.lanes.any (fun l => l.mode != 0 && !(settled l || hasFailed l)))

/-- TXST (R146). -/
def execTxst (d : Reg) (s : State) : Result :=
  .next (if txPending s.cord s.cord.frag.id then wait 15 s else result d (txStatus s.cord.frag) s)

/-! ### TXC (R149 to R152, R159) -/

/-- The status word of a lane that goes to the failure target (R144). -/
def laneStatus (t : TxRec) (cause code : Nat) : Word :=
  BitVec.ofNat 32 (code % 64 * 2 ^ 24 + t.spec % 16 * 2 ^ 16 + cause % 16 * 2 ^ 8 + (if t.fb then 4 else 0) + (if retryable cause then 2 else 0))

/-- Where a lane goes at its TXC: it passes, or it failed with a cause and a code. -/
inductive TxOutcome where
  | pass
  | failed (cause code : Nat)
  deriving DecidableEq, Repr

/-- The state after a lane's buffered bytes have been published at their owning slices (R149). -/
def publish (t : LaneTx) (s : State) : State :=
  t.writes.foldl (fun s w =>
    let s := touchSlice (cordAgent s) 1 w.1 4 s
    { s with mem := memWriteMask s.mem w.1 4 w.2.1.toNat w.2.2.toNat }) s

/-- A lane's outcome and the state after it (R149): every logged word still holds its logged value. -/
def judge (lock : Bool) (t : LaneTx) (s : State) : TxOutcome × State :=
  match t.doomed with
  | some (cause, code) => (.failed cause code, s)
  | none =>
    if lock then (.pass, s)
    else if t.reads.all (fun r => memRead s.mem r.1 4 == r.2.toNat) then (.pass, publish t s)
    else (.failed 1 0, s)

/-- The outcomes of lanes in ticket order (R149). -/
def judgeAll (lock : Bool) : List LaneTx → State → List (Nat × TxOutcome) × State
  | [], s => ([], s)
  | t :: ts, s =>
    let (o, s) := judge lock t s
    let (os, s) := judgeAll lock ts s
    ((t.lane, o) :: os, s)

/-- The addresses that the lanes of a TXC have logged or buffered. -/
def txAddrs (f : Fragment) : List Nat :=
  (f.tx.lanes.filter (fun t => t.doomed.isNone)).flatMap (fun t => t.reads.map (fun r => r.1) ++ t.writes.map (fun w => w.1))

/-- The state in which the lines of a TXC can be locked at their slices; none while partners' copies are still called back (R149, R234). -/
def lockLines (s : State) : Option State × State :=
  (txAddrs s.cord.frag).foldl (fun p a => match claimLine (lineOf a) true none p.2 with
    | some s' => (none, s')
    | none => if movingNow p.2 (gfnOf a) then (none, p.2) else p) (some s, s)

/-- The lanes that each arm receives (R149): passing, to retry, as fallback lanes, to the failure target. -/
structure TxSplit where
  pass : List Nat
  retry : List Nat
  fall : List Nat
  fail : List (Nat × Word)
  deriving DecidableEq, Repr

/-- Where each lane goes (R149). -/
def sortLanes (t : TxRec) (os : List (Nat × TxOutcome)) : TxSplit :=
  os.foldl (fun x o => match o.2 with
    | .pass => { x with pass := x.pass ++ [o.1] }
    | .failed cause code =>
      if retryable cause && t.attempt < t.budget then { x with retry := x.retry ++ [o.1] }
      else if t.fb && cause != 6 then { x with fall := x.fall ++ [o.1] }
      else { x with fail := x.fail ++ [(o.1, laneStatus t cause code)] }) { pass := [], retry := [], fall := [], fail := [] }

/-- The cord with status words written to the status lane register. -/
def writeStatus (v : VReg) (ls : List (Nat × Word)) (c : Cord) : Cord := ls.foldl (fun c l => setLane c v l.1 l.2) c

/-- A fragment that a TXC makes: an arm of the transaction's split. -/
def txArm (f : Fragment) (id split side : Nat) (top : Bool) (pc join : Word) (ls : Mask) (st : FragStatus) (t : TxRec) (outer : List Arm) : Fragment :=
  { f with id := id, pc := pc, after := none, mask := ls, owned := ls, bank := f.bank || top
           arms := { split := split, side := side, join := join, top := top, trans := true } :: outer, status := st, queue := []
           cyclesHi := 0, winS := [], winL := [], faults := [], tx := t }

/-- The cord after the TXC of the fragment of the first TXB (R149, R151). -/
def txcFirst (x : TxSplit) (c : Cord) : Cord :=
  let f := c.frag
  let join := f.pc + 4
  let out : TxRec := { TxRec.idle with nested := f.tx.nested }
  if x.retry.isEmpty && x.fall.isEmpty && x.fail.isEmpty then { c with frag := atPc join { f with tx := TxRec.idle } }
  else
    let top := f.arms.isEmpty
    let c := writeStatus f.tx.vreg x.fail (if top then copyBank c else c)
    let sid := c.nextId
    let q := maskOf (x.retry ++ x.fall)
    let e := maskOf (x.fail.map (fun l => l.1))
    let gone := q ||| e
    let tq := { f.tx with qarm := true, lanes := [], fallback := x.fall, reserved := false, split := sid }
    let qf := txArm f (sid + 1) sid 1 top f.tx.restart join q .running tq f.arms
    let ef := txArm f (sid + 2) sid 2 top f.tx.target join e (if q = 0 then .running else .serial) out f.arms
    let parms : List Arm := { split := sid, side := 0, join := join, top := top, trans := true } :: f.arms
    let pf : Fragment :=
      { f with pc := join, after := none, mask := f.mask &&& ~~~gone, owned := f.owned &&& ~~~gone, tx := out, status := .atJoin, arms := parms }
    let qe := (if q = 0 then [] else [qf]) ++ (if e = 0 then [] else [if q = 0 then recheck ef else ef])
    let c := { c with nextId := sid + 3 }
    if pf.owned == 0 then match qe with
      | g :: gs => { c with frag := g, frags := gs ++ c.frags }
      | [] => c
    else { c with frag := pf, frags := qe ++ c.frags }

/-- The cord with lanes moved into the arm on a side of a transaction's split, made where it does not exist. -/
def moveLanes (split side : Nat) (ls act : Mask) (fresh : Fragment) (c : Cord) : Cord :=
  if ls = 0 then c
  else if (allFrags c).any (fun f => headSplit split f && sideOf split f == side) then
    mapFrags (fun f => if headSplit split f && sideOf split f == side then { f with owned := f.owned ||| ls, mask := f.mask ||| act } else f) c
  else { c with frags := c.frags ++ [{ fresh with id := c.nextId, owned := ls, mask := act }], nextId := c.nextId + 1 }

/-- The cord after the TXC of a retry arm (R149, R152): passing lanes move into P, failing ones into E, the others run again. -/
def txcAgain (x : TxSplit) (c : Cord) : Cord :=
  let f := c.frag
  let t := f.tx
  let sid := t.split
  let arm := (f.arms.find? (fun a => a.split == sid)).getD { split := sid, side := 1, join := f.pc + 4, top := false, trans := true }
  let outer := (f.arms.dropWhile (fun a => a.split != sid)).tail
  let p := maskOf x.pass
  let e := maskOf (x.fail.map (fun l => l.1))
  let ran := t.lanes.map (fun l => l.lane)
  let fall := t.fallback.filter (fun l => !ran.contains l) ++ x.fall
  let out : TxRec := { TxRec.idle with nested := t.nested }
  let pf := { txArm f 0 sid 0 arm.top arm.join arm.join p .atJoin out outer with bank := f.bank && !arm.top }
  let ef := txArm f 0 sid 2 arm.top t.target arm.join e .serial out outer
  let c := writeStatus t.vreg x.fail c
  let keep := f.owned &&& ~~~(p ||| e)
  let c := moveLanes sid 2 e e ef (moveLanes sid 0 p (p &&& f.mask) pf c)
  let g := { c.frag with pc := t.restart, after := none, status := .running, mask := keep, owned := keep
                         tx := { t with lock := false, lanes := [], fallback := sortList (fun a b => decide (a ≤ b)) fall } }
  if keep = 0 then endArm { c with frag := { g with arms := { arm with side := 1 } :: outer } }
  else { c with frag := g }

/-- The state after the commit has been judged: a block of tickets, the outcomes, the lock released, the arms. -/
def txcJudge (s : State) : State :=
  let t := s.cord.frag.tx
  let s := { s with almanac := { s.almanac with tickets := s.almanac.tickets + t.lanes.length } }
  let lanes := sortList (fun a b => decide (a.lane ≤ b.lane)) t.lanes
  let (os, s) := judgeAll t.lock lanes s
  let x := sortLanes t os
  let s := if t.lock then releaseLock s else s
  let s := if x.pass.isEmpty then s else txAcquire s
  setCord (if t.qarm then txcAgain x else txcFirst x) s

/-- Whether a ticket that the almanac issued before a number is still to commit: commits are performed in ticket order (R159). -/
def earlierTicket (s : State) (n : Nat) : Bool := s.hosts.toList.any (fun h => h.active && (match h.ticket with
  | some k => decide (k < n)
  | none => false))

/-- The state after the TXC of a fragment with no lane in a body: no effect, but that two entries which a first TXB with an all-zero mask reserved are freed (R149, R344). A reservation
of a body that lanes of another fragment are in stays. -/
def txcEmpty (s : State) : State :=
  let t := s.cord.frag.tx
  let mine := fun (g : Fragment) => g.tx.reserved && g.tx.split == t.split
  if t.reserved && (allFrags s.cord).all (fun g => !mine g || g.tx.lanes.isEmpty) then
    setCord (mapFrags (fun g => if mine g then { g with tx := TxRec.idle } else g)) s
  else s

/-- TXC (R149, R152): it waits for the fragment's lane words and accesses, for the lock, for the commits of earlier tickets, and for the release that a publish is (R159). -/
def execTxc (s : State) : Result :=
  let f := s.cord.frag
  .next (
    if f.tx.lanes.isEmpty then advance (txcEmpty s)
    else if lanesQueued f || txPending s.cord f.id || (f.arms.isEmpty && scalarPending s.cord f.bank) then wait 15 s
    else if (s.almanac.lock != .free && !f.tx.lock) || earlierTicket s s.almanac.tickets then wait 15 s
    else match fence true false 3 s with
      | (none, s') => wait 15 s'
      | (some s', _) => match lockLines s' with
        | (none, s'') => wait 15 s''
        | (some s'', _) => txcJudge s'')

end Sys2Proof.Machine
end

