-- ==== Sys2Proof/Machine/HostCores.lean ====
section
/-! DEFINITION. Host cores: transactions, the fallback lock and plain accesses (06 R124, R131; 07 R143 to R145, R152 to R159; 14 R319, R320). -/

namespace Sys2Proof.Machine

/-- The acting host core. -/
def thisHost (s : State) : HostCore := s.hosts[s.hostNo.val]'s.hostNo.isLt
/-- The state with the acting host core changed. -/
def setHost (f : HostCore → HostCore) (s : State) : State := { s with hosts := s.hosts.set s.hostNo.val (f (thisHost s)) s.hostNo.isLt }
/-- The state with a host core made the one that acts. -/
def selectHost (h : HostNo) (s : State) : State := { s with hostNo := h }
/-- A host core after its custom-0 word: the next word. -/
def hostNext (h : HostCore) : HostCore := { h with pc := h.pc + 4 }
/-- A host core with x[rd] written. -/
def hostX (rd : BitVec 5) (v : DWord) (h : HostCore) : HostCore := { h with regs := writeX h.regs rd v }

/-- A read or write of a line by the acting host core aborts the other host transactions that it conflicts with (R157). Its own is out of the way meanwhile: the accesses and the words
of the core that wait stay. -/
def hostClash (line : Nat) (isWrite : Bool) (s : State) : State :=
  let me := thisHost s
  setHost (fun _ => me) (hostConflict line isWrite (setHost (fun h => { h with active := false }) s))

/-- The agent of a host core's access at a slice (R270). -/
def hostAgent (s : State) : Agent := { cls := 0, pkg := s.fabric.num }

/-- The state after the acting host core's transaction has aborted with a cause and a code (R156). -/
def abortHost (cause code : Nat) (s : State) : State := flushHosts (setHost (abortedHost cause code) s)

/-- The state after the acting host core has raised an exception of its own: in a body it aborts with FAULT and is not delivered (R155), and otherwise the core notes its cause, its
pc and its value, which its own software handles. -/
def hostException (cause : Nat) (value : DWord) (s : State) : State :=
  if (thisHost s).active then abortHost 8 0 s else setHost (fun h => { h with exc := some (cause, h.pc, value) }) s

/-! ### The instructions (R156, R319, R320) -/

/-- HTXB (R156, R319, R320). -/
def execHtxb (i : BitVec 12) (d : BitVec 5) (s : State) : Result :=
  let h := thisHost s
  let target := h.pc + (i.signExtend 64 <<< 1)
  let start := fun (h : HostCore) =>
    { hostNext (hostX d 0 h) with active := true, checkpoint := h.regs, rd := d, target := target, reads := [], writes := [], wlines := [] }
  .next (
    if h.active then abortHost 9 0 s
    else if h.lock then setHost (fun h => { hostX d ((hostStatus 0 9 false false ||| 4).setWidth 64) h with pc := target }) s
    else setHost start s)

/-- HTXB.F (R156, R319, R320): it waits for the fallback lock as R152 states. -/
def execHtxbF (d : BitVec 5) (s : State) : Result :=
  let h := thisHost s
  let me : LockHolder := .host s.hostNo
  let take := fun (h : HostCore) => { hostNext (hostX d 0 h) with lock := true, waiting := false }
  .next (
    if h.active then abortHost 7 0 s
    else if h.lock then setHost (fun h => hostNext (hostX d 0 h)) s
    else if s.almanac.lock = me then setHost take s
    else if s.almanac.lock = .free && s.almanac.waiters.isEmpty then setHost take (takeLock me s)
    else setHost (fun h => { h with waiting := true }) (awaitLock me s))

/-- The state in which the lines of a host commit are locked at their slices; none while copies are called back or a granule moves (R156, R234). -/
def lockHostLines (ls : List Nat) (s : State) : Option State × State :=
  ls.foldl (fun p l => match claimLine l true none p.2 with
    | some s' => (none, s')
    | none => if movingNow p.2 (gfnOf l) then (none, p.2) else p) (some s, s)

/-- The state after the write set of the acting host core has been published (R156, R157). -/
def hostPublish (s : State) : State :=
  let h := thisHost s
  let done := fun (h : HostCore) => { hostNext h with active := false, reads := [], writes := [], wlines := [], last := 0, waiting := false, ticket := none }
  let s := setHost done s
  let s := h.wlines.foldl (fun s l => hostClash l true s) s
  let bytes := fun (l : Nat) => (h.writes.filter (fun c => lineOf c.1 == l)).foldl (fun m c => m ||| 2 ^ (c.1 % 128)) 0
  let s := h.wlines.foldl (fun s l => touchMask (hostAgent s) 1 l (bytes l) s) s
  { s with mem := h.writes.foldl (fun m c => memSet m c.1 c.2) s.mem }

/-- The state in which the acting host core has a ticket, and its number (R156). -/
def takeTicket (s : State) : Nat × State :=
  match (thisHost s).ticket with
  | some n => (n, s)
  | none =>
    let n := s.almanac.tickets
    (n, { setHost (fun h => { h with ticket := some n }) s with almanac := { s.almanac with tickets := n + 1 } })

/-- HTXC (R156, R319): the wait for its ticket, which the almanac issues while the lock is free (R152), and the publish, which comes after those of earlier tickets (R159); or the release of
the lock. The write set is held as the bytes written. -/
def execHtxc (s : State) : Result :=
  let h := thisHost s
  .next (
    if h.lock then setHost (fun h => hostNext { h with lock := false }) (releaseLock s)
    else if !h.active then setHost hostNext s
    else
      let s := setHost (fun h => { h with waiting := true }) s
      if h.ticket.isNone && s.almanac.lock != .free then s
      else
        let (n, s) := takeTicket s
        if earlierTicket s n then s else match lockHostLines h.wlines s with
        | (none, s) => s
        | (some s, _) => hostPublish s)

/-- HTXA (R319). -/
def execHtxa (c : BitVec 6) (s : State) : Result :=
  .next (if (thisHost s).active then abortHost 6 c.toNat s else setHost hostNext s)

/-- HTXS (R319). -/
def execHtxs (d : BitVec 5) (s : State) : Result :=
  let h := thisHost s
  let st : Word := if h.active then hostStatus 0 0 false true else h.last
  .next (setHost (fun h => hostNext (hostX d (st.setWidth 64) h)) s)

/-- HOST_INTERRUPT_IN_BODY (R155): FAULT; the interrupt is taken at the fallback target. -/
def execHostInterruptInBody (n : HostNo) (s : State) : Result :=
  let s := selectHost n s
  .next (if (thisHost s).active then abortHost 8 0 s else s)

/-! ### Plain and transactional accesses (R124, R131, R153 to R157) -/

/-- The state with a host access to be tried again: its line is called back, or an answer is still to come. -/
def hostRetry (a : HostAccess) (s : State) : State := { s with hostWait := a :: s.hostWait }

/-- The new value of a host core's atomic of 4 or 8 bytes (R302). -/
def hostAtom (fn size : Nat) (old b new : DWord) : Option DWord :=
  if size = 8 then
    match fn with
    | 0 => some (old + b)
    | 1 => some (if old.slt b then old else b)
    | 2 => some (if old.slt b then b else old)
    | 3 => some (if old < b then old else b)
    | 4 => some (if old < b then b else old)
    | 5 => some (old &&& b)
    | 6 => some (old ||| b)
    | 7 => some (old ^^^ b)
    | 8 => some b
    | 9 => if old = b then some new else none
    | _ => some ((addF32 (DWord.lo old) (DWord.lo b)).setWidth 64)
  else (atomNew fn (DWord.lo old) (DWord.lo b) (DWord.lo new)).map (fun w => w.setWidth 64)

/-- Whether the acting host core's transaction would need a 65th signature pair at the slice of a line (R153). -/
def hostPairsFull (s : State) (line : Nat) : Bool :=
  let sl := sliceAt s line
  !hostTouches s sl (thisHost s) &&
    decide (64 ≤ ((allCords s).filter (cordTouches s sl)).length + (s.hosts.toList.filter (hostTouches s sl)).length)

/-- n bytes as the acting host core's transaction sees them: its own over memory's. -/
def hostSees (s : State) (pa n : Nat) : Nat :=
  let w := (thisHost s).writes
  memRead ((List.range n).foldl (fun m i => match w.find? (fun c => c.1 == pa + i) with
    | some c => memSet m (pa + i) c.2
    | none => m) s.mem) pa n

/-- The write set with n bytes recorded, every byte by its value. -/
def putBytes (w : List Host.Cell) (pa : Nat) : Nat → Nat → List Host.Cell
  | 0, _ => w
  | n + 1, v => putBytes ((pa, BitVec.ofNat 8 v) :: w.filter (fun c => c.1 != pa)) (pa + 1) n (v / 256)

/-- The state after a transactional access of a line owned here has been tracked: a value for x[rd], and a value stored (R153, R156). -/
def hostTxAccess (a : HostAccess) (pa size : Nat) (rd : Option (BitVec 5)) (st : Nat → Option Nat) (s : State) : State :=
  let line := lineOf pa
  let h := thisHost s
  let old := hostSees s pa size
  let new := st old
  let cap := (rd.isSome && !h.reads.contains line && decide (512 ≤ h.reads.length)) ||
    (new.isSome && !h.wlines.contains line && decide (64 ≤ h.wlines.length)) || hostPairsFull s line
  if cap then abortHost 2 0 s
  else match claimLine line false none s with
    | some s' => hostRetry a s'
    | none =>
      if movingNow s (gfnOf pa) then hostRetry a s
      else if rd.isSome && s.failed.contains line then hostException 5 (BitVec.ofNat 64 pa) s
      else
        let s := if rd.isSome then hostClash line false (touchSlice (hostAgent s) 0 pa size s) else s
        setHost (fun h =>
          let h := match rd with
            | some r => { hostX r (BitVec.ofNat 64 old) h with reads := if h.reads.contains line then h.reads else h.reads ++ [line] }
            | none => h
          match new with
          | some v => { h with writes := putBytes h.writes pa size v, wlines := if h.wlines.contains line then h.wlines else h.wlines ++ [line] }
          | none => h) s

/-- A line of a node partner that this package's LLC holds. -/
def heldLine (s : State) (pa : Nat) : Option PartnerLine := s.fabric.partner.find? (fun x => x.line == lineOf pa)
/-- The state with a held line of a node partner changed. -/
def setHeld (pa : Nat) (f : PartnerLine → PartnerLine) (s : State) : State :=
  { s with fabric := { s.fabric with partner := modifyWhere (fun x => x.line == lineOf pa) f s.fabric.partner } }
/-- A held line with n bytes stored. -/
def heldStore (off n v : Nat) (x : PartnerLine) : PartnerLine :=
  let l := storeLine { emptyLine x.line false with data := x.data, dirty := x.dirty } off n v
  { x with data := l.data, dirty := l.dirty }

/-- The die through which host cores send: the host die shares the owner cache of die 0 (R232). -/
def hostSend (p : PkgNo) (op size fn pa : Nat) (payload : List Byte) (w : Waiter) (s : State) : Option (BitVec 14) × State :=
  sendReq { die := 4, dst := p, op := op, size := size, scope := 5, fn := fn, pasid := 0, addr := pa, payload := payload, waiter := w } s

/-- A host core's load of another package's memory: from the held copy of a node partner's line, or from the owner (R124). -/
def hostFarLoad (a : HostAccess) (rd : BitVec 5) (p : PkgNo) (pa size : Nat) (s : State) : State :=
  let whole := fun (x : PartnerLine) => !x.modified || (x.dirty.toNat &&& spanMask (pa % 128) size) == spanMask (pa % 128) size
  match ((heldLine s pa).filter whole).filter (fun x => x.owner == p) with
  | some x => setHost (hostX rd (BitVec.ofNat 64 (lineBytes { emptyLine x.line false with data := x.data } (pa % 128) size))) s
  | none => match hostSend p 0x01 size 0 pa [] (.host s.hostNo rd false) s with
    | (some _, s) => s
    | (none, s) => hostRetry a s

/-- A host core's store to another package's memory: into a line held in M, which is fetched first from a node partner, or at the owner (R124, R234). -/
def hostFarStore (a : HostAccess) (p : PkgNo) (pa size v : Nat) (s : State) : State :=
  if p != s.fabric.num && sameNode p s.fabric.num then
    match (heldLine s pa).filter (fun x => x.modified) with
    | some _ => setHeld pa (heldStore (pa % 128) size v) s
    | none => if cohOut s.fabric (lineOf pa) p then hostRetry a s else hostRetry a (hostSend p 0x0A 128 1 (lineOf pa) [] .none s).2
  else match hostSend p 0x02 size 0 pa (bytesOfNat size v) (.hostWrite s.hostNo) s with
    | (some _, s) => s
    | (none, s) => hostRetry a s

/-- A host core's access outside a transaction (R131, R158): at the owning slice here, or to another package; 0x09 and failed lines are the host core's own access-fault exceptions (causes 5 and 7). -/
def hostPlain (a : HostAccess) (pa size : Nat) (rd : Option (BitVec 5)) (kind : Nat) (st : Nat → Option Nat) (far : PkgNo → State → State) (s : State) : State :=
  let fault := hostException (if kind = 0 then 5 else 7) (BitVec.ofNat 64 pa)
  match routeOf s 0 (gfnOf pa) with
  | .away p => far p s
  | .refused _ => fault s
  | .ask r => hostRetry a (askOwner s 0 (gfnOf pa) r)
  | .hold => hostRetry a s
  | .here _ _ =>
    match reachSlice (hostAgent s) kind pa size none s with
    | (.busy, s) => hostRetry a s
    | (.refused _ _, s) => fault s
    | (.done _, s) =>
      let s := hostClash (lineOf pa) (kind != 0) s
      let old := memRead s.mem pa size
      let s := match st old with
        | some v => { s with mem := memWrite s.mem pa size v }
        | none => s
      match rd with
      | some r => setHost (hostX r (BitVec.ofNat 64 old)) s
      | none => s

/-- A transactional access by where its line is owned (R155). -/
def hostInTx (a : HostAccess) (pa size : Nat) (rd : Option (BitVec 5)) (st : Nat → Option Nat) (s : State) : State :=
  match resolve s 0 (gfnOf pa) with
  | .here _ _ => hostTxAccess a pa size rd st s
  | .away _ => abortHost 3 0 s
  | .refused _ => hostException (if rd.isSome then 5 else 7) (BitVec.ofNat 64 pa) s
  | .ask r => hostRetry a (askOwner s 0 (gfnOf pa) r)
  | .hold => hostRetry a s

/-- An access inside a transaction or outside one. -/
def hostReach (a : HostAccess) (pa size : Nat) (rd : Option (BitVec 5)) (kind : Nat) (st : Nat → Option Nat) (far : PkgNo → State → State) (s : State) : State :=
  if (thisHost s).active then hostInTx a pa size rd st s else hostPlain a pa size rd kind st far s

/-- Whether far accesses of a host core that a fence's predecessor set names are still out (R131): bit 0 w, bit 1 r; an atomic is both. -/
def hostOut (h : HostNo) (pred : BitVec 4) (s : State) : Bool :=
  s.fabric.outstanding.any (fun o => match o.waiter with
    | .host h' _ _ => h' == h && (pred.getLsbD 1 || (pred.getLsbD 0 && o.op == 0x04))
    | .hostWrite h' => h' == h && pred.getLsbD 0
    | _ => false)

/-- Whether an acquiring atomic of a host core is still out: the accesses that follow it wait (R131). -/
def hostHolds (h : HostNo) (s : State) : Bool :=
  s.fabric.outstanding.any (fun o => match o.waiter with
    | .host h' _ hold => h' == h && hold
    | _ => false)

/-- Whether a load or an atomic of a host core is still out: a custom-0 word of it waits for its value, which a checkpoint saves (R156). -/
def hostLoading (h : HostNo) (s : State) : Bool :=
  s.fabric.outstanding.any (fun o => match o.waiter with
    | .host h' _ _ => h' == h
    | _ => false)

/-- A host core's registers with one of a file written: 0 x, 1 f, 2 v. -/
def writeFile (file : BitVec 2) (r : BitVec 5) (v : BitVec 256) (x : HostRegs) : HostRegs :=
  match file.toNat with
  | 0 => writeX x r (v.setWidth 64)
  | 1 => { x with f := x.f.set r.toNat (v.setWidth 64) r.isLt }
  | _ => { x with v := x.v.set r.toNat v r.isLt }

/-- How many invalidations have completed: all four dies have finished them (R162). -/
def invalsDone (s : State) : Nat := (s.dies.toList.map (fun d => d.invDone)).foldl min (s.dies.toList.headD Die.reset).invDone

/-- The state after an IOFENCE.C of a host core has been looked at: the IOMMU reports it complete once every invalidation that it forwarded before is (R162). -/
def hostFence (a : HostAccess) (h : HostNo) (s : State) : State :=
  let upto := ((s.iommu.fences.find? (fun x => x.1 == h)).map (fun x => x.2)).getD (s.iommu.sent + s.iommu.queue.length)
  let rest := s.iommu.fences.filter (fun x => x.1 != h)
  if upto ≤ invalsDone s then { s with iommu := { s.iommu with fences := rest } }
  else hostRetry a { s with iommu := { s.iommu with fences := (h, upto) :: rest } }

/-- The queue whose kick page lies at an offset of BAR 0, and the offset in it (R257). -/
def kickPage (off : Nat) : QueueNo × Nat := (BitVec.ofNat 14 (off / 4096), off % 4096)

/-- What a register of a kick page reads (R258): TAIL is write-only. -/
def kickRead (s : State) (off : Nat) : Word :=
  match findQueue s (kickPage off).1, (kickPage off).2 with
  | some q, 4 => q.head
  | some q, 8 => q.chead
  | some q, 12 => BitVec.ofNat 32 q.state
  | _, _ => 0

/-- The state after a register of a kick page has been written (R258). -/
def kickWrite (off : Nat) (v : Word) (s : State) : State :=
  match findQueue s (kickPage off).1, (kickPage off).2 with
  | some q, 0 => writeTail q v s
  | some q, 8 => writeChead q v s
  | _, _ => s

/-- The entry of a vector in the MSI-X table: one that the host has not written is masked (R257; log entry 67). -/
def msixEntry (s : State) (v : Nat) : MsixEntry := (s.mgmt.msixTable.find? (fun e => e.vector == v)).getD { vector := v, addr := 0, data := 0, masked := true }

/-- What a register of BAR 2 reads (R257, R264, R266 to R268, R271). The spec gives none of them an offset or a layout: a table entry's data has its mask bit above it, and the mailbox reads the
record of the training failures in bits 0 to 7 and LOADFAIL in bit 8 (DESIGN CHOICE, log entry 67). -/
def barRead (s : State) : BarReg → DWord
  | .msixPending k => BitVec.ofNat 64 ((List.range 64).foldl (fun n i => n + if s.mgmt.msixPending.contains (64 * k.toNat + i) then 2 ^ i else 0) 0)
  | .msixAddr v => (msixEntry s v.toNat).addr
  | .msixData v => (msixEntry s v.toNat).data.setWidth 64 + BitVec.ofNat 64 (if (msixEntry s v.toNat).masked then 2 ^ 32 else 0)
  | .hist p n => (partOf s p).hist.getD n.toNat 0
  | .stall p n => (partOf s p).stalls.getD n.toNat 0
  | .errors cls => BitVec.ofNat 64 (((s.mgmt.errors.find? (fun e => e.cls == cls)).getD (newCount cls)).count)
  | .dropped => BitVec.ofNat 64 s.mgmt.sampleDropped
  | .mailbox => BitVec.ofNat 64 (s.mgmt.trainFails.toNat + if s.mgmt.loadFail then 256 else 0)

/-- The state after a host core's access to a BAR: uncached, so that it aborts a body (R154). -/
def hostBar (h : HostNo) (k : State → State) (s : State) : State :=
  let s := selectHost h s
  if (thisHost s).active then abortHost 7 0 s else k s

/-- The state after a host core's access has been tried. A FENCE waits for the accesses of its predecessor set that are out, and an atomic with rl for all of them (R131). The
instructions that R154 names, a CSR write among them, abort a body; registers written and jumps are the effects of other RV64 instructions (R11; log entry 34), and a host core sets the
IOMMU's device directory (R160; log entry 6). -/
def hostTry (a : HostAccess) (s : State) : State :=
  match a with
  | .load h rd pa size => let s := selectHost h s; hostReach a pa size (some rd) 0 (fun _ => none) (hostFarLoad a rd · pa size) s
  | .store h pa size v => let s := selectHost h s; hostReach a pa size none 1 (fun _ => some v.toNat) (hostFarStore a · pa size v.toNat) s
  | .atomic h rd fn pa size v new aq rl =>
    let s := selectHost h s
    let upd (old : Nat) : Option Nat := (hostAtom fn.toNat size (BitVec.ofNat 64 old) v new).map (fun w => w.toNat)
    if rl && hostOut h 3 s then hostRetry a s
    else hostReach a pa size (some rd) 2 upd (fun p s => match hostSend p 0x04 size fn.toNat pa (atPayload v new) (.host h rd aq) s with
      | (some _, s) => s
      | (none, s) => hostRetry a s) s
  | .fence h pred _ => if hostOut h pred s then hostRetry a s else s
  | .uncached h _ | .unsupported h => let s := selectHost h s; if (thisHost s).active then abortHost 7 0 s else s
  | .exception h cause v => hostException cause v (selectHost h s)
  | .writeReg h file r v => setHost (fun c => { c with regs := writeFile file r v c.regs }) (selectHost h s)
  | .jump h pc => setHost (fun c => { c with pc := pc }) (selectHost h s)
  | .writeCsr h n v =>
    let s := selectHost h s
    if (thisHost s).active then abortHost 7 0 s else setHost (fun c => { c with csrs := (n, v) :: c.csrs.filter (fun x => x.1 != n) }) s
  | .iommu _ ddtp dev => { s with iommu := { s.iommu with ddtp := ddtp, device := dev } }
  | .iofence h => hostFence a h s
  | .kickLoad h rd off => hostBar h (fun s => setHost (hostX rd ((kickRead s off.toNat).setWidth 64)) s) s
  | .kickStore h off v => hostBar h (kickWrite off.toNat v) s
  | .msix h vector addr data masked => hostBar h (writeMsix { vector := vector.toNat, addr := addr, data := data, masked := masked }) s
  | .barLoad h rd r => hostBar h (fun s => setHost (hostX rd (barRead s r)) s) s

/-- HOST_CORE_ACCESS (R131, R153 to R158); a core's later accesses wait behind one that waits. -/
def execHostCoreAccess (a : HostAccess) (s : State) : Result :=
  .next (if hostHolds (accessHost a) s || s.hostWait.any (fun b => accessHost b == accessHost a) then { s with hostWait := s.hostWait ++ [a] } else hostTry a s)

/-- The state after the oldest waiting access of a host core has been tried again. -/
def hostAgain (h : HostNo) (s : State) : State :=
  match s.hostWait.find? (fun b => accessHost b == h) with
  | none => s
  | some a => if hostHolds h s then s else hostTry a { s with hostWait := s.hostWait.erase a }

end Sys2Proof.Machine
end

