-- ==== Sys2Proof/Machine/LaneCross.lean ====
section
/-! DEFINITION. Cross-lane operations: broadcast, shuffle, rotation, reductions, prefixes and votes (04 R86, R87; 16 R367; 17 R383 to R385). -/

namespace Sys2Proof.Machine


/-- The value of A in a source lane, 0 for a lane number of 96 or more (R367, R383). -/
def fromLane (c : Cord) (o : LaneOp) (j : Nat) : Nat := if j < 96 then valA c o j else 0
/-- Broadcast of one source lane (R367). -/
def outVbcst (o : LaneOp) (c : Cord) : LaneOut :=
  let j := (if o.ss = 0 then o.imm.toNat else (cordReg c o.ss).toNat) % 128
  toVd c o (fun _ => fromLane c o j)
/-- Shuffle: each lane names its source (R383). -/
def outVshfl (o : LaneOp) (c : Cord) : LaneOut := toVd c o (fun l => fromLane c o (valB c o l % 128))
/-- Rotation by n lanes (R383). -/
def outVrot (o : LaneOp) (c : Cord) : LaneOut :=
  let n := if o.ss = 0 then o.imm.toNat else (cordReg c o.ss).toNat
  toVd c o (fun l => fromLane c o ((l + n % 96) % 96))

/-- The combining operation of VRED and VSCAN (R384). -/
def combine (t : LaneTy) (op : Nat) (a b : Nat) : Nat :=
  match op with
  | 0 => if t == .f32 then (addF32 (BitVec.ofNat 32 a) (BitVec.ofNat 32 b)).toNat else (a + b) % 2 ^ tyBits t
  | 1 => if t == .f32 then (minF32 (BitVec.ofNat 32 a) (BitVec.ofNat 32 b)).toNat else if elemInt t b < elemInt t a then b else a
  | 2 => if t == .f32 then (maxF32 (BitVec.ofNat 32 a) (BitVec.ofNat 32 b)).toNat else if elemInt t a < elemInt t b then b else a
  | 3 => a &&& b
  | 4 => a ||| b
  | _ => a ^^^ b
/-- The tree over the active lanes up to a lane (R87). -/
def laneTree (o : LaneOp) (c : Cord) (upTo : Nat) : Option Nat :=
  tree (combine o.ty o.imm.toNat) 7 (((lanesOf (activeMask c o)).filter (fun l => decide (l ≤ upTo))).map (fun l => (l, valA c o l)))
/-- Reduction into a scalar register or pair; with no active lane nothing is written (R87, R384). -/
def outVred (o : LaneOp) (c : Cord) : LaneOut :=
  match laneTree o c 95 with
  | none => LaneOut.none 0
  | some v =>
    let lo : Word := BitVec.ofNat 32 v
    let hi : Word := BitVec.ofNat 32 (v / 2 ^ 32)
    { LaneOut.none 0 with scalars := if o.ty == .i64 then [(o.ss, lo), (o.ss + 1, hi)] else [(o.ss, lo)] }
/-- Inclusive prefix of each active lane (R384). -/
def outVscan (o : LaneOp) (c : Cord) : LaneOut := toVd c o (fun l => (laneTree o c l).getD 0)
/-- Votes over the active lanes (R385). -/
def outVvote (o : LaneOp) (c : Cord) : LaneOut :=
  let act := activeMask c o
  let p := predOf c (o.va.setWidth 3)
  let q := act &&& (if o.va.getLsbD 3 then ~~~p else p)
  let w (v : Nat) : LaneOut := { LaneOut.none 0 with scalars := [(o.ss, BitVec.ofNat 32 v)] }
  match o.imm.toNat with
  | 0 => w (if q == 0 then 0 else 1)
  | 1 => w (if q == act then 1 else 0)
  | 2 => w (countLanes q)
  | 3 => w ((lanesOf q).headD 96)
  | _ => { LaneOut.none 0 with scalars := [(o.ss, maskWord q 0), (o.ss + 1, maskWord q 1), (o.ss + 2, maskWord q 2)] }


/-- VBCST (R367). -/
def execVbcst (o : LaneOp) (s : State) : Result := .next (laneAlu .vbcst outVbcst o s)
/-- VSHFL (R383). -/
def execVshfl (o : LaneOp) (s : State) : Result := .next (laneAlu .vshfl outVshfl o s)
/-- VROT (R383). -/
def execVrot (o : LaneOp) (s : State) : Result := .next (laneAlu .vrot outVrot o s)
/-- VRED (R384). -/
def execVred (o : LaneOp) (s : State) : Result := .next (laneAlu .vred outVred o s)
/-- VSCAN (R384). -/
def execVscan (o : LaneOp) (s : State) : Result := .next (laneAlu .vscan outVscan o s)
/-- VVOTE (R385). -/
def execVvote (o : LaneOp) (s : State) : Result := .next (laneAlu .vvote outVvote o s)

end Sys2Proof.Machine
end

