-- ==== Sys2Proof/Machine/LaneFloat.lean ====
section
/-! DEFINITION. Floating-point lane operations and conversions (04 R72 to R79; 16 R351 to R358). -/

namespace Sys2Proof.Machine


/-- An exact value rounded once to an element format (R72). -/
def roundElem (f : NumFmt) (r : FVal × Bool) (inv : Bool) : Nat × Bool := ((f.convert .base r.1).1, inv || r.2)

/-- A floating-point result of A, B and C with its conditions, element by element; a lane raises one when either element does (R75). -/
def floatOp (f : FVal → FVal → FVal → FVal × Bool) (o : LaneOp) (c : Cord) : LaneOut :=
  let fm := tyFmt o.ty
  let el := fun (a b d : Nat) => f (fm.value a) (fm.value b) (fm.value d)
  toVdCond c o (fun l =>
    let ps := (elems o.ty (valA c o l)).zip ((elems o.ty (valB c o l)).zip (elems o.ty (valC c o l)))
    (ofElems (ps.map (fun p => fm.round (el p.1 p.2.1 p.2.2).1)), ps.any (fun p => (el p.1 p.2.1 p.2.2).2)))

/-- a + b (R351). -/
def outVfadd : LaneOp → Cord → LaneOut := floatOp (fun a b _ => sumVals [a, b])
/-- a - b (R351). -/
def outVfsub : LaneOp → Cord → LaneOut := floatOp (fun a b _ => sumVals [a, b.negate])
/-- a x b (R351). -/
def outVfmul : LaneOp → Cord → LaneOut := floatOp (fun a b _ => mulVals a b)
/-- The exact sum of products and an addend, with the invalid condition of any of them (R75). -/
def dotVals (ps : List (FVal × FVal)) (d : FVal) : FVal × Bool :=
  let ms := ps.map (fun p => mulVals p.1 p.2)
  let r := sumVals (ms.map (fun m => m.1) ++ [d])
  (r.1, r.2 || ms.any (fun m => m.2))
/-- a x b + c, rounded once (R351). -/
def outVfma : LaneOp → Cord → LaneOut := floatOp (fun a b d => dotVals [(a, b)] d)
/-- A packed pair dot product accumulated into FP32 (R352). -/
def outDot (o : LaneOp) (c : Cord) : LaneOut :=
  let fm := tyFmt o.ty
  toVdCond c o (fun l =>
    let ps := ((elems o.ty (valA c o l)).zip (elems o.ty (valB c o l))).map (fun p => (fm.value p.1, fm.value p.2))
    let r := dotVals ps (NumFmt.value .fp32 (valC c o l))
    (NumFmt.round .fp32 r.1, r.2))
/-- The smaller operand (R73, R353). -/
def outVfmin : LaneOp → Cord → LaneOut := floatOp (fun a b _ => (fminVal a b, false))
/-- The larger operand (R73, R353). -/
def outVfmax : LaneOp → Cord → LaneOut := floatOp (fun a b _ => (fmaxVal a b, false))
/-- The magnitude of a with a chosen sign; a NaN gives the canonical NaN (R353). -/
def signElem (f : NumFmt) (v : Variant) (a b : Nat) : Nat :=
  let top := 2 ^ (f.width - 1)
  let sa := a / top % 2
  let sb := b / top % 2
  let sg := match v with
    | .alt6 => 1 - sb
    | .alt7 => (sa + sb) % 2
    | _ => sb
  if (f.value a).isNan then f.round .nan else a % top + sg * top
/-- Sign injection (R353). -/
def outVfsgn (o : LaneOp) (c : Cord) : LaneOut :=
  toVd c o (fun l => mapElems o.ty (fun a b _ => signElem (tyFmt o.ty) o.var a b) (valA c o l) (valB c o l) 0)
/-- Class masks (R354). -/
def outVfcls (o : LaneOp) (c : Cord) : LaneOut := toVd c o (fun l => mapElems o.ty (fun a _ _ => classMask (tyFmt o.ty) a) (valA c o l) 0 0)
/-- FP32 compare (R355). -/
def outVfcmp (o : LaneOp) (c : Cord) : LaneOut :=
  toPred c o (fun l => compareFloat (ccOf o) (NumFmt.value .fp32 (valA c o l)) (NumFmt.value .fp32 (valB c o l)))

/-! ### Conversions (R356 to R358) -/

/-- The source format code of VCVT (R356). -/
def cvtSrc (o : LaneOp) : NumFmt := (NumFmt.ofCode (fieldNat o.imm 0 4)).getD .fp32
/-- The destination format code of VCVT (R356). -/
def cvtDst (o : LaneOp) : NumFmt := (NumFmt.ofCode (fieldNat o.imm 8 4)).getD .fp32
/-- Element i of a register (R70). -/
def elemGet (f : NumFmt) (i x : Nat) : Nat := x / 2 ^ (f.width * i) % 2 ^ f.width
/-- A register with element i replaced; the other bits stay (R357). -/
def elemPut (f : NumFmt) (i x y : Nat) : Nat := x - elemGet f i x * 2 ^ (f.width * i) + y % 2 ^ f.width * 2 ^ (f.width * i)
/-- A value times 2^k (R358); a scale beyond 4096 puts a nonzero value beyond every format on the same side as 4096 does. -/
def scaleVal (k : Int) : FVal → FVal
  | .num n m e => .num n m (e + clampInt (-4096) 4096 k)
  | x => x
/-- The converted element and its invalid condition (R78, R79); between equal formats the value is copied (R357, log entry 12). -/
def convertElem (src dst : NumFmt) (v : Variant) (k : Option Int) (x : Nat) : Nat × Bool :=
  match k with
  | some k => dst.convert v (scaleVal k (src.value x))
  | none => if src = dst && !(src.value x).isNan then (x, false) else dst.convert v (src.value x)
/-- An element of vd replaced by a converted element of va. -/
def convertOut (scale : Nat → Option Int) (o : LaneOp) (c : Cord) : LaneOut :=
  let src := cvtSrc o
  let dst := cvtDst o
  toVdCond c o (fun l =>
    let r := convertElem src dst o.var (scale l) (elemGet src (fieldNat o.imm 4 4) (valA c o l))
    (elemPut dst (fieldNat o.imm 12 4) (valD c o l) r.1, r.2))
/-- Element conversion (R357). -/
def outVcvt (o : LaneOp) (c : Cord) : LaneOut := convertOut (fun _ => none) o c
/-- Element conversion after scaling by 2^B (R358). -/
def outVcvts (o : LaneOp) (c : Cord) : LaneOut := convertOut (fun l => some (signedOf 32 (valB c o l))) o c


/-- VFADD (R351). -/
def execVfadd (o : LaneOp) (s : State) : Result := .next (laneAlu .vfadd outVfadd o s)
/-- VFSUB (R351). -/
def execVfsub (o : LaneOp) (s : State) : Result := .next (laneAlu .vfsub outVfsub o s)
/-- VFMUL (R351). -/
def execVfmul (o : LaneOp) (s : State) : Result := .next (laneAlu .vfmul outVfmul o s)
/-- VFMA (R351). -/
def execVfma (o : LaneOp) (s : State) : Result := .next (laneAlu .vfma outVfma o s)
/-- VHFMA (R352). -/
def execVhfma (o : LaneOp) (s : State) : Result := .next (laneAlu .vhfma outDot o s)
/-- VBFMA (R352). -/
def execVbfma (o : LaneOp) (s : State) : Result := .next (laneAlu .vbfma outDot o s)
/-- VFMIN (R353). -/
def execVfmin (o : LaneOp) (s : State) : Result := .next (laneAlu .vfmin outVfmin o s)
/-- VFMAX (R353). -/
def execVfmax (o : LaneOp) (s : State) : Result := .next (laneAlu .vfmax outVfmax o s)
/-- VFSGN (R353). -/
def execVfsgn (o : LaneOp) (s : State) : Result := .next (laneAlu .vfsgn outVfsgn o s)
/-- VFCLS (R354). -/
def execVfcls (o : LaneOp) (s : State) : Result := .next (laneAlu .vfcls outVfcls o s)
/-- VFCMP (R355). -/
def execVfcmp (o : LaneOp) (s : State) : Result := .next (laneAlu .vfcmp outVfcmp o s)
/-- VCVT (R357). -/
def execVcvt (o : LaneOp) (s : State) : Result := .next (laneAlu .vcvt outVcvt o s)
/-- VCVTS (R358). -/
def execVcvts (o : LaneOp) (s : State) : Result := .next (laneAlu .vcvts outVcvts o s)

end Sys2Proof.Machine
end

