-- ==== Sys2Proof/Machine/LaneInt.lean ====
section
/-! DEFINITION. Integer lane operations, shifts, selects, moves, packing, predicates and random numbers (16 R348 to R350, 17 R368 to R379). -/

namespace Sys2Proof.Machine


/-- A register result of A and B, element by element. -/
def intAB (f : LaneTy → Variant → Nat → Nat → Nat) (o : LaneOp) (c : Cord) : LaneOut :=
  toVd c o (fun l => mapElems o.ty (fun a b _ => f o.ty o.var a b) (valA c o l) (valB c o l) 0)

/-- A register result of A alone, element by element. -/
def intA (f : LaneTy → Variant → Nat → Nat) (o : LaneOp) (c : Cord) : LaneOut :=
  toVd c o (fun l => mapElems o.ty (fun a _ _ => f o.ty o.var a) (valA c o l) 0 0)

/-- An exact result of two numbers, wrapped or clamped (R77, R370). -/
def exactAB (f : Int → Int → Int) : LaneOp → Cord → LaneOut :=
  intAB (fun t v a b => elemResult t v (f (elemInt t a) (elemInt t b)))

/-- Zero bits above the highest set bit of a w-bit element (R348). -/
def clzOf (w a : Nat) : Nat := if a = 0 then w else w - 1 - Nat.log2 a
/-- Set bits of a w-bit element (R370). -/
def popOf (w a : Nat) : Nat := ((List.range w).filter (fun i => a.testBit i)).length

/-- |a| (R348). -/
def outVabs : LaneOp → Cord → LaneOut := intA (fun t v a => elemResult t v ((elemInt t a).natAbs : Int))
/-- a + b (R348). -/
def outVadd : LaneOp → Cord → LaneOut := exactAB (fun a b => a + b)
/-- a - b (R370). -/
def outVsub : LaneOp → Cord → LaneOut := exactAB (fun a b => a - b)
/-- a x b (R370). -/
def outVmul : LaneOp → Cord → LaneOut := exactAB (fun a b => a * b)
/-- floor(a x b / 2^w), of signed or unsigned elements as the type says (R370). -/
def outVmulh : LaneOp → Cord → LaneOut := intAB (fun t v a b => elemResult t v ((elemInt t a * elemInt t b) / ((2 ^ tyBits t : Nat) : Int)))
/-- a x b + c, formed exactly (R370). -/
def outVmad (o : LaneOp) (c : Cord) : LaneOut :=
  toVd c o (fun l => mapElems o.ty (fun a b d => elemResult o.ty o.var (elemInt o.ty a * elemInt o.ty b + elemInt o.ty d)) (valA c o l) (valB c o l) (valC c o l))
/-- The smaller, signed (R370). -/
def outVmin : LaneOp → Cord → LaneOut := intAB (fun t _ a b => if signedOf (tyBits t) b < signedOf (tyBits t) a then b else a)
/-- The larger, signed (R370). -/
def outVmax : LaneOp → Cord → LaneOut := intAB (fun t _ a b => if signedOf (tyBits t) a < signedOf (tyBits t) b then b else a)
/-- The smaller, unsigned (R370). -/
def outVminn : LaneOp → Cord → LaneOut := intAB (fun _ _ a b => min a b)
/-- The larger, unsigned (R370). -/
def outVmaxn : LaneOp → Cord → LaneOut := intAB (fun _ _ a b => max a b)
/-- a AND b (R348). -/
def outVand : LaneOp → Cord → LaneOut := intAB (fun _ _ a b => a &&& b)
/-- a OR b (R370). -/
def outVor : LaneOp → Cord → LaneOut := intAB (fun _ _ a b => a ||| b)
/-- a XOR b (R370). -/
def outVxor : LaneOp → Cord → LaneOut := intAB (fun _ _ a b => a ^^^ b)
/-- Leading zeros (R348). -/
def outVclz : LaneOp → Cord → LaneOut := intA (fun t _ a => clzOf (tyBits t) a)
/-- Set bits (R370). -/
def outVpopc : LaneOp → Cord → LaneOut := intA (fun t _ a => popOf (tyBits t) a)
/-- A shift by the element's count (R371). -/
def shiftBy (f : LaneTy → Nat → Nat → Nat) : LaneOp → Cord → LaneOut :=
  intAB (fun t _ a b => f t a (if t == .i64 then b % 64 else if tyBits t = 16 then b % 16 else b % 32))
/-- Shift left (R371). -/
def outVshl : LaneOp → Cord → LaneOut := shiftBy (fun t a n => a * 2 ^ n % 2 ^ tyBits t)
/-- Logical shift right (R371). -/
def outVshr : LaneOp → Cord → LaneOut := shiftBy (fun _ a n => a / 2 ^ n)
/-- Arithmetic shift right (R371). -/
def outVsar : LaneOp → Cord → LaneOut := shiftBy (fun t a n => wrapNat (tyBits t) (signedOf (tyBits t) a / ((2 ^ n : Nat) : Int)))
/-- A field spec: position in [9:5], length in [4:0] with 32 written as 0; the field ends at bit 31 (R349). -/
def fieldOf (signed : Bool) (spec a : Nat) : Nat :=
  let p := spec / 32 % 32
  let n := min (if spec % 32 = 0 then 32 else spec % 32) (32 - p)
  let f := a / 2 ^ p % 2 ^ n
  if signed then wrapNat 32 (signedOf n f) else f
/-- Bit-field extract (R349). -/
def outVbfx (o : LaneOp) (c : Cord) : LaneOut :=
  toVd c o (fun l => fieldOf (o.ty == .i32) (if o.ss = 0 then o.imm.toNat else (cordReg c o.ss).toNat) (valA c o l))
/-- Signed compare (R350). -/
def outVcmp (o : LaneOp) (c : Cord) : LaneOut :=
  toPred c o (fun l => compareInt (ccOf o) (signedOf (tyBits o.ty) (valA c o l)) (signedOf (tyBits o.ty) (valB c o l)))
/-- Unsigned compare (R350). -/
def outVcmpn (o : LaneOp) (c : Cord) : LaneOut := toPred c o (fun l => compareInt (ccOf o) (valA c o l : Int) (valB c o l : Int))
/-- Lane number plus a constant (R368). -/
def outVlane (o : LaneOp) (c : Cord) : LaneOut := toVd c o (fun l => (l + o.imm.toNat) % 2 ^ 32)
/-- Select by vd (R372). -/
def outVsel (o : LaneOp) (c : Cord) : LaneOut := toVd c o (fun l => if valD c o l = 0 then valB c o l else valA c o l)
/-- Copy of B (R373). -/
def outVmov (o : LaneOp) (c : Cord) : LaneOut := toVd c o (valB c o)
/-- Copy of the immediate, sign-extended for a pair (R373). -/
def outVmovs (o : LaneOp) (c : Cord) : LaneOut := toVd c o (fun _ => if o.ty == .i64 then (o.imm.signExtend 64).toNat else o.imm.toNat)
/-- The lane register that VMOV.ind writes (R374). -/
def indReg (o : LaneOp) (c : Cord) : VReg := (cordReg c o.ss).setWidth 8
/-- Copy of A into the register a scalar names (R374). -/
def outVmovInd (o : LaneOp) (c : Cord) : LaneOut :=
  { LaneOut.none (activeMask c o) with regs := [(indReg o c, laneVec (fun l => BitVec.ofNat 32 (valA c o l)))] }
/-- Two 32-bit operands packed (R375). -/
def outVpack (o : LaneOp) (c : Cord) : LaneOut :=
  let conv := fun (x : Nat) => match o.ty with
    | .f16x2 => (NumFmt.convert .fp16 o.var (NumFmt.value .fp32 x)).1
    | .bf16x2 => (NumFmt.convert .bf16 o.var (NumFmt.value .fp32 x)).1
    | .i16x2 => elemResult .i16x2 o.var (signedOf 32 x)
    | _ => elemResult .n16x2 o.var (x : Int)
  toVd c o (fun l => conv (valA c o l) + 65536 * conv (valB c o l))
/-- An element widened to 32 bits (R376). -/
def widen (t : LaneTy) (x : Nat) : Nat :=
  match t with
  | .f16x2 => NumFmt.round .fp32 (NumFmt.value .fp16 x)
  | .bf16x2 => NumFmt.round .fp32 (NumFmt.value .bf16 x)
  | .i16x2 => wrapNat 32 (signedOf 16 x)
  | _ => x
/-- Both elements widened into vd and vd + 1 (R376). -/
def outVunpk (o : LaneOp) (c : Cord) : LaneOut :=
  let e0 : LaneVec := laneVec (fun l => BitVec.ofNat 32 (widen o.ty (valA c o l % 65536)))
  let e1 : LaneVec := laneVec (fun l => BitVec.ofNat 32 (widen o.ty (valA c o l / 65536)))
  { LaneOut.none (activeMask c o) with regs := [(o.vd, e0), (o.vd + 1, e1)] }
/-- Two predicates through a truth table (R377). -/
def outVplog (o : LaneOp) (c : Cord) : LaneOut :=
  let a := predOf c (o.va.setWidth 3)
  let b := predOf c (o.vb.setWidth 3)
  toPred c o (fun l => o.imm.toNat.testBit (2 * (a.getLsbD l).toNat + (b.getLsbD l).toNat))
/-- The beat that VPMOV names (R378). -/
def beatOf (o : LaneOp) : Nat := fieldNat o.imm 1 2
/-- A beat of a predicate into a scalar register, active or not (R378). -/
def outVpmovS (o : LaneOp) (c : Cord) : LaneOut :=
  { LaneOut.none 0 with scalars := [(o.ss, maskWord (predOf c (o.va.setWidth 3)) (beatOf o))] }
/-- A scalar register into the active lanes of a beat of a predicate (R378). -/
def outVpmovP (o : LaneOp) (c : Cord) : LaneOut :=
  let b := beatOf o
  { LaneOut.none (activeMask c o &&& setMaskWord 0 b 0xFFFFFFFF) with pred := some (o.vd.setWidth 3, setMaskWord 0 b (cordReg c o.ss)) }
/-- One round of VRNG (R379). -/
def rngRound (e : Word) (j : Nat) (x : Word) : Word :=
  let x := x + e + BitVec.ofNat 32 (j * 0x6D2B79F5)
  let x := (x ^^^ (x >>> 15)) * 0x2C1B3C6D
  let x := (x ^^^ (x >>> 12)) * 0x297A2D39
  x ^^^ (x >>> 15)
/-- The random number of a counter, key and stream (R379). -/
def rngWord (ctr key e : Word) : Word := rngRound e 3 (rngRound e 2 (rngRound e 1 (rngRound e 0 (ctr ^^^ key))))
/-- Counter-based random numbers (R379). -/
def outVrng (o : LaneOp) (c : Cord) : LaneOut :=
  toVd c o (fun l =>
    let x := rngWord (BitVec.ofNat 32 (valA c o l)) (cordReg c o.ss) o.imm
    if o.ty == .f32 then (roundF32 (.num false (x >>> 8).toNat (-24))).toNat else x.toNat)

/-- VMOV.ind (R374): a number at or above the allocation raises 0x03 with no effect. -/
def execVmovInd (o : LaneOp) (s : State) : Result :=
  .next (if (indReg o s.cord).toNat < s.cord.alloc then laneAlu .vmovInd outVmovInd o s else raiseLaneOwn 3 true false s)

/-- VABS (R348). -/
def execVabs (o : LaneOp) (s : State) : Result := .next (laneAlu .vabs outVabs o s)
/-- VADD (R348). -/
def execVadd (o : LaneOp) (s : State) : Result := .next (laneAlu .vadd outVadd o s)
/-- VAND (R348). -/
def execVand (o : LaneOp) (s : State) : Result := .next (laneAlu .vand outVand o s)
/-- VCLZ (R348). -/
def execVclz (o : LaneOp) (s : State) : Result := .next (laneAlu .vclz outVclz o s)
/-- VBFX (R349). -/
def execVbfx (o : LaneOp) (s : State) : Result := .next (laneAlu .vbfx outVbfx o s)
/-- VCMP (R350). -/
def execVcmp (o : LaneOp) (s : State) : Result := .next (laneAlu .vcmp outVcmp o s)
/-- VCMPN (R350). -/
def execVcmpn (o : LaneOp) (s : State) : Result := .next (laneAlu .vcmpn outVcmpn o s)
/-- VLANE (R368). -/
def execVlane (o : LaneOp) (s : State) : Result := .next (laneAlu .vlane outVlane o s)
/-- VMAD (R370). -/
def execVmad (o : LaneOp) (s : State) : Result := .next (laneAlu .vmad outVmad o s)
/-- VMUL (R370). -/
def execVmul (o : LaneOp) (s : State) : Result := .next (laneAlu .vmul outVmul o s)
/-- VMULH (R370). -/
def execVmulh (o : LaneOp) (s : State) : Result := .next (laneAlu .vmulh outVmulh o s)
/-- VMULHN (R370). -/
def execVmulhn (o : LaneOp) (s : State) : Result := .next (laneAlu .vmulhn outVmulh o s)
/-- VSUB (R370). -/
def execVsub (o : LaneOp) (s : State) : Result := .next (laneAlu .vsub outVsub o s)
/-- VMIN (R370). -/
def execVmin (o : LaneOp) (s : State) : Result := .next (laneAlu .vmin outVmin o s)
/-- VMAX (R370). -/
def execVmax (o : LaneOp) (s : State) : Result := .next (laneAlu .vmax outVmax o s)
/-- VMINN (R370). -/
def execVminn (o : LaneOp) (s : State) : Result := .next (laneAlu .vminn outVminn o s)
/-- VMAXN (R370). -/
def execVmaxn (o : LaneOp) (s : State) : Result := .next (laneAlu .vmaxn outVmaxn o s)
/-- VOR (R370). -/
def execVor (o : LaneOp) (s : State) : Result := .next (laneAlu .vor outVor o s)
/-- VXOR (R370). -/
def execVxor (o : LaneOp) (s : State) : Result := .next (laneAlu .vxor outVxor o s)
/-- VPOPC (R370). -/
def execVpopc (o : LaneOp) (s : State) : Result := .next (laneAlu .vpopc outVpopc o s)
/-- VSHL (R371). -/
def execVshl (o : LaneOp) (s : State) : Result := .next (laneAlu .vshl outVshl o s)
/-- VSHR (R371). -/
def execVshr (o : LaneOp) (s : State) : Result := .next (laneAlu .vshr outVshr o s)
/-- VSAR (R371). -/
def execVsar (o : LaneOp) (s : State) : Result := .next (laneAlu .vsar outVsar o s)
/-- VSEL (R372). -/
def execVsel (o : LaneOp) (s : State) : Result := .next (laneAlu .vsel outVsel o s)
/-- VMOV (R373). -/
def execVmov (o : LaneOp) (s : State) : Result := .next (laneAlu .vmov outVmov o s)
/-- VMOVS (R373). -/
def execVmovs (o : LaneOp) (s : State) : Result := .next (laneAlu .vmovs outVmovs o s)
/-- VPACK (R375). -/
def execVpack (o : LaneOp) (s : State) : Result := .next (laneAlu .vpack outVpack o s)
/-- VUNPK (R376). -/
def execVunpk (o : LaneOp) (s : State) : Result := .next (laneAlu .vunpk outVunpk o s)
/-- VPLOG (R377). -/
def execVplog (o : LaneOp) (s : State) : Result := .next (laneAlu .vplog outVplog o s)
/-- VPMOV.S (R378). -/
def execVpmovS (o : LaneOp) (s : State) : Result := .next (laneAlu .vpmovS outVpmovS o s)
/-- VPMOV.P (R378). -/
def execVpmovP (o : LaneOp) (s : State) : Result := .next (laneAlu .vpmovP outVpmovP o s)
/-- VRNG (R379). -/
def execVrng (o : LaneOp) (s : State) : Result := .next (laneAlu .vrng outVrng o s)

end Sys2Proof.Machine
end

