-- ==== Sys2Proof/Machine/LaneMem.lean ====
section
/-! DEFINITION. Lane loads, stores, atomics, notify forms and prefetches, and the pair word (03 R57; 07 R148, R154; 16 R361 to R366; 17 R380 to R382). -/

namespace Sys2Proof.Machine

/-- What a lane memory operation asks for, before its lanes are placed. -/
structure LaneReq where
  op : MemOp
  scope : Nat
  size : Nat
  signed : Bool
  dest : Dest
  body : Bool
  lanes : List LaneAcc
  deriving DecidableEq, Repr

/-- A transactional lane of an operation that a body supports: a stack access is plain, a global one transactional (R148, R362). -/
def bodyLane (l : LaneAcc) : LaneAcc := match l.tgt with
  | .virt => { l with mode := 1 }
  | _ => l

/-- Stores of one instruction to one location carry the highest lane's data (R121). -/
def keepHighest (ls : List LaneAcc) : List LaneAcc :=
  ls.map (fun l =>
    match (ls.filter (fun x => x.tgt == l.tgt && (x.tgt != .virt || x.va == l.va) && x.mode == l.mode && x.mode != 1)).getLast? with
    | some x => { l with data := x.data }
    | none => l)

/-- The lanes of a request that go on, with their modes, and those that it dooms with UNSUPPORTED and with FAULT (R154, R155). A doomed lane's access does not issue, even when the
program has set its mask bit again (R150). -/
def sortAccess (s : State) (r : LaneReq) : List LaneAcc × List Nat × List Nat :=
  let f := s.cord.frag
  let placed := r.lanes.map (fun l => placeAcc s s.cord r.op (some l.lane) r.size l)
  let mine := placed.filter (fun l => inBody f l.lane)
  let un := mine.filter (fun l => !r.body || inScratch l.va)
  let bad := mine.filter (fun l => r.body && !inScratch l.va && hasFailed l)
  let out := (un ++ bad).map (fun l => l.lane)
  let doomed := fun (l : LaneAcc) => f.tx.lanes.any (fun t => t.lane == l.lane && t.doomed.isSome)
  let go := placed.filter (fun l => !out.contains l.lane && !doomed l)
  let moded := go.map (fun l =>
    if inBody f l.lane then bodyLane l
    else if f.tx.lock && l.tgt == .virt then { l with mode := 2 } else l)
  (if r.op = .store || r.op = .notify then keepHighest moded else moded, un.map (fun l => l.lane), bad.map (fun l => l.lane))

/-- The access of a lane memory operation, and the state after the lanes that may not make it are doomed (R362). -/
def laneAccess (isY : Bool) (la : Nat) (r : LaneReq) (s : State) : Access × State :=
  let p := sortAccess s r
  ({ stream := .lane, pc := lanePc s, isY := isY, op := r.op, scope := r.scope, size := r.size, signed := r.signed, dest := r.dest, la := la, lanes := p.1 },
   setFrag (fun f => doomLanes p.2.2 8 0 (doomLanes p.2.1 7 0 f)) s)

/-- The state after a lane memory operation has issued (R362). -/
def laneIssue (isY : Bool) (la : Nat) (r : LaneReq) (s : State) : State :=
  let p := laneAccess isY la r s
  issue p.1 p.2

/-- A lane memory operation of a single word: 0x03 with no effect when it names a register beyond the allocation (R175). -/
def laneMem (k : LaneKind) (r : LaneOp → State → LaneReq) (o : LaneOp) (s : State) : State :=
  if regsOk s.cord k o then laneIssue false o.la.toNat (r o s) s else raiseLaneOwn 3 true false s

/-- The active lanes of an operation with their addresses and data. -/
def laneList (s : State) (o : LaneOp) (va data : Nat → DWord) : List LaneAcc :=
  (lanesOf (activeMask s.cord o)).map (fun l => newLane l (va l) (data l))

/-- A load's destination (R361). -/
def loadDest (o : LaneOp) : Dest := if o.ty == .i64 then .vpair o.vd else .vreg o.vd

/-- A load of the active lanes (R361, R363). -/
def loadReq (op : MemOp) (body : Bool) (va : Nat → DWord) (o : LaneOp) (s : State) : LaneReq :=
  { op := op, scope := 0, size := accessSize o, signed := o.ty == .i32, dest := loadDest o, body := body, lanes := laneList s o va (fun _ => 0) }

/-- VLD's request (R363). -/
def reqVld (o : LaneOp) (s : State) : LaneReq := loadReq .load true (addrOff s.cord o) o s
/-- VLDC's request (R363). -/
def reqVldc (o : LaneOp) (s : State) : LaneReq := loadReq .load false (addrRun s.cord o (accessSize o)) o s
/-- VLDM's request (R363). -/
def reqVldm (o : LaneOp) (s : State) : LaneReq := loadReq .loadM false (addrOff s.cord o) o s
/-- VPRF's request (R380). -/
def reqVprf (o : LaneOp) (s : State) : LaneReq :=
  { op := .prefetch, scope := 0, size := 1, signed := false, dest := .none, body := false, lanes := laneList s o (addrOff s.cord o) (fun _ => 0) }

/-- A store of the active lanes (R381). -/
def storeReq (body : Bool) (va : Nat → DWord) (o : LaneOp) (s : State) : LaneReq :=
  { op := .store, scope := 0, size := accessSize o, signed := false, dest := .none, body := body
    lanes := laneList s o va (fun l => BitVec.ofNat 64 (valD s.cord o l)) }
/-- VST's request (R381). -/
def reqVst (o : LaneOp) (s : State) : LaneReq := storeReq true (addrOff s.cord o) o s
/-- VSTC's request (R381). -/
def reqVstc (o : LaneOp) (s : State) : LaneReq := storeReq false (addrRun s.cord o (accessSize o)) o s
/-- VSTN's request (R382). -/
def reqVstn (o : LaneOp) (s : State) : LaneReq :=
  let ls := laneList s o (addrOff s.cord o) (fun l => BitVec.ofNat 64 (valD s.cord o l))
  { op := .notify, scope := 4, size := accessSize o, signed := false, dest := .none, body := false
    lanes := ls.map (fun l => { l with fva := pairAddr s.cord o.vb l.lane }) }

/-- VATOM's request (R364). -/
def reqVatom (o : LaneOp) (s : State) : LaneReq :=
  { op := .atom (fieldNat o.imm 0 4), scope := fieldNat o.imm 4 3, size := 4, signed := false, dest := .vreg o.vd, body := false
    lanes := laneList s o (pairAddr s.cord o.va) (fun l => BitVec.ofNat 64 (valB s.cord o l)) }
/-- VATOM.NTF's request (R365). -/
def reqVatomNtf (o : LaneOp) (s : State) : LaneReq :=
  let ls := laneList s o (pairAddr s.cord o.va) (fun l => BitVec.ofNat 64 (laneValue s.cord o.vb false l))
  { op := .ntf (fieldNat o.imm 0 4), scope := fieldNat o.imm 4 3, size := 4, signed := false, dest := .none, body := false
    lanes := ls.map (fun l => { l with fva := operandAddr (cordReg s.cord o.ss) }) }
/-- VCAS's request (R366): data is the compared value, data2 the new one. -/
def reqVcas (o : LaneOp) (s : State) : LaneReq :=
  let ls := laneList s o (pairAddr s.cord o.va) (fun l => BitVec.ofNat 64 (valB s.cord o l))
  { op := .cas, scope := fieldNat o.imm 4 3, size := 4, signed := false, dest := .vreg o.vd, body := false
    lanes := ls.map (fun l => { l with data2 := BitVec.ofNat 64 (valC s.cord o l.lane) }) }

/-- VLD (R363). -/
def execVld (o : LaneOp) (s : State) : Result := .next (laneMem .vld reqVld o s)
/-- VLDC (R363). -/
def execVldc (o : LaneOp) (s : State) : Result := .next (laneMem .vldc reqVldc o s)
/-- VLDM (R363). -/
def execVldm (o : LaneOp) (s : State) : Result := .next (laneMem .vldm reqVldm o s)
/-- VPRF (R380). -/
def execVprf (o : LaneOp) (s : State) : Result := .next (laneMem .vprf reqVprf o s)
/-- VST (R381). -/
def execVst (o : LaneOp) (s : State) : Result := .next (laneMem .vst reqVst o s)
/-- VSTC (R381). -/
def execVstc (o : LaneOp) (s : State) : Result := .next (laneMem .vstc reqVstc o s)
/-- VSTN (R382). -/
def execVstn (o : LaneOp) (s : State) : Result := .next (laneMem .vstn reqVstn o s)
/-- VATOM (R364). -/
def execVatom (o : LaneOp) (s : State) : Result := .next (laneMem .vatom reqVatom o s)
/-- VATOM.NTF (R365). -/
def execVatomNtf (o : LaneOp) (s : State) : Result := .next (laneMem .vatomNtf reqVatomNtf o s)
/-- VCAS (R366). -/
def execVcas (o : LaneOp) (s : State) : Result := .next (laneMem .vcas reqVcas o s)

/-! ### The pair word (R57, R287, R289) -/

/-- What a register-only compact operation produces (R289). -/
def compactOut (k : CompactKind) : LaneOp → Cord → LaneOut :=
  match k with
  | .vadd => outVadd
  | .vsub => outVsub
  | .vmul => outVmul
  | .vand => outVand
  | .vor => outVor
  | .vxor => outVxor
  | .vshl => outVshl
  | .vshr => outVshr
  | .vsar => outVsar
  | .vmin => outVmin
  | .vmax => outVmax
  | .vsel => outVsel
  | .vmov => outVmov
  | .vcmp => outVcmp
  | .vfadd => outVfadd
  | .vfsub => outVfsub
  | .vfmul => outVfmul
  | .vfma => outVfma
  | .vfmin => outVfmin
  | .vfmax => outVfmax
  | .vshfl => outVshfl
  | .vld | .vst => fun _ _ => LaneOut.none 0

/-- The access of operation Y, when it is a load or a store (R57). -/
def compactReq (k : CompactKind) (o : LaneOp) (s : State) : Option LaneReq :=
  match k with
  | .vld => some (reqVld o s)
  | .vst => some (reqVst o s)
  | _ => none

/-- PAIR_WORD (R57): both operations read every source before either writes; one trap covers the conditions of both (R76), after a precise fault of
Y (R176). -/
def pairRun (x y : CompactOp) (s : State) : State :=
  let ox := x.toLane
  let oy := y.toLane
  let outX := compactOut x.kind ox s.cord
  let outY := compactOut y.kind oy s.cord
  let req := compactReq y.kind oy s
  let bx := trapping ox outX
  let by_ := trapping oy outY
  let inv := (if ox.var == .x then outX.inv else 0) ||| (if oy.var == .x then outY.inv else 0)
  let s1 := setCord (fun c => applyOut outY by_ (applyOut outX bx c)) s
  let bad := bx ||| by_
  let fault := conditionFault s inv bad (bx != 0) (by_ != 0)
  let met := fun (s : State) => if bad == 0 then s else setCord (addFault s.cord.frag.id fault) (setFrag (doomAll 8 0) s)
  deliverTrap (match req with
    | some r => let p := laneAccess true oy.la.toNat r s1
                issue p.1 (met p.2)
    | none => met s1)

/-- PAIR_WORD (R57, R175): 0x03 with no effect when an operation names a register beyond the allocation. -/
def execPairWord (x y : CompactOp) (s : State) : Result :=
  let okX := regsOk s.cord x.kind.full x.toLane
  let okY := regsOk s.cord y.kind.full y.toLane
  .next (if okX && okY then pairRun x y s else raiseLaneOwn 3 (!okX) (!okY) s)

end Sys2Proof.Machine
end

