-- ==== Sys2Proof/Machine/ScalarMem.lean ====
section
/-! DEFINITION. Scalar loads, stores, atomics and notify-stores, SNDM and PGMV (14 R299, R302, R321; 15 R333, R339 to R341). -/

namespace Sys2Proof.Machine

/-- The address of the SM format (R299). -/
def addrSM (s : State) (a : Reg) (o : BitVec 10) (size : Nat) : DWord := pair s a + o.signExtend 64 * BitVec.ofNat 64 size

/-- A scalar access of the instruction at the PC, placed (R299). -/
def scalarAccess (s : State) (op : MemOp) (scope size : Nat) (dest : Dest) (l : BitVec 4) (lane : LaneAcc) : Access :=
  { stream := .scalar, pc := s.cord.frag.pc, isY := false, op := op, scope := scope, size := size, signed := false, dest := dest
    la := l.toNat, lanes := [placeAcc s s.cord op none size lane] }

/-- The state after a scalar access has issued and the stream goes on. -/
def scalarIssue (a : Access) (s : State) : State := issue a (advance s)

/-- LDW (R321). -/
def execLdw (d a : Reg) (o : BitVec 10) (l : BitVec 4) (s : State) : Result :=
  .next (scalarIssue (scalarAccess s .load 0 4 (.sreg s.cord.frag.bank d) l (newLane 0 (addrSM s a o 4) 0)) s)

/-- LDD (R321). -/
def execLdd (d a : Reg) (o : BitVec 10) (l : BitVec 4) (s : State) : Result :=
  .next (scalarIssue (scalarAccess s .load 0 8 (.spair s.cord.frag.bank d) l (newLane 0 (addrSM s a o 8) 0)) s)

/-- STW (R340). -/
def execStw (d a : Reg) (o : BitVec 10) (l : BitVec 4) (s : State) : Result :=
  .next (scalarIssue (scalarAccess s .store 0 4 .none l (newLane 0 (addrSM s a o 4) ((reg s d).setWidth 64))) s)

/-- STD (R340). -/
def execStd (d a : Reg) (o : BitVec 10) (l : BitVec 4) (s : State) : Result :=
  .next (scalarIssue (scalarAccess s .store 0 8 .none l (newLane 0 (addrSM s a o 8) (pair s d))) s)

/-- STN (R341). -/
def execStn (d a : Reg) (o : BitVec 10) (l : BitVec 4) (s : State) : Result :=
  .next (outsideBody (fun s =>
    scalarIssue (scalarAccess s .notify 4 4 .none l
      { newLane 0 (addrSM s a o 4) ((reg s d).setWidth 64) with fva := pair s (a + 2) }) s) s)

/-- A scalar atomic at a scope (R302): with sd = s0 and fn 0 to 7 or 10 it is a non-returning reduction. -/
def scalarAtomic (scope : Nat) (d a b : Reg) (f l : BitVec 4) (s : State) : State :=
  let dest : Dest := if d = 0 && (f.toNat ≤ 7 || f.toNat == 10) then .none else .sreg s.cord.frag.bank d
  let lane := newLane 0 (pair s a) ((reg s b).setWidth 64)
  let lane := { lane with data2 := if f = 9 then (reg s (b + 1)).setWidth 64 else 0 }
  scalarIssue (scalarAccess s (.atom f.toNat) scope 4 dest l lane) s

/-- ATOM.CLU (R302). -/
def execAtomClu (d a b : Reg) (f l : BitVec 4) (s : State) : Result := .next (outsideBody (scalarAtomic 1 d a b f l) s)
/-- ATOM.DIE (R302). -/
def execAtomDie (d a b : Reg) (f l : BitVec 4) (s : State) : Result := .next (outsideBody (scalarAtomic 2 d a b f l) s)
/-- ATOM.PKG (R302). -/
def execAtomPkg (d a b : Reg) (f l : BitVec 4) (s : State) : Result := .next (outsideBody (scalarAtomic 3 d a b f l) s)
/-- ATOM.NODE (R302). -/
def execAtomNode (d a b : Reg) (f l : BitVec 4) (s : State) : Result := .next (outsideBody (scalarAtomic 4 d a b f l) s)
/-- ATOM.POD (R302). -/
def execAtomPod (d a b : Reg) (f l : BitVec 4) (s : State) : Result := .next (outsideBody (scalarAtomic 5 d a b f l) s)

/-- SNDM (R111, R339): the handle and the four payload words are read at issue. -/
def execSndm (a b : Reg) (s : State) : Result :=
  .next (outsideBody (fun s =>
    let l := { newLane 0 0 (pair s b) with data2 := pair s (b + 2), fva := (reg s a).setWidth 64 }
    scalarIssue (scalarAccess s .sndm 5 16 .none 0 l) s) s)

/-- PGMV's lane (R333): its address, its destination, and its status operand. -/
def pgmvLane (s : State) (c a b : Reg) : LaneAcc := { newLane 0 (pair s a) ((reg s b).setWidth 64) with fva := operandAddr (reg s c) }

/-- PGMV (R333). -/
def execPgmv (c a b : Reg) (l : BitVec 4) (s : State) : Result :=
  .next (outsideBody (fun s =>
    if (reg s b).getLsbD 7 || decide (2 ^ 11 ≤ (reg s b).toNat) then raiseScalar 1 s
    else scalarIssue (scalarAccess s .pgmv 5 1 .none l (pgmvLane s c a b)) s) s)

end Sys2Proof.Machine
end

