-- ==== Sys2Proof/Machine/Issue.lean ====
section
/-! DEFINITION. Before an instruction issues: fetch of scalar and lane words, the scoreboard, lookahead windows, path counters, and the book-keeping of issue
(02 R26 to R29; 03 R51 to R57; 05 R112). -/

namespace Sys2Proof.Machine

/-! ### Registers of scalar instructions (R281, R283) -/

/-- The registers r to r + n - 1. -/
def regsFrom (r : Reg) (n : Nat) : List Nat := (List.range n).map (fun i => r.toNat + i)

/-- The scalar registers that an instruction names, and those among them that it writes. -/
def scalarUse : Instr → List Nat × List Nat
  | .add d a b | .sub d a b | .and d a b | .or d a b | .xor d a b | .shl d a b | .shr d a b | .sar d a b | .min d a b | .max d a b | .minn d a b
  | .maxn d a b | .slt d a b | .sltn d a b | .seq d a b | .sel d a b | .mul d a b _ | .mulh d a b _ | .mulhn d a b _ | .rngw d a b | .xrd d a b =>
    ([d.toNat, a.toNat, b.toNat], [d.toNat])
  | .addImm d a _ | .andImm d a _ | .orImm d a _ | .xorImm d a _ | .sltImm d a _ | .sltnImm d a _ | .seqImm d a _ | .shlImm d a _ | .shrImm d a _
  | .sarImm d a _ | .clz d a | .popc d a | .bfx d a _ _ | .bfi d a _ _ | .gjoin d a => ([d.toNat, a.toNat], [d.toNat])
  | .dadd d a b | .dsub d a b => (regsFrom d 2 ++ regsFrom a 2 ++ regsFrom b 2, regsFrom d 2)
  | .li d _ | .lih d _ | .lot d | .mfs d _ | .gleave d | .txst d | .cyclesLoRead d => ([d.toNat], [d.toNat])
  | .ldw d a _ _ => (d.toNat :: regsFrom a 2, [d.toNat])
  | .ldd d a _ _ => (regsFrom d 2 ++ regsFrom a 2, regsFrom d 2)
  | .stw d a _ _ => (d.toNat :: regsFrom a 2, [])
  | .std d a _ _ => (regsFrom d 2 ++ regsFrom a 2, [])
  | .stn d a _ _ => (d.toNat :: regsFrom a 4, [])
  | .atomClu d a b f _ | .atomDie d a b f _ | .atomPkg d a b f _ | .atomNode d a b f _ | .atomPod d a b f _ =>
    (d.toNat :: regsFrom a 2 ++ regsFrom b (if f = 9 then 2 else 1), [d.toNat])
  | .call _ => ([58, 59], [58, 59])
  | .callr a => (regsFrom a 2 ++ [58, 59], [58, 59])
  | .bx a => (regsFrom a 2, [])
  | .ret => ([58, 59], [])
  | .bd _ _ _ _ | .txc | .exit => ([61, 62, 63], [])
  | .txa _ => ([61, 62, 63], [61, 62, 63])
  | .txb d a _ | .txbF d a _ => ([d.toNat, a.toNat, 61, 62, 63], [])
  | .bc a _ _ | .wlot a | .mts a _ => ([a.toNat], [])
  | .wpath _ b => ([b.toNat], [])
  | .bari a b | .arv _ a b | .waitb _ a b => (regsFrom a 2 ++ [b.toNat], [])
  | .lq a b | .xres a b => ([a.toNat, b.toNat], [])
  | .xwr v a b => ([v.toNat, a.toNat, b.toNat], [])
  | .sndm a b => (a.toNat :: regsFrom b 4, [])
  | .pgmv c a b _ => ([c.toNat, b.toNat] ++ regsFrom a 2, [])
  | .mma a _ _ _ _ _ | .mmlut a _ _ _ _ _ => (regsFrom a 5, [])
  | .mmax a _ _ _ _ => (regsFrom a 5, [])
  | .mmld a _ _ => (regsFrom a 2, [])
  | .mmst a _ _ _ | .mmstRelu a _ _ _ => (regsFrom a 3, [])
  | .cpy a _ _ | .rdxt a _ _ | .rdxa a _ _ => (regsFrom a 5, [])
  | .lmtst a _ _ => (regsFrom a 3, [a.toNat + 1, a.toNat + 2])
  | .lmwt a _ | .lmclr a _ => (regsFrom a 3, [])
  | .gth a _ _ _ => (regsFrom a 9, [])
  | .sct a _ _ _ _ => (regsFrom a 8, [])
  | .nbcfg a _ _ _ | .nbin a _ _ _ | .nchk a _ _ _ => (regsFrom a 4, [])
  | .nbst a _ _ => (regsFrom a 4, [a.toNat + 2, a.toNat + 3])
  | .npairH a _ _ _ | .npairF a _ _ _ => (regsFrom a 7, [])
  | .cbinK a _ _ _ | .cbinL a _ _ _ => (regsFrom a 5, [])
  | _ => ([], [])

/-! ### Lane words (R28, R29, R53, R345) -/

/-- The operations of a lane word. -/
def laneOps : Instr → List (LaneKind × LaneOp)
  | .pairWord x y => [(x.kind.full, x.toLane), (y.kind.full, y.toLane)]
  | i => i.lane?.toList

/-- The scalar registers that a lane operation writes (R29). -/
def laneScalarWrites (k : LaneKind) (o : LaneOp) : List Nat :=
  match k with
  | .vred => regsFrom o.ss (if o.ty == .i64 then 2 else 1)
  | .vvote => regsFrom o.ss (if o.imm.toNat = 4 then 3 else 1)
  | .vpmovS => [o.ss.toNat]
  | _ => []

/-- The scalar registers that a lane operation reads through ss (R28). -/
def laneScalarReads (k : LaneKind) (o : LaneOp) : List Nat := if (laneScalarWrites k o).isEmpty && o.ss != 0 then [o.ss.toNat] else []

/-- The pipes of an operation: of the class A or B, or the auxiliary pipe (R53). -/
def auxKind : LaneKind → Bool
  | .vld | .vldc | .vldm | .vatom | .vatomNtf | .vcas | .vprf | .vst | .vstc | .vstn | .vbcst | .vshfl | .vrot | .vred | .vscan | .vvote | .vpmovS | .vpmovP
  | .vrng | .vcrsc | .vcrat | .vcrhy | .vcrex | .vcrlg | .vcrsq | .vcrrs | .vcrdv | .vcrth => true
  | _ => false

/-- How many pipes of each class a lane word needs. -/
def pipesOf (i : Instr) : Nat × Nat := ((laneOps i).countP (fun k => !auxKind k.1), (laneOps i).countP (fun k => auxKind k.1))

/-- How many FMA pipes, and how many auxiliary pipes, of the acting cord's partition are free at this clock (R53). -/
def freePipes (s : State) (p : PartId) : Nat × Nat :=
  let now := (coreOf s p.core).clock
  let x := partOf s p
  ([x.pipeA, x.pipeB].countP (fun t => decide (t ≤ now)), if x.pipeX ≤ now then 1 else 0)

/-- Whether a count of pipes of each class lies within another. -/
def pipesFit (a b : Nat × Nat) : Bool := decide (a.1 ≤ b.1) && decide (a.2 ≤ b.2)

/-- A partition whose pipes a word takes for three clocks (R53): an FMA operation takes pipe A when it is free, and otherwise pipe B. -/
def takePipes (now : DWord) (n : Nat × Nat) (x : Partition) : Partition :=
  let a := decide (0 < n.1) && decide (x.pipeA ≤ now)
  let b := decide (2 ≤ n.1) || (decide (0 < n.1) && !a)
  { x with pipeA := if a then now + 3 else x.pipeA, pipeB := if b then now + 3 else x.pipeB, pipeX := if 0 < n.2 then now + 3 else x.pipeX }

/-! ### Fetch (R26, R160, R166) -/

/-- What a fetch finds. -/
inductive Fetched where
  | word (v : Nat)
  | later
  | miss (va : Nat)
  | fault (code sub : Nat)
  deriving DecidableEq, Repr

/-- The fetches of a stream of the acting fragment, which read the point of coherence. -/
def fetchEng (s : State) (st : Stream) : Eng :=
  let place := 128 * s.cord.id.core.toNat + s.cord.id.slot.toNat + (if s.cord.id.handler then 64 else 0)
  { id := 2 ^ 160 * (1 + place) + 2 * s.cord.frag.id + (if st = .lane then 1 else 0), cluster := thisCluster s, pasid := s.cord.pasid, scope := 3, stand := s.cord.stand, cls := 1 }

/-- The physical address of a byte of text: the supervisor handler's image is physical (R181). -/
def textPhys (s : State) (va : Nat) : Option Nat := if s.cord.id.handler then some va else cached s (thisCore s) s.cord.pasid va 4

/-- The values that a line of text has held since the acting cord's launch began, besides the one it holds now: a fetch may see any of them (R293). -/
def oldValues (s : State) (line : Nat) : List (BitVec 1024) :=
  if s.cord.id.handler then [] else (s.oldText.filter (fun o => o.line == line && decide (s.cord.order < o.order))).map (fun o => o.value)

/-- n bytes of one line of text as the point of coherence holds them; a line of another package comes whole, and what it held is kept, since its owner's writes are not seen here. -/
def fetchNow (e : Eng) (pa n : Nat) (s : State) : Got × State :=
  if (ownedAt s.fabric (gfnOf pa)).isSome then engReadPhys e pa n s
  else match engReadPhys e (lineOf pa) 128 s with
    | (.ok v, s) => (.ok (v / 2 ^ (8 * (pa % 128)) % 2 ^ (8 * n)), keepText (lineOf pa) (BitVec.ofNat 1024 v) s)
    | r => r

/-- n bytes of one line of text as a fetch sees them: those of now, or, by a free choice, older ones (R293). -/
def fetchPiece (e : Eng) (pa n : Nat) (s : State) : Got × State :=
  match fetchNow e pa n s with
  | (.ok v, s) =>
    let olds := oldValues s (lineOf pa)
    if olds.isEmpty then (.ok v, s)
    else
      let (t, s) := draw s
      match olds[Config.pick t % (olds.length + 1)]? with
      | some o => (.ok (lineBytes { emptyLine 0 false with data := o } (pa % 128) n), s)
      | none => (.ok v, s)
  | r => r

/-- n bytes of text fetched for a stream of the acting fragment. -/
def fetchText (st : Stream) (va : DWord) (n : Nat) (s : State) : Fetched × State :=
  let ps := linePieces (n + 1) va.toNat 0 n
  if !s.cord.id.handler && !globalRange va n then (.fault 7 0, s)
  else match ps.find? (fun p => (textPhys s (va.toNat + p.1)).isNone) with
    | some p => (.miss (va.toNat + p.1), s)
    | none =>
      let e := fetchEng s st
      match readPieces (fun off len s => fetchPiece e ((textPhys s (va.toNat + off)).getD 0) len s) ps s with
      | (.ok v, s) => (.word v, clearMarks e.id s)
      | (.later, s) => (.later, s)
      | (.fault c, s) => (.fault (c % 256) (c / 256), clearMarks e.id s)

/-- Whether a fetch of a stream of the acting fragment is being translated. -/
def fetchOut (s : State) (st : Stream) : Bool := s.cord.flights.any (fun f => f.op == .fetch && f.frag == s.cord.frag.id && f.stream == st)

/-- The state with a fetch that a translation is asked for. -/
def startFetch (st : Stream) (pc : Word) (va : Nat) (s : State) : State :=
  if fetchOut s st then s
  else issueAccess { stream := st, pc := pc, isY := false, op := .fetch, scope := 0, size := 4, signed := false, dest := .none, la := 0
                     lanes := [newLane 0 (BitVec.ofNat 64 va) 0] } s

/-- The state after a fetch has failed: %trap.pc is the fetch address, and %trap.addr reads 0 (R26, R178). -/
def fetchFault (st : Stream) (pc : Word) (code sub : Nat) (s : State) : State :=
  raise { stream := st, pc := pc, code := code, sub := sub, lanes := 0, addr := 0, x := false, y := false, remote := fromFar code sub, deferred := false
          replay := .none, ord := if st = .scalar then scalarOrd s else laneOrd s } s

/-- The virtual address of a lane word (R26). -/
def laneWordAddr (c : Cord) (i : Nat) : DWord := c.ltext + BitVec.ofNat 64 (48 * (i / 4) + 12 * (i % 4))

/-- A lane word as it would be fetched now, for the scoreboard: none when its bytes are not at hand (R28). -/
def peekLane (s : State) (i : Nat) : Option (List (LaneKind × LaneOp)) :=
  let va := (laneWordAddr s.cord i).toNat
  let ps := linePieces 13 va 0 12
  let there := ps.all (fun p => match textPhys s (va + p.1) with
    | some pa => (ownedAt s.fabric (gfnOf pa)).isSome && (oldValues s (lineOf pa)).isEmpty
    | none => false)
  if !there then none
  else
    let v := ps.foldr (fun p a => memRead s.mem ((textPhys s (va + p.1)).getD 0) p.2 + 2 ^ (8 * p.2) * a) 0
    match decodeLane (BitVec.ofNat 96 v) with
    | .ok i => some (laneOps i)
    | .error _ => some []

/-! ### The scoreboard (R28, R29, R54, R55) -/

/-- Whether a flight of a cord still has a register to write, and is no fault that has been met. -/
def unwritten (c : Cord) (f : Flight) : Bool := !f.lanes.all (fun l => settled l || hasFailed l) || unlisted c f

/-- Whether a flight is still to write a scalar register of the acting fragment. -/
def holdsScalar (c : Cord) (r : Nat) (f : Flight) : Bool :=
  let hit (b : Bool) (q : Nat) : Bool := q != 0 && q == r && (if r < 61 then b == c.frag.bank else f.frag == c.frag.id)
  unwritten c f && (match f.dest with
    | .sreg b q => hit b q.toNat
    | .spair b q => hit b q.toNat || hit b (q.toNat + 1)
    | _ => false)

/-- Whether a scalar register of the acting fragment waits for a value. -/
def scalarHeld (c : Cord) (r : Nat) : Bool := c.flights.any (holdsScalar c r)

/-- Whether a flight is of the acting fragment, or has lanes that it owns now: each arm has a scoreboard of its own (R34). -/
def ownFlight (c : Cord) (f : Flight) : Bool := f.frag == c.frag.id || f.lanes.any (fun l => !settled l && c.frag.owned.getLsbD l.lane)

/-- Whether a flight is still to write a lane register in lanes of the acting fragment. -/
def holdsLane (c : Cord) (r : Nat) (f : Flight) : Bool :=
  ownFlight c f && unwritten c f && (match f.dest with
    | .vreg q => q.toNat == r
    | .vpair q => q.toNat == r || q.toNat + 1 == r
    | _ => false)

/-- Whether a lane register waits for a value in lanes of the acting fragment. -/
def laneHeld (c : Cord) (r : Nat) : Bool := c.flights.any (holdsLane c r)

/-- Whether a flight is held on a page request: its own, or that of a page with pending log entries (R166, R169). -/
def onPageRequest (f : Flight) : Bool := f.lanes.any (fun l => isParked l || l.st == .missed 0)

/-- Whether a lookahead window that keeps a stream from issuing is that of an access held on a page request. -/
def windowParked (c : Cord) (ws : List Window) : Bool := ws.any (fun w => w.left == 0 && c.flights.any (fun f => f.id == w.id && onPageRequest f))

/-- The paths that a scalar instruction may raise (R112). -/
def scalarPaths : Instr → List Nat
  | .ldw _ _ _ _ | .ldd _ _ _ _ => [0, 1]
  | .stw _ _ _ _ | .std _ _ _ _ => [2]
  | .stn _ _ _ _ | .atomClu _ _ _ _ _ | .atomDie _ _ _ _ _ | .atomPkg _ _ _ _ _ | .atomNode _ _ _ _ _ | .atomPod _ _ _ _ _ | .sndm _ _ | .pgmv _ _ _ _ => [3]
  | .cpy _ _ _ => [4]
  | .mma _ _ _ _ _ _ | .mmax _ _ _ _ _ | .mmlut _ _ _ _ _ _ | .mmz _ _ | .mmld _ _ _ | .mmst _ _ _ _ | .mmstRelu _ _ _ _ | .gth _ _ _ _ | .sct _ _ _ _ _
  | .rdxt _ _ _ | .rdxa _ _ _ | .nbcfg _ _ _ _ | .nbin _ _ _ _ | .npairH _ _ _ _ | .npairF _ _ _ _ | .nchk _ _ _ _ | .nbst _ _ _ | .cbinK _ _ _ _
  | .cbinL _ _ _ _ | .lmtst _ _ _ => [5]
  | _ => []

/-- The paths that a lane operation may raise. -/
def lanePaths : LaneKind → List Nat
  | .vld | .vldc | .vldm | .vprf => [0, 1]
  | .vst | .vstc => [2]
  | .vstn | .vatom | .vatomNtf => [3]
  | .vcas => [0, 3]
  | _ => []

/-- Whether some lane word that a fragment has enqueued and not issued satisfies a test; one that is not at hand does. -/
def queuedAny (s : State) (f : Fragment) (p : List (LaneKind × LaneOp) → Bool) : Bool :=
  f.queue.any (fun b => (List.range (b.count - b.done)).any (fun i => match peekLane s (b.first + b.done + i) with
    | some ks => p ks
    | none => true))

/-- The instructions that are UNSUPPORTED in a body, and TRAP: in one they doom every transactional lane, which clears its mask bit (R150, R154, R155). -/
def dooming : Instr → Bool
  | .fenceAcq _ | .fenceRel _ | .fenceFull _ | .cpy _ _ _ | .lot _ | .wlot _ | .bari _ _ | .arv _ _ _ | .waitb _ _ _ | .gjoin _ _ | .gleave _ | .pgmv _ _ _ _ | .exit
  | .sndm _ _ | .stn _ _ _ _ | .atomClu _ _ _ _ _ | .atomDie _ _ _ _ _ | .atomPkg _ _ _ _ _ | .atomNode _ _ _ _ _ | .atomPod _ _ _ _ _
  | .mma _ _ _ _ _ _ | .mmax _ _ _ _ _ | .mmlut _ _ _ _ _ _ | .mmz _ _ | .mmld _ _ _ | .mmst _ _ _ _ | .mmstRelu _ _ _ _ | .gth _ _ _ _ | .sct _ _ _ _ _
  | .rdxt _ _ _ | .rdxa _ _ _ | .nbcfg _ _ _ _ | .nbin _ _ _ _ | .npairH _ _ _ _ | .npairF _ _ _ _ | .nchk _ _ _ _ | .nbst _ _ _ | .cbinK _ _ _ _ | .cbinL _ _ _ _
  | .lmtst _ _ _ | .lmwt _ _ | .lmclr _ _ | .trap => true
  | _ => false

/-- Whether a scalar instruction would doom lanes of the acting fragment now: a word of R154, or a TXB inside a body (R147). -/
def doomsNow (f : Fragment) (i : Instr) : Bool := (anyInBody f && dooming i) || (match i with
  | .txb _ _ _ | .txbF _ _ _ => !f.tx.lock && f.tx.lanes.any (fun t => f.mask.getLsbD t.lane)
  | _ => false)

/-- Whether lane words that a fragment has enqueued read one of some scalar registers that are to be written, or write one of those that are named. -/
def queueNames (s : State) (f : Fragment) (uses dests : List Nat) : Bool :=
  queuedAny s f (fun ks => ks.any (fun k => (laneScalarReads k.1 k.2).any dests.contains || (laneScalarWrites k.1 k.2).any uses.contains))

/-- The other fragments whose scalar registers lie in the acting one's bank: the serialised arms and their siblings (R35). -/
def bankMates (c : Cord) : List Fragment := c.frags.filter (fun f => f.bank == c.frag.bank)

/-- Whether lane words that are enqueued hold a scalar instruction: one reads a register that it writes, every one reads the mask, and one writes a register that it
names (R28, R29); a sibling arm's enqueued words use the bank that the arms share (R35). -/
def queueHolds (s : State) (uses dests : List Nat) : Bool :=
  (!s.cord.frag.queue.isEmpty && (dests.any (fun r => decide (61 ≤ r)) || queueNames s s.cord.frag uses dests)) ||
    (bankMates s.cord).any (fun f => queueNames s f (uses.filter (fun r => decide (r < 61))) (dests.filter (fun r => decide (r < 61))))

/-- Whether some lane word that the acting fragment has enqueued and not issued accesses memory. -/
def queuedAccess (s : State) : Bool := queuedAny s s.cord.frag (fun ks => ks.any (fun k => !(lanePaths k.1).isEmpty))

/-- The scalar instructions that access memory, or fork an engine operation whose accesses follow the cord's (R120, R137). -/
def accessWord (i : Instr) : Bool := !(scalarPaths i).isEmpty || (match i with
  | .bari _ _ | .lmclr _ _ | .lmwt _ _ | .waitb _ _ _ | .rngw _ _ _ => true
  | _ => false)

/-- Whether the windows of a stream let one more instruction issue (R55). -/
def windowOpen (ws : List Window) (long : Bool) : Bool := ws.all (fun w => w.left != 0) && !(long && decide (16 ≤ ws.length))
/-- The windows after one more follower has issued. -/
def countFollower (ws : List Window) : List Window := ws.map (fun w => { w with left := w.left - 1 })

/-- The lane register that a scalar instruction writes: TXC's status register (R149). -/
def statusHeld (c : Cord) (i : Instr) : Bool := match i with
  | .txc => !c.frag.tx.lanes.isEmpty && laneHeld c c.frag.tx.vreg.toNat
  | _ => false

/-- The lanes of an instruction that the fault-deferral log may take, with their size and need (R167). -/
def logged (s : State) (i : Instr) : List (Nat × Nat × List LaneAcc) :=
  let one (op : MemOp) (size : Nat) (va : DWord) : List (Nat × Nat × List LaneAcc) := [(size, needOf op, [placeAcc s s.cord op none size (newLane 0 va 0)])]
  let atom (d a : Reg) (f : BitVec 4) : List (Nat × Nat × List LaneAcc) := if d = 0 && (f.toNat ≤ 7 || f.toNat == 10) then one (.atom f.toNat) 4 (pair s a) else []
  let lanes (r : LaneReq) : Nat × Nat × List LaneAcc := (r.size, 2, (sortAccess s r).1)
  match i with
  | .stw _ a o _ => one .store 4 (addrSM s a o 4)
  | .std _ a o _ => one .store 8 (addrSM s a o 8)
  | .atomClu d a _ f _ | .atomDie d a _ f _ | .atomPkg d a _ f _ | .atomNode d a _ f _ | .atomPod d a _ f _ => atom d a f
  | i => (laneOps i).flatMap (fun k => match k.1 with
    | .vst => [lanes (reqVst k.2 s)]
    | .vstc => [lanes (reqVstc k.2 s)]
    | _ => [])

/-- Whether bytes of a page go to the log: it has pending entries of the core, or its translation would fault now and be asked for (R165, R167). -/
def goesToLog (s : State) (need page : Nat) : Bool :=
  pagePending s (thisCore s) s.cord.pasid page ||
    (!(dieOf s (thisDie s)).requestsOff && (cached s (thisCore s) s.cord.pasid (page * 4096) need).isNone &&
      (match (walkNow (walkEng (thisDie s) s.cord.pasid page) s.cord.pasid (page * 4096) need s).1 with
       | .absent | .denied => true
       | _ => false))

/-- Whether an instruction finds the log without room for its entries, so that it waits to issue (R167). -/
def logFull (s : State) (i : Instr) : Bool :=
  let needs := (logged s i).flatMap (fun x =>
    let ls := x.2.2.filter (fun l => l.tgt == .virt && l.mode == 0 && l.st == .todo)
    let pages := ((ls.map (fun l => l.va.toNat % 2 ^ 57 / 4096)).eraseDups).filter (goesToLog s x.2.1)
    pages.map (fun p => (chunks96 8 (pageRecords x.1 (ls.filter (onPage p)))).length))
  let log := (coreOf s (thisCore s)).log
  needs.any (fun n => (freeRun log n).isNone) || decide (256 < log.length + needs.foldl (· + ·) 0)

/-- Why a scalar instruction may not issue yet: a stall code of R267, 14 where it waits for a load held on a page request. One that accesses memory follows the lane accesses
enqueued before it (R120, R122; log entry 57). The table names no code for a store that waits for room in the log: 14 (DESIGN CHOICE, log entry 70). -/
def scalarStall (s : State) (i : Instr) : Option Nat :=
  let u := scalarUse i
  let c := s.cord
  let dests := if doomsNow c.frag i then u.2 ++ [61, 62, 63] else u.2
  if u.1.any (scalarHeld c) || statusHeld c i || queueHolds s u.1 dests || (accessWord i && queuedAccess s) then
    some (if u.1.any (fun r => c.flights.any (fun f => holdsScalar c r f && onPageRequest f)) then 14 else 1)
  else if !windowOpen c.frag.winS (!(scalarPaths i).isEmpty) then some (if windowParked c c.frag.winS then 14 else 2)
  else if !(scalarPaths i).all (pathRoom s.cord) then some 25
  else if logFull s i then some 14
  else none

/-- Whether an operation of a lane word has its sources and its destination free. -/
def laneOpFree (c : Cord) (k : LaneKind) (o : LaneOp) : Bool :=
  let ind := if k == .vmovInd then [(cordReg c o.ss).toNat % 256] else []
  !(k.reads o ++ k.writes o ++ ind).any (laneHeld c) && !(o.ss != 0 && (o.ss.toNat :: laneScalarWrites k o).any (scalarHeld c)) &&
    (lanePaths k).all (pathRoom c)

/-- Whether a lane word waits for the words of a sibling arm stopped at the join, which came first in the bank that both use (R29, R35). -/
def laneMateHolds (s : State) (ks : List (LaneKind × LaneOp)) : Bool :=
  s.cord.frag.status != .atJoin && ((bankMates s.cord).filter (fun f => f.status == .atJoin)).any (fun f =>
    queueNames s f (ks.flatMap (fun k => laneScalarReads k.1 k.2 ++ laneScalarWrites k.1 k.2)) (ks.flatMap (fun k => laneScalarWrites k.1 k.2)))

/-- Whether nothing but the pipes keeps a lane word from issuing. -/
def laneReady (s : State) (i : Instr) : Bool :=
  let ks := laneOps i
  ks.all (fun k => laneOpFree s.cord k.1 k.2) && !([61, 62, 63].any (scalarHeld s.cord)) && windowOpen s.cord.frag.winL (ks.any (fun k => k.1.long)) &&
    !laneMateHolds s ks && !logFull s i

/-- Whether the pipes that a lane word needs are free (R52, R53). -/
def pipesReady (s : State) (i : Instr) : Bool := pipesFit (pipesOf i) (freePipes s (thisPart s))

/-! ### Whether a stream may issue at all (R52, R56, R59 to R63, R180, R269) -/

/-- Whether a cord's partition issues it: its context is active, its stand resident, its partition not stopped; the supervisor handler runs while it
serves a request (R390). -/
def cordIssues (s : State) (c : Cord) : Bool :=
  c.mode == .running && ((c.id.handler && (coreOf s c.id.core).serving.isSome) ||
    (!c.id.handler && (coreOf s c.id.core).active == some c.pasid && !(partOf s c.id.part).stopped &&
    (phaseOf s c == 0 || (phaseOf s c == 1 && streamHeld s c.id.core c.pasid))))

/-- Whether the acting fragment is one that runs. -/
def fragIssues (c : Cord) : Bool := runsNow c c.frag && c.frag.faults.isEmpty

/-- The state with a fragment of a cord made the one that acts; none when there is none, or it may not issue. -/
def actingFrag (c : CordId) (frag : Nat) (s : State) : Option State :=
  let s := setCord (fun x => selectFrag x frag) (selectCord s c)
  if onCord s c && s.cord.frag.id == frag && cordIssues s s.cord && fragIssues s.cord then some s else none

/-! ### Book-keeping of issue -/

/-- An instruction to execute, the state before it was counted and the state to execute it in; or the state after a turn that executes none. -/
inductive Front where
  | run (i : Instr) (before s : State)
  | rest (s : State)

/-- The last 64 PCs with one more (R183). -/
def pushPc (pc : Word) (ps : List Word) : List Word := (ps ++ [pc]).drop (ps.length - 63)

/-- The state with its partition's streak counted (R52). -/
def noteIssue (s : State) : State :=
  if s.cord.id.handler then s
  else
    let p := s.cord.id.part
    let s := countStreak p s.cord s
    if 64 ≤ (partOf s p).streak then { s with agenda := s.agenda ++ [.event (.rotationStreak p)] } else s

/-- The state in which a scalar instruction executes: it is counted, its PC noted, and another barrier wait of its fragment forgotten. -/
def beginScalar (i : Instr) (s : State) : State :=
  let keep := match i with
    | .waitb _ _ _ => true
    | _ => false
  let s := if keep then s else dropWait s
  noteIssue (setCord (fun c => { c with lastPcs := pushPc c.frag.pc c.lastPcs
                                        frag := { c.frag with count := c.frag.count + 1, status := .running, winS := countFollower c.frag.winS } }) s)

/-- The state in which a lane word executes: it takes its pipes, its block moves on, and the last word of a block frees its entry (R27, R53). -/
def beginLane (i : Instr) (b : Block) (s : State) : State :=
  let b := { b with done := b.done + 1 }
  let p := thisPart s
  let s := setPart s p (takePipes (coreOf s p.core).clock (pipesOf i))
  noteIssue (setFrag (fun f =>
    { f with cur := b, words := f.words + 1, winL := countFollower f.winL
             queue := if b.count ≤ b.done then f.queue.tail else b :: f.queue.tail }) s)

/-- The illegal scalar word as the instruction that raises its trap (R291). -/
def scalarWord (w : BitVec 32) : Instr :=
  match decodeScalar w with
  | .ok i => if wellFormed i then i else .illegalInstruction (.scalar w)
  | .error _ => .illegalInstruction (.scalar w)

/-- Whether one operation of a pair word is illegal by itself (R292). -/
def compactBad (w : BitVec 47) : Bool := match decodeCompact w with
  | .ok c => !c.ok
  | .error _ => true

/-- A lane word as the instruction that it is, or the one that raises its trap (R291, R292). -/
def laneWord (w : BitVec 96) : Instr :=
  let bad : Instr :=
    if (w.extractLsb' 94 2).toNat = 1 then
      let x := compactBad (w.extractLsb' 47 47)
      let y := compactBad (w.extractLsb' 0 47)
      .illegalInstruction (.pair w (x || !y) (y || !x))
    else .illegalInstruction (.lane w)
  match decodeLane w with
  | .ok i => if wellFormed i then i else bad
  | .error _ => bad

/-! ### Fetching ahead (R52, R59) -/

/-- Whether a cord is of a shadow context that stays on its core: it issues nothing, and its streams are eligible only once their next words have been fetched
(R52, R59 case 4). -/
def shadowCord (s : State) (c : Cord) : Bool :=
  c.mode == .running && !c.id.handler && (coreOf s c.id.core).active.isSome && (coreOf s c.id.core).active != some c.pasid && phaseOf s c == 0 &&
    !(partOf s c.id.part).stopped

/-- The state in which a stream of a fragment of a shadow context fetches its next word: a translation or a read is asked for, and nothing else changes; a word
that can be had, or that would fault, is left until the context is active. -/
def fetchAhead (st : Stream) (c : CordId) (frag : Nat) (s : State) : State :=
  let t := setCord (fun x => selectFrag x frag) (selectCord s c)
  if !(onCord t c && t.cord.frag.id == frag && shadowCord t t.cord && fragIssues t.cord) then s
  else
    let f := t.cord.frag
    match st, f.queue.head? with
    | .scalar, _ =>
      if f.status == .atJoin || f.status == .serial then s
      else match fetchText .scalar (t.cord.text + f.pc.setWidth 64) 4 t with
        | (.later, u) => u
        | (.miss va, u) => startFetch .scalar f.pc va u
        | _ => s
    | .lane, none => s
    | .lane, some b =>
      match fetchText .lane (laneWordAddr t.cord (b.first + b.done)) 12 t with
      | (.later, u) => u
      | (.miss va, u) => startFetch .lane (BitVec.ofNat 32 (b.first + b.done)) va (setFrag (fun f => { f with cur := b }) u)
      | _ => s

/-- The turn of a scalar stream (R26, R52); one of a shadow context fetches ahead. -/
def frontScalar (c : CordId) (frag : Nat) (s : State) : Front :=
  match actingFrag c frag s with
  | none => .rest (fetchAhead .scalar c frag s)
  | some t =>
    let f := t.cord.frag
    if f.status == .atJoin || f.status == .serial then .rest t
    else
      let va := t.cord.text + f.pc.setWidth 64
      match fetchText .scalar va 4 t with
      | (.word v, t) =>
        let i := scalarWord (BitVec.ofNat 32 v)
        (match scalarStall t i with
         | some code => .rest (wait code t)
         | none => .run i t (beginScalar i t))
      | (.later, t) => .rest (wait 0 t)
      | (.miss va, t) => .rest (wait 0 (startFetch .scalar f.pc va t))
      | (.fault code sub, t) => .rest (fetchFault .scalar f.pc code sub t)

/-- The turn of a lane stream (R26, R27, R52); one of a shadow context fetches ahead. -/
def frontLane (c : CordId) (frag : Nat) (s : State) : Front :=
  match actingFrag c frag s with
  | none => .rest (fetchAhead .lane c frag s)
  | some t =>
    match t.cord.frag.queue.head? with
    | none => .rest t
    | some b =>
      let i := b.first + b.done
      let va := laneWordAddr t.cord i
      let pc : Word := BitVec.ofNat 32 i
      match fetchText .lane va 12 t with
      | (.word v, t) =>
        let w := laneWord (BitVec.ofNat 96 v)
        if laneReady t w && pipesReady t w then .run w t (beginLane w b t) else .rest t
      | (.later, t) => .rest t
      | (.miss va, t) => .rest (startFetch .lane pc va (setFrag (fun f => { f with cur := b }) t))
      | (.fault code sub, t) => .rest (fetchFault .lane pc code sub (setFrag (fun f => { f with cur := b }) t))

/-- Whether a lane word waits for a register that an access held on a page request is to write. -/
def laneParked (c : Cord) (ks : List (LaneKind × LaneOp)) : Bool :=
  let parked := c.flights.filter onPageRequest
  ks.any (fun k => (k.1.reads k.2 ++ k.1.writes k.2).any (fun r => parked.any (holdsLane c r)) ||
    (k.2.ss != 0 && (k.2.ss.toNat :: laneScalarWrites k.1 k.2).any (fun r => parked.any (holdsScalar c r))))

/-- Why the lane stream of a fragment does not issue (R267): a stall code; none when it would. -/
def laneStall (c : CordId) (frag : Nat) (s : State) : Option Nat :=
  (actingFrag c frag s).bind (fun t => t.cord.frag.queue.head?.bind (fun b =>
    match fetchText .lane (laneWordAddr t.cord (b.first + b.done)) 12 t with
    | (.word v, t) =>
      let w := laneWord (BitVec.ofNat 96 v)
      if laneReady t w then (if pipesReady t w then none else some 4)
      else if !windowOpen t.cord.frag.winL ((laneOps w).any (fun k => k.1.long)) then some (if windowParked t.cord t.cord.frag.winL then 14 else 2)
      else if !(laneOps w).all (fun k => (lanePaths k.1).all (pathRoom t.cord)) then some 9
      else if logFull t w then some 14
      else some (if laneParked t.cord (laneOps w) then 14 else 1)
    | _ => some 0))

/-- The turn of a host core's custom-0 word (R143): it waits behind the core's earlier accesses, and for the values of its loads that are out. A word that R143 does not assign raises the host core's own
illegal-instruction exception, cause 2 with the word as its value, and in a body aborts with FAULT (R155, R290). -/
def frontHost (h : HostNo) (w : BitVec 32) (s : State) : Front :=
  let s := { selectHost h s with hostWords := s.hostWords.filter (fun x => x.1 != h) }
  if hostLoading h s || s.hostWait.any (fun a => accessHost a == h) then .rest { s with hostWords := s.hostWords ++ [(h, w)] }
  else match decodeHost w with
  | .ok i => .run i s s
  | .error _ => .rest (hostException 2 (w.setWidth 64) s)

/-- Whether a scalar instruction that has executed waits where it stood. -/
def scalarWaits (before after : State) : Bool :=
  (match after.cord.frag.status with
   | .waiting _ => true
   | _ => false) && after.cord.id == before.cord.id && after.cord.frag.id == before.cord.frag.id && after.cord.handlerFlag == before.cord.handlerFlag

/-- The state after a scalar instruction has executed: one that waits has not issued. -/
def endScalar (before after : State) : State :=
  if !scalarWaits before after then after
  else
    let s := setCord (fun c => { c with lastPcs := before.cord.lastPcs, frag := { c.frag with count := before.cord.frag.count, winS := before.cord.frag.winS } }) after
    if s.cord.id.handler then s
    else
      let p := s.cord.id.part
      setPart s p (fun x => { x with rot := (partOf before p).rot, streak := (partOf before p).streak, streakAt := (partOf before p).streakAt })

/-- The state after a host core's word has executed: one that waits is tried again (R152, R156). -/
def endHost (h : HostNo) (w : BitVec 32) (s : State) : State :=
  if (s.hosts[h.val]'h.isLt).waiting then { s with hostWords := s.hostWords ++ [(h, w)] } else s

end Sys2Proof.Machine
end

