-- ==== Sys2Proof/Machine/Load.lean ====
section
/-! DEFINITION. A state in which a given word is the next one to be fetched: what a launch and a page walk would have left (log entry 10). -/

namespace Sys2Proof.Machine

/-- The cord that a placed word runs in: slot 0 of core 0. -/
def loadCord : CordId := { core := 0, slot := 0, handler := false }
/-- The stand of that cord. -/
def loadStand : StandKey := { queue := 1, seq := 1, num := 0 }
/-- The address of the scalar text, virtual and physical. -/
def loadText : Nat := 2097152
/-- The address of the lane text. -/
def loadLane : Nat := 2101248

/-- The entry that translates the texts, readable, writable and executable (R160). -/
def loadEntry : TlbEntry := { pasid := 1, page := 1, shift := 21, frame := 1, r := true, w := true, x := true }

/-- The fragment of that cord: all lanes, at offset 0, with the lane words a block names enqueued. -/
def loadFrag (q : List Block) : Fragment :=
  { Fragment.blank with mask := BitVec.allOnes 96, owned := BitVec.allOnes 96, queue := q }

/-- A cord of one, with the registers of another. -/
def loadedCord (c : Cord) (q : List Block) : Cord :=
  { c with id := loadCord, mode := .running, queue := 1, seq := 1, pasid := 1, stand := loadStand, ncords := 1, alloc := 256, tiles := 16
           text := BitVec.ofNat 64 loadText, ltext := BitVec.ofNat 64 loadLane, lwords := 1, frag := loadFrag q, frags := [], flights := []
           handlerFlag := false }

/-- The stand, resident with 4 KiB of window in bank 0. -/
def loadedStand : Stand :=
  { key := loadStand, pasid := 1, priority := 0, order := 0, cluster := 0, gang := 0, window := [], size := 4096, pages := [0], cordsLeft := 1, phase := 0
    together := [] }

/-- The package, which has joined a fabric of its own (R271), with that cord resident, its text page translated and in its own memory, and one turn to take. -/
def loadedPackage (mem : Memory) (q : List Block) (t : Turn) (s : State) : State :=
  { s with
    agenda := [t]
    cord := loadedCord s.cord q
    cords := s.cords.filter (fun c => c.id != loadCord)
    mem := mem
    failed := []
    stands := loadedStand :: s.stands.filter (fun x => x.key != loadStand)
    cores := s.cores.set 0 { Core.reset with ctxs := [{ pasid := 1, inactive := 0, eligible := false }], active := some 1, tlb := [loadEntry] }
    parts := s.parts.set 0 Partition.reset
    fabric := { s.fabric with joined := true, present := [0], exposed := [2, 0, 0, 0, 0], num := 0, here := [], gone := [] } }

/-- The state with an instruction's bits placed where the next step fetches it: a scalar word, else a host core's word, else a lane word; bits past nbits are 0. -/
def placeBits (nbits w : Nat) (s : State) : State :=
  let v := w % 2 ^ nbits
  if nbits ≤ 32 then
    match decodeScalar (BitVec.ofNat 32 v), decodeHost (BitVec.ofNat 32 v) with
    | .error _, .ok _ => { s with agenda := [.host 0 (BitVec.ofNat 32 v)] }
    | _, _ => loadedPackage (memWrite s.mem loadText 4 v) [] (.scalar loadCord 0) s
  else loadedPackage (memWrite s.mem loadLane 12 v) [{ first := 0, count := 1, done := 0, ord := 0 }] (.lane loadCord 0) s

end Sys2Proof.Machine
end

