-- ==== Sys2Proof/Machine/Copies.lean ====
section
/-! DEFINITION. Collective copies and landing maps (09 R199 to R202; 14 R313, R323). -/

namespace Sys2Proof.Machine

/-! ### Landing maps (R202) -/

/-- The state with the bits of a 512-bit mask set in a map, if its window may still be reached. -/
def setMapBits (e : Eng) (w : WinPos) (bits : Nat) (s : State) : State :=
  match winRead { e with stand := w.key } w 0 64 s with
  | .fault 0x0F => s
  | _ => (winWrite e w 0 64 (scratchRead (.win w.key w.off) 64 s ||| bits) s).2

/-- Every bit of a landing map. -/
def allBits : Nat := 2 ^ 512 - 1

/-- The map word that LMTST, LMWT and LMCLR name: none when the operand is refused (R323). -/
def mapWord (s : State) (a : Reg) (w : BitVec 3) : Option WinPos :=
  (winRange s (blockReg s a 0).toNat 64 64).map (fun p => { p with off := p.off + 8 * w.toNat, raw := p.raw + 8 * w.toNat })

/-- LMTST (R202, R323): it reads the map at its issue, after the cord's older accesses there and before the accesses that follow it (R122, R138). -/
def execLmtst (a : Reg) (w : BitVec 3) (l : BitVec 4) (s : State) : Result :=
  .next (outsideBody (fun s =>
    match mapWord s a w with
    | none => refuseCmd s
    | some p =>
      let lane := { newLane 0 (winAddr p 0) (blockPair s a 1) with tgt := .win p.key p.off }
      if scratchClash s p.key p.off 8 then wait 1 s
      else scalarIssue (scalarAccess s .lmtst 1 8 (.spair s.cord.frag.bank (a + 1)) l lane) s) s)

/-- LMWT (R202, R323): it reads the map after the cord's older accesses there (R122), and once every mask bit is set the accesses that follow it come after: it acquires at cluster scope, whose
reach has no line to drop (R123, R138). A failed run of the map reads as stored (DESIGN CHOICE, log entry 64). -/
def execLmwt (a : Reg) (w : BitVec 3) (s : State) : Result :=
  .next (outsideBody (fun s =>
    match mapWord s a w with
    | none => refuseCmd s
    | some p =>
      let mask := blockPair s a 1
      let v : DWord := BitVec.ofNat 64 (scratchRead (.win p.key p.off) 8 s)
      if mask = 0 then advance s
      else if !scratchClash s p.key p.off 8 && v &&& mask == mask then advance s
      else wait 8 s) s)

/-- LMCLR (R202, R323): cleared at the bank after the cord's older accesses (R122). A failed run of the map reads as stored (DESIGN CHOICE, log entry 64). -/
def execLmclr (a : Reg) (w : BitVec 3) (s : State) : Result :=
  .next (outsideBody (fun s =>
    match mapWord s a w with
    | none => refuseCmd s
    | some p =>
      let v : DWord := BitVec.ofNat 64 (scratchRead (.win p.key p.off) 8 s)
      if scratchClash s p.key p.off 8 then wait 1 s
      else advance (scratchWrite (.win p.key p.off) 8 (v &&& ~~~(blockPair s a 1)).toNat s)) s)

/-! ### Descriptors and assemblies (R199 to R201) -/

/-- A copy descriptor's fields (R200). -/
structure CopyDesc where
  dest : DWord
  map : Word
  expect : Nat
  flags : Nat
  barrier : Word
  arvn : Nat
  zero : Bool
  deriving DecidableEq, Repr

/-- The descriptor at a place (R200). One in a failed run is read as it is stored: R313 lists no 0x0B for CPY (DESIGN CHOICE, log entry 64). -/
def copyDesc (s : State) (w : WinPos) : CopyDesc :=
  let v := scratchRead (.win w.key w.off) 32 s
  { dest := BitVec.ofNat 64 v, map := BitVec.ofNat 32 (v / 2 ^ 64), expect := v / 2 ^ 96 % 65536, flags := v / 2 ^ 112 % 65536
    barrier := BitVec.ofNat 32 (v / 2 ^ 128), arvn := v / 2 ^ 160 % 65536, zero := v / 2 ^ 176 % 65536 == 0 && v / 2 ^ 216 == 0 }

/-- A range in scratch or in the global aperture: a window's place, none for a global one, or refused (R185). -/
def copyRange (s : State) (a : DWord) (n : Nat) : Option (Option WinPos) :=
  if fieldNat a 56 8 = 0x80 then (winRange s (fieldNat a 0 56) n 16).map some
  else if a.toNat % 16 = 0 && globalRange a n then some none else none

/-- The open assembly of a descriptor (R201). -/
def openCopy (cl : Cluster) (w : WinPos) : Option Copy := cl.copies.find? (fun c => !c.started && c.desc.key == w.key && c.desc.off == w.off)

/-- What a CPY names once it passes its checks. -/
structure CopyAsk where
  desc : WinPos
  d : CopyDesc
  map : WinPos
  barrier : Option WinPos
  win : Option WinPos
  src : Option WinPos
  deriving DecidableEq, Repr

/-- Whether n bytes at an offset of an open assembly's destination lie in its window, or in the global aperture. -/
def openRange (s : State) (x : Copy) (off n : Nat) : Bool :=
  match x.win with
  | some w => (findStand s w.key).any (fun st => decide (w.off + off + n ≤ st.size))
  | none => globalRange (x.dest + BitVec.ofNat 64 off) n

/-- The checks of a CPY (R199, R200). One that joins an open assembly goes by the fields that the engine read when it was opened: later changes to them act on the next assembly (R201 step 1). -/
def copyCheck (s : State) (a : Reg) : Option CopyAsk :=
  let off := (blockReg s a 3).toNat
  let n := (blockReg s a 4).toNat
  match winRange s (blockReg s a 0).toNat 32 32 with
  | none => none
  | some w =>
    let d := copyDesc s w
    match openCopy (clusterOf s (thisCluster s)) w with
    | some x =>
      if off % 16 ≠ 0 ∨ n % 16 ≠ 0 ∨ 262144 < off + n ∨ !openRange s x off n then none
      else (copyRange s (blockPair s a 1) n).map (fun src => { desc := w, d := d, map := x.map, barrier := x.barrier, win := x.win, src := src })
    | none =>
    if off % 16 ≠ 0 ∨ n % 16 ≠ 0 ∨ 262144 < off + n ∨ d.expect = 0 ∨ 1024 < d.expect ∨ 4 ≤ d.flags ∨ !d.zero ∨ d.dest.toNat % 16 ≠ 0 then none
    else
      let bar := if d.flags.testBit 1 then (if d.arvn = 0 then none else (winRange s d.barrier.toNat 8 8).map some) else some none
      match winRange s d.map.toNat 64 64, bar, copyRange s d.dest 0, copyRange s (d.dest + BitVec.ofNat 64 off) n, copyRange s (blockPair s a 1) n with
      | some m, some b, some base, some _, some src => some { desc := w, d := d, map := m, barrier := b, win := base, src := src }
      | _, _, _, _, _ => none

/-- The state with one byte of a copy descriptor written: ARRIVED is at 24, STATUS at 26 (R200). -/
def descWrite (w : WinPos) (off n v : Nat) : State → State := scratchWrite (.win w.key (w.off + off)) n v

/-- The state with an assembly opened (R201 step 1). -/
def openAssembly (q : CopyAsk) (s : State) : State :=
  let (id, s) := fresh s
  let c : Copy := { id := id, desc := q.desc, opener := s.cord.stand, dest := q.d.dest, win := q.win, map := q.map, barrier := q.barrier, expect := q.d.expect
                    arvn := q.d.arvn, scope := 1, slices := [], started := false, landed := 0, chunk := none, step := 0, fail := none }
  let s := setCluster s (thisCluster s) (fun cl => { cl with copies := cl.copies ++ [c] })
  let s := descWrite q.desc 24 2 0 (descWrite q.desc 26 1 0 s)
  if q.d.flags.testBit 0 then scratchWrite (.win q.map.key q.map.off) 64 0 s else s

/-- The state with a slice accepted into the open assembly; the copy starts with the last one (R201 steps 2 and 3). -/
def addSlice (q : CopyAsk) (sl : Slice) (s : State) : State :=
  let more := fun (c : Copy) =>
    if !c.started && c.desc.key == q.desc.key && c.desc.off == q.desc.off then
      { c with slices := c.slices ++ [sl], scope := max c.scope sl.scope, started := decide (c.expect ≤ c.slices.length + 1) } else c
  let n := match openCopy (clusterOf s (thisCluster s)) q.desc with
    | some c => c.slices.length + 1
    | none => 0
  descWrite q.desc 24 2 n (setCluster s (thisCluster s) (fun cl => { cl with copies := cl.copies.map more }))

/-- Whether an older access of the cord has still to act on the descriptor that a CPY names (R122, R137). -/
def descClash (s : State) (a : Reg) : Bool := (winRange s (blockReg s a 0).toNat 32 32).any (fun w => scratchClash s w.key w.off 32)

/-- CPY (R199 to R201, R313). The engine reads the descriptor, and clears the map, after the cord's older accesses to them (R137). -/
def execCpy (a : Reg) (z : BitVec 3) (_l : BitVec 4) (s : State) : Result :=
  .next (outsideBody (fun s =>
    if descClash s a then wait 1 s
    else match copyCheck s a with
    | none => refuseCmd s
    | some q =>
      let cl := clusterOf s (thisCluster s)
      let new := (openCopy cl q.desc).isNone
      if new && decide (32 ≤ (cl.copies.filter (fun c => !c.started)).length) then wait 5 s
      else if new && scratchClash s q.map.key q.map.off 64 then wait 1 s
      else
        let sl : Slice := { src := blockPair s a 1, win := q.src, off := (blockReg s a 3).toNat, count := (blockReg s a 4).toNat, cord := s.cord.id
                            stand := s.cord.stand, pasid := s.cord.pasid, scope := z.toNat, fork := s.nextId }
        let s := if new then openAssembly q s else s
        advance (addSlice q sl (countPath 4 s))) s)

/-! ### The transfer (R201, R202) -/

/-- The stand through which a copy reaches the windows that it names: its opener's, or once that has ended a contributor's or the descriptor's (R201). -/
def copyStand (s : State) (x : Copy) : StandKey :=
  if (findStand s x.opener).isSome then x.opener
  else match x.slices.find? (fun y => (findStand s y.stand).isSome) with
    | some y => y.stand
    | none => x.desc.key

/-- A running copy as an engine command. -/
def copyEng (c : ClusterId) (x : Copy) (p : Pasid) (k : StandKey) : Eng := { id := x.id, cluster := c, pasid := p, scope := x.scope, stand := k, bulk := true }

/-- The slice whose value a 16-byte unit of the destination takes: the one accepted last (R201 step 5). -/
def unitSlice (x : Copy) (u : Nat) : Option Slice := (x.slices.filter (fun s => decide (s.off ≤ 16 * u) && decide (16 * u < s.off + s.count))).getLast?

/-- The units of a chunk that the copy writes. -/
def chunkUnits (x : Copy) (ch : Nat) : List (Nat × Slice) := ((List.range 32).map (fun i => 32 * ch + i)).filterMap (fun u => (unitSlice x u).map (fun s => (u, s)))

/-- The chunks that a copy writes. -/
def copyChunks (x : Copy) : List Nat := (List.range 512).filter (fun ch => !(chunkUnits x ch).isEmpty)

/-- A unit's 16 bytes at its source. -/
def unitRead (c : ClusterId) (x : Copy) (u : Nat) (sl : Slice) (s : State) : Got × State :=
  let e := copyEng c x sl.pasid sl.stand
  let o := 16 * u - sl.off
  match sl.win with
  | some w => (winRead e w o 16 s, s)
  | none => engRead e (sl.src + BitVec.ofNat 64 o) 16 s

/-- A unit's 16 bytes at its destination. -/
def unitWrite (c : ClusterId) (x : Copy) (u v : Nat) (sl : Slice) (s : State) : Got × State :=
  let e := copyEng c x sl.pasid (copyStand s x)
  match x.win with
  | some w => winWrite e w (16 * u) 16 v s
  | none => engWrite e (x.dest + BitVec.ofNat 64 (16 * u)) 16 v s

/-- The sources of a chunk's units. -/
def chunkRead (c : ClusterId) (x : Copy) : List (Nat × Slice) → State → List Got × State
  | [], s => ([], s)
  | (u, sl) :: us, s =>
    let (g, s) := unitRead c x u sl s
    let (gs, s) := chunkRead c x us s
    (g :: gs, s)

/-- The units of a chunk written: a byte whose source failed is written as zero (R202). -/
def chunkWrite (c : ClusterId) (x : Copy) : List ((Nat × Slice) × Got) → State → List Got × State
  | [], s => ([], s)
  | ((u, sl), g) :: us, s =>
    let v := match g with
      | .ok v => v
      | _ => 0
    let (r, s) := unitWrite c x u v sl s
    let (rs, s) := chunkWrite c x us s
    (r :: rs, s)

/-- The earliest failure of a chunk in destination order. -/
def chunkFail : List (((Nat × Slice) × Got) × Got) → Option (Nat × Nat)
  | [] => none
  | (((u, _), .fault code), _) :: _ => some (16 * u, code)
  | (((u, _), _), .fault code) :: _ => some (16 * u, code)
  | _ :: rest => chunkFail rest

/-- The earlier of two failures. -/
def earlier (a b : Option (Nat × Nat)) : Option (Nat × Nat) :=
  match a, b with
  | some x, some y => if y.1 < x.1 then some y else some x
  | none, y => y
  | x, none => x

/-- The state with a running copy changed. -/
def setCopy (c : ClusterId) (id : Nat) (f : Copy → Copy) (s : State) : State :=
  setCluster s c (fun cl => { cl with copies := modifyWhere (fun x => x.id == id) f cl.copies })

/-- Whether every contributing cord's fork lets a chunk be copied (R137, R201). -/
def slicesReady : List Slice → State → Bool × State
  | [], s => (true, s)
  | sl :: sls, s =>
    match forkReady sl.cord sl.stand sl.fork sl.scope s with
    | (some s', _) => slicesReady sls s'
    | (none, s') => (false, s')

/-- The state after a chunk has been tried: written and its bit set, or still waiting; every slice's fork comes first, whatever it contributes (R137, R202). -/
def tryChunk (c : ClusterId) (x : Copy) (ch : Nat) (s : State) : State :=
  let s := setCopy c x.id (fun x => { x with chunk := some ch }) s
  let us := chunkUnits x ch
  let (ready, s) := slicesReady x.slices s
  if !ready then s
  else
    let (gs, s) := chunkRead c x us s
    if gs.contains .later then s
    else
      let (rs, s) := chunkWrite c x (us.zip gs) s
      if rs.contains .later then s
      else
        let fail := earlier x.fail (chunkFail ((us.zip gs).zip rs))
        let landed := x.landed ||| BitVec.ofNat 512 (2 ^ ch)
        let full := (copyChunks x).all (fun k => landed.getLsbD k)
        let landed := if full then ~~~0 else landed
        let s := clearMarks x.id (setCopy c x.id (fun x => { x with chunk := none, fail := fail, landed := landed, step := if full then 1 else 0 }) s)
        setMapBits (copyEng c x 0 (copyStand s x)) x.map (if full then allBits else 2 ^ ch) s

/-- COPY_CHUNK_LANDING (R201, R202): a chunk lands; after the last one STATUS is written, and then the barrier is arrived on. -/
def execCopyChunkLanding (c : ClusterId) (copy : Nat) (chunk : BitVec 9) (s : State) : Result :=
  .next (match (clusterOf s c).copies.find? (fun x => x.id == copy && x.started) with
    | none => s
    | some x =>
      let e := copyEng c x 0 (copyStand s x)
      let drop (s : State) : State := forgetEng x.id (setCluster s c (fun cl => { cl with copies := cl.copies.filter (fun y => y.id != x.id) }))
      if x.step = 0 then
        (if x.chunk.isSome && x.chunk != some chunk.toNat then s
         else if x.landed.getLsbD chunk.toNat then s
         else if (chunkUnits x chunk.toNat).isEmpty && !(copyChunks x).isEmpty then s
         else tryChunk c x chunk.toNat s)
      else if x.step = 1 then
        let code := match x.fail with
          | some (_, code) => code
          | none => 0xFF
        let s := (winWrite e x.desc 26 1 code s).2
        if x.barrier.isSome then setCopy c x.id (fun x => { x with step := 2 }) s else drop s
      else
        let s := match x.barrier with
          | some w => if winReach s c (copyStand s x) w.key then arriveAt (.win w.key w.off) x.arvn s else s
          | none => s
        drop s)

end Sys2Proof.Machine
end

