-- ==== Sys2Proof/Machine/Gather.lean ====
section
/-! DEFINITION. The gather unit and the reduction unit (04 R86, R88, R89; 09 R207 to R213; 14 R318; 15 R335, R338). -/

namespace Sys2Proof.Machine

/-! ### Gather and scatter: acceptance (R207) -/

/-- The bytes of an index. -/
def idxSize (i64 : Bool) : Nat := if i64 then 8 else 4

/-- The index list's place: a window, none for a global list, or refused. -/
def listRange (s : State) (a : DWord) (n size : Nat) : Option (Option WinPos) :=
  if fieldNat a 56 8 = 0x80 then (winRange s (fieldNat a 0 56) (n * size) size).map some
  else if a.toNat % size = 0 && globalRange a (n * size) then some none else none

/-- A gather or scatter that its unit accepts (R207). -/
def buildGather (scatter i64 : Bool) (combine scope : Nat) (a : Reg) (s : State) : Option GatherCmd :=
  let n := (blockReg s a 2).toNat
  let size := (blockReg s a 5).toNat
  let table := blockPair s a 3
  let base : GatherCmd :=
    { id := 0, cord := s.cord.id, stand := s.cord.stand, pasid := s.cord.pasid, scatter := scatter, idx64 := i64, combine := combine, scope := scope
      list := blockPair s a 0, listWin := none, count := n, table := table, size := size, data := noWin s, map := noWin s, status := noWin s
      fork := s.nextId, next := 0, first := none }
  if n = 0 ∨ (if scatter then 1048576 else 65536) < n ∨ size % 4 ≠ 0 ∨ size < 4 ∨ 4096 < size ∨ (!scatter ∧ 262144 < n * size) then none
  else if table.toNat % 4 ≠ 0 || !globalRange table 1 then none
  else
    let map := if scatter then some (noWin s) else winRange s (blockReg s a 7).toNat 64 64
    match listRange s base.list n (idxSize i64), winRange s (blockReg s a 6).toNat (n * size) 4, map,
          winRange s (blockReg s a (if scatter then 7 else 8)).toNat 4 4 with
    | some lw, some d, some m, some st => some { base with listWin := lw, data := d, map := m, status := st }
    | _, _, _, _ => none

/-- A gather-unit instruction (R185, R186): GTH clears its map when it is accepted (R208). -/
def gatherIssue (scatter i64 : Bool) (combine scope : Nat) (a : Reg) (s : State) : State :=
  outsideBody (fun s =>
    if 64 ≤ (dieOf s (thisDie s)).gathers.length then wait 5 s
    else match buildGather scatter i64 combine scope a s with
      | none => refuseCmd s
      | some g =>
        if !scatter && scratchClash s g.map.key g.map.off 64 then wait 1 s
        else
        let (id, s) := fresh s
        let s := setDie s (thisDie s) (fun d => { d with gathers := d.gathers ++ [{ g with id := id }] })
        let s := if scatter then s else scratchWrite (.win g.map.key g.map.off) 64 0 s
        advance (countPath 5 s)) s

/-- GTH (R207, R208). -/
def execGth (a : Reg) (z : BitVec 3) (i : BitVec 1) (_l : BitVec 4) (s : State) : Result := .next (gatherIssue false (i == 1) 0 z.toNat a s)
/-- SCT (R207, R209). -/
def execSct (a : Reg) (c : BitVec 2) (z : BitVec 3) (i : BitVec 1) (_l : BitVec 4) (s : State) : Result :=
  .next (gatherIssue true (i == 1) c.toNat z.toNat a s)

/-! ### Gather and scatter: the run (R208 to R210) -/

/-- A gather-unit command as an engine command. -/
def gatherEng (g : GatherCmd) : Eng := { id := g.id, cluster := g.cord.core.cluster, pasid := g.pasid, scope := g.scope, stand := g.stand, bulk := true }

/-- The index at a position, zero-extended (R207). -/
def indexAt (g : GatherCmd) (i : Nat) (s : State) : Got × State :=
  let n := idxSize g.idx64
  match g.listWin with
  | some w => (winRead (gatherEng g) w (i * n) n s, s)
  | none => engRead (gatherEng g) (g.list + BitVec.ofNat 64 (i * n)) n s

/-- The address of the element with an index, modulo 2^64 (R208). -/
def elemAddr (g : GatherCmd) (x : Nat) : DWord := g.table + BitVec.ofNat 64 (x * g.size)

/-- An element gathered into its place; a failed one is written as zeros (R208). -/
def gatherElem (g : GatherCmd) (i x : Nat) (s : State) : Got × State :=
  let e := gatherEng g
  let a := elemAddr g x
  let (v, s) := if globalRange a g.size then engRead e a g.size s else (.fault 5, s)
  match v with
  | .later => (.later, s)
  | .ok v => winWrite e g.data (i * g.size) g.size v s
  | .fault code => (.fault code, (winWrite e g.data (i * g.size) g.size 0 s).2)

/-- Whether one piece of an element can be written: it is translated, an owner serves it, and an update meets no failed line (R173, R209). -/
def pieceReach (e : Eng) (adds : Bool) (pa len : Nat) (s : State) : Got × State :=
  match routeOf s (engDie e) (gfnOf pa) with
  | .here _ _ => (if adds && s.failed.contains (lineOf pa) then .fault 0x0B else .ok 0, s)
  | .away _ => (match engReadPhys e pa len s with
    | (.fault c, s) => (if !adds && c % 256 == 0x0B then .ok 0 else .fault c, s)
    | (.later, s) => (.later, s)
    | (.ok _, s) => (.ok 0, s))
  | .refused sub => (.fault (9 + 256 * sub), s)
  | .ask r => (.later, askOwner s (engDie e) (gfnOf pa) r)
  | .hold => (.later, s)

/-- Whether every piece of an element can be written: a failed element is skipped whole (R209). -/
def elemReach (e : Eng) (adds : Bool) (a : DWord) (n : Nat) (s : State) : Got × State :=
  readPieces (fun off len s => engGlobal e (if adds then 3 else 2) (a.toNat + off) (fun pa s => pieceReach e adds pa len s) s) (linePieces (n + 1) a.toNat 0 n) s

/-- The words of an element added where they lie (R209). -/
def scatterAdds (e : Eng) (fn : Nat) (a : DWord) : Nat → Nat → State → Got × State
  | 0, _, s => (.ok 0, s)
  | n + 1, v, s =>
    let (g, s) := engGlobal e 3 a.toNat (fun pa s => engAtomPhys e fn pa (BitVec.ofNat 32 v) s) s
    match g with
    | .ok _ => scatterAdds e fn (a + 4) n (v / 2 ^ 32) s
    | r => (r, s)

/-- An element scattered into the table; a failed one is skipped (R209). -/
def scatterElem (g : GatherCmd) (i x : Nat) (s : State) : Got × State :=
  let e := gatherEng g
  let a := elemAddr g x
  match winRead e g.data (i * g.size) g.size s with
  | .ok v =>
    if !globalRange a g.size then (.fault 5, s)
    else match elemReach e (g.combine != 0) a g.size s with
      | (.ok _, s) => if g.combine = 0 then engWrite e a g.size v s else scatterAdds e (if g.combine = 1 then 10 else 0) a (g.size / 4) v s
      | r => r
  | r => (r, s)

/-- The element at the next list position. -/
def nextElem (g : GatherCmd) (s : State) : Got × State :=
  match indexAt g g.next s with
  | (.ok x, s) => if g.scatter then scatterElem g g.next x s else gatherElem g g.next x s
  | (.later, s) => (.later, s)
  | (.fault code, s) => (.fault code, if g.scatter then s else (winWrite (gatherEng g) g.data (g.next * g.size) g.size 0 s).2)

/-- The map bits of a gather whose first n elements are done: whole chunks, and every bit at the end (R202, R208). -/
def gatherBits (g : GatherCmd) (n : Nat) : Nat := if g.count ≤ n then allBits else 2 ^ (n * g.size / 512) - 1

/-- The state with a gather-unit command changed. -/
def setGather (d : DieId) (id : Nat) (f : GatherCmd → GatherCmd) (s : State) : State :=
  setDie s d (fun x => { x with gathers := modifyWhere (fun g => g.id == id) f x.gathers })

/-- The state after a gather-unit command has handled one element, or has ended with its status word (R208 to R210). -/
def runGather (d : DieId) (g : GatherCmd) (s : State) : State :=
  match forkReady g.cord g.stand g.fork g.scope s with
  | (none, s) => s
  | (some s, _) =>
    if g.count ≤ g.next then
      let word := 2 ^ 31 + (match g.first with
        | some (pos, code) => code % 128 * 2 ^ 24 + pos
        | none => 0)
      let s := (winWrite (gatherEng g) g.status 0 4 word s).2
      forgetEng g.id (setDie s d (fun x => { x with gathers := x.gathers.filter (fun y => y.id != g.id) }))
    else
      match nextElem g s with
      | (.later, s) => s
      | (r, s) =>
        let first := match g.first, r with
          | none, .fault code => some (g.next, code)
          | f, _ => f
        let s := clearMarks g.id (setGather d g.id (fun g => { g with next := g.next + 1, first := first }) s)
        if g.scatter then s else setMapBits (gatherEng g) g.map (gatherBits g (g.next + 1)) s

/-- GATHER_COMPLETE (R208, R210). -/
def execGatherComplete (d : DieId) (id : Nat) (s : State) : Result :=
  .next (match (dieOf s d).gathers.find? (fun g => g.id == id && !g.scatter) with
    | some g => runGather d g s
    | none => s)

/-- SCATTER_COMPLETE (R209, R210). -/
def execScatterComplete (d : DieId) (id : Nat) (s : State) : Result :=
  .next (match (dieOf s d).gathers.find? (fun g => g.id == id && g.scatter) with
    | some g => runGather d g s
    | none => s)

/-! ### Reductions (R211 to R213) -/

/-- Whether the reduction unit of this package that serves a slot has a full queue: the instruction waits to issue (R186). The slot's page is translated as a walk would now. -/
def unitFull (s : State) (slot : Nat) : Bool :=
  match (cached s (thisCore s) s.cord.pasid slot (needOf .rdx)).orElse (fun _ => peekWalk s (thisDie s) s.cord.pasid slot (needOf .rdx)) with
  | none => false
  | some pa => match resolve s (thisDie s) (gfnOf pa) with
    | .here pool _ => decide (64 ≤ (dieOf s (rdxDie pool)).rdx.length)
    | _ => false

/-- A contribution to a reduction slot: a translated access that the slot's unit takes (R211, R335). -/
def contribute (stage : Nat) (a : Reg) (z : BitVec 3) (l : BitVec 4) (s : State) : State :=
  outsideBody (fun s =>
    let slot := blockPair s a 0
    if slot.toNat % 64 ≠ 0 || !globalRange slot 64 then refuseCmd s
    else if unitFull s slot.toNat then wait 5 s
    else
      let lane := { newLane 0 slot (blockPair s a 3) with data2 := (blockReg s a 2).setWidth 64, stage := stage }
      scalarIssue (scalarAccess s .rdx z.toNat 64 .none l lane) s) s

/-- RDXT (R211, R213). -/
def execRdxt (a : Reg) (z : BitVec 3) (l : BitVec 4) (s : State) : Result := .next (contribute 0 a z l s)
/-- RDXA (R211, R213). -/
def execRdxa (a : Reg) (z : BitVec 3) (l : BitVec 4) (s : State) : Result := .next (contribute 1 a z l s)

/-- The combining operation of a slot's KIND (R212). -/
def slotCombine (kind : Nat) (a b : DWord) : DWord :=
  match kind with
  | 0 => (addF32 (DWord.lo a) (DWord.lo b)).setWidth 64
  | 1 => (maxF32 (DWord.lo a) (DWord.lo b)).setWidth 64
  | 2 => (DWord.lo a + DWord.lo b).setWidth 64
  | _ => a + b

/-- A result in its slot: an f32 or i32 takes the low word (R212). -/
def slotResult (kind : Nat) (old new : DWord) : DWord := if kind = 3 then new else DWord.hi old ++ DWord.lo new

/-- The fields of a slot (R212). -/
def slotField (v off n : Nat) : Nat := v / 2 ^ (8 * off) % 2 ^ (8 * n)

/-- Whether every granule of a range is owned by this package (R212). -/
def ownedRange (s : State) (pa n : Nat) : Bool :=
  decide (pa + n < 2 ^ 57) && (List.range (n / 2097152 + 2)).all (fun i => let a := pa / 2097152 * 2097152 + i * 2097152; decide (pa + n ≤ a) || (ownedAt s.fabric (gfnOf a)).isSome)

/-- Whether a slot's latched fields and reserved bits are in range (R212). -/
def slotOk (s : State) (v : Nat) : Bool :=
  let expect := slotField v 4 4
  let leaves := slotField v 8 8
  decide (slotField v 0 4 < 4) && decide (1 ≤ expect) && decide (expect ≤ 65536) && leaves % 16 == 0 && ownedRange s leaves (16 * expect) &&
    slotField v 20 3 == 0 && slotField v 36 28 == 0

/-- The leaves of a slot with one more contribution (R213). -/
def addLeaf (kind slot : Nat) (index : Word) (v : DWord) (ls : List Leaf) : List Leaf :=
  if ls.any (fun l => l.slot == slot && l.index == index) then
    modifyWhere (fun l => l.slot == slot && l.index == index) (fun l => { l with value := slotCombine kind l.value v }) ls
  else ls ++ [{ slot := slot, index := index, value := v }]

/-- The state after the unit has taken a contribution to the slot whose bytes it has read (R213). -/
def takeContribution (k : Contribution) (v : Nat) (s : State) : State :=
  let put (off n x : Nat) (s : State) : State := { s with mem := memWrite s.mem (k.slot + off) n x }
  if (slotField v 20 4).testBit 31 then put 32 4 ((slotField v 32 4 + 1) % 2 ^ 32) s
  else
    let arrived := slotField v 16 4
    if arrived = 0 && !slotOk s v then put 20 4 (2 ^ 31 + 0x10 * 2 ^ 24) s
    else
      let fresh_ : Latch := { slot := k.slot, kind := slotField v 0 4 % 4, expect := slotField v 4 4, leaves := slotField v 8 8 }
      let kept := (s.latches.find? (fun l => l.slot == k.slot)).getD fresh_
      let lt := if arrived = 0 then fresh_ else kept
      let s := { s with latches := lt :: s.latches.filter (fun l => l.slot != k.slot)
                        leaves := if arrived = 0 then s.leaves.filter (fun l => l.slot != k.slot) else s.leaves }
      let old : DWord := BitVec.ofNat 64 (slotField v 24 8)
      let s := if k.tree then putFree (lt.leaves + 16 * arrived) 16 { s with leaves := addLeaf lt.kind k.slot k.index k.value s.leaves }
        else put 24 8 (slotResult lt.kind old (slotCombine lt.kind old k.value)).toNat s
      let s := put 16 4 ((arrived + 1) % 2 ^ 32) s
      if arrived + 1 = lt.expect then
        let mine := (s.leaves.filter (fun l => l.slot == k.slot)).map (fun l => (l.index.toNat, l.value))
        let cur : DWord := BitVec.ofNat 64 (memRead s.mem (k.slot + 24) 8)
        let s := match tree (slotCombine lt.kind) 32 mine with
          | some r => put 24 8 (slotResult lt.kind cur r).toNat s
          | none => s
        put 20 4 (2 ^ 31) { s with leaves := s.leaves.filter (fun l => l.slot != k.slot), latches := s.latches.filter (fun l => l.slot != k.slot) }
      else s

/-- An acknowledgement to a request of another package (R238, R240). -/
def sendAck (r : Req) (s : State) : State := sendMsg r.src (.resp 0x20 { src := s.fabric.num, dst := r.src, tag := r.tag, size := 0, payload := [] }) s

/-- The acknowledgement of the data of an NST alone, whose flag another package owns (R247). R238 gives SIZE no meaning in an ACK: SIZE 1 tells the requester that the flag is still to be
done (DESIGN CHOICE, log entry 47). -/
def sendHalfAck (r : Req) (s : State) : State := sendMsg r.src (.resp 0x20 { src := s.fabric.num, dst := r.src, tag := r.tag, size := 1, payload := [] }) s

/-- A negative reply to a request of another package (R172, R237, R248). -/
def sendNeg (r : Req) (code sub : Nat) (s : State) : State :=
  sendMsg r.src (.neg { src := s.fabric.num, requester := r.src, tag := r.tag, code := BitVec.ofNat 8 code, sub := BitVec.ofNat 8 sub }) s

/-- Whether the leaf area that a slot would latch lies in a granule whose move has started: the contribution waits (R212, R256). -/
def leavesMoved (s : State) (v : Nat) : Bool :=
  slotField v 16 4 == 0 && (beingMoved s (gfnOf (slotField v 8 8)) || beingMoved s (gfnOf (slotField v 8 8 + 16 * slotField v 4 4 - 1)))

/-- REDUCTION_CONTRIBUTION (R213): the unit takes the contribution at the head of its queue; a slot in a failed line answers 0x0B (R173). -/
def execReductionContribution (d : DieId) (s : State) : Result :=
  .next (match (dieOf s d).rdx with
    | [] => s
    | k :: rest =>
      let drop (s : State) : State := setDie s d (fun x => { x with rdx := rest })
      match reachSlice { cls := 2, pkg := s.fabric.num } 2 k.slot 64 none s with
      | (.busy, s) => s
      | (.refused code sub, s) =>
        drop (match k.reply with
          | some r => sendNeg r code sub s
          | none => errorEvent s)
      | (.done _, t) =>
        if leavesMoved t (memRead t.mem k.slot 64) then s
        else
        let s := t
        let s := takeContribution k (memRead s.mem k.slot 64) s
        drop (match k.reply with
          | some r => sendAck r s
          | none => s))

end Sys2Proof.Machine
end

