-- ==== Sys2Proof/Machine/Handler.lean ====
section
/-! DEFINITION. The supervisor handler: XRD, XWR, XRES, its requests, trap delivery and illegal words (08 R181; 13 R291, R292; 17 R390 to R392). -/

namespace Sys2Proof.Machine

/-! ### Selectors (R390) -/

/-- A register selector: its class, index and lane (R390). -/
structure RegSel where
  cls : Nat
  index : Nat
  lane : Nat
  deriving DecidableEq, Repr

/-- The register a selector names, when every field is in range for a lane-register allocation (R390, R391). -/
def regSel (alloc : Nat) (v : Word) : Option RegSel :=
  let x : RegSel := { cls := fieldNat v 0 4, index := fieldNat v 4 8, lane := fieldNat v 12 7 }
  let ok := match x.cls with
    | 0 | 1 => decide (x.index < 64) && x.lane == 0
    | 2 => decide (x.index < alloc) && decide (x.lane < 96)
    | 3 => decide (x.index < 8) && decide (x.lane < 3)
    | 4 => decide (x.index < 30) && x.lane == 0
    | 5 => decide (x.index < 9) && decide (x.lane < 2)
    | 6 => x.index == 0 && x.lane == 0
    | _ => false
  if ok && fieldNat v 19 13 == 0 then some x else none

/-- The cord that serves as the handler's current request, and its stand. -/
def servedStand (s : State) : Option StandKey :=
  match (coreOf s (thisCore s)).serving with
  | none => none
  | some i => ((allCords s).find? (fun c => c.id == i)).map (fun c => c.stand)

/-- The cord of the served stand that a selector names (R390, R391). -/
def selected (s : State) (v : Word) : Option Cord :=
  let id : CordId := { core := (thisCluster s) ++ v.extractLsb' 6 2, slot := v.extractLsb' 0 6, handler := false }
  if v.toNat / 256 ≠ 0 then none
  else match servedStand s with
    | none => none
    | some k => (allCords s).find? (fun c => c.id == id && c.stand == k)

/-- The state with a cord other than the acting one changed. -/
def setOther (id : CordId) (f : Cord → Cord) (s : State) : State := { s with cords := modifyWhere (fun c => c.id == id) f s.cords }

/-- The bank-0 fragment of a cord. -/
def bank0Frag (c : Cord) : Fragment := ((allFrags c).find? (fun f => !f.bank)).getD c.frag

/-- A running cord as XRD or XWR stops it (R391): both streams stop, and the lane queue of its bank-0 fragment is set aside. -/
def stopCord (c : Cord) : Cord :=
  match c.mode with
  | .running | .draining =>
    let g := bank0Frag c
    let c := selectFrag c g.id
    { c with mode := .stopped, stopPc := c.frag.pc, stopFrag := c.frag.id, aside := c.frag.queue, frag := { c.frag with queue := [] } }
  | _ => c

/-- Whether a cord is stopped and drained, so that its registers can be reached (R391). -/
def reachable (c : Cord) : Bool := (c.mode == .trapped || c.mode == .stopped) && drained c

/-- Whether a cord is held at a trap of its scalar stream. -/
def scalarTrap (c : Cord) : Bool := c.mode == .trapped && !c.trap.info.getLsbD 0

/-- The fragment that a stopped cord's masks and streams are those of (R390). -/
def stoppedFrag (c : Cord) : Fragment := (fragById c (if c.mode = .stopped then c.stopFrag else c.trapFrag)).getD c.frag

/-- An empty entry of the set-aside lane queue. -/
def noBlock : Block := { first := 0, count := 0, done := 0, ord := 0 }

/-- A set-aside entry's next word index and remaining count (R390). -/
def blockView (b : Block) (field : Nat) : Word := if field = 0 then BitVec.ofNat 32 (b.first + b.done) else BitVec.ofNat 32 (b.count - b.done)

/-- A set-aside entry with its next word index or its remaining count replaced. -/
def blockWrite (field : Nat) (v : Word) (b : Block) : Block :=
  let left := b.count - b.done
  if field = 0 then
    (if b.first ≤ v.toNat then { b with done := v.toNat - b.first, count := v.toNat - b.first + left }
     else { b with first := v.toNat, done := 0, count := left })
  else { b with count := b.done + v.toNat }

/-- A list with entry k replaced, padded with empty entries (R390). -/
def setBlock (k : Nat) (f : Block → Block) (bs : List Block) : List Block :=
  let padded := bs ++ List.replicate (k + 1 - bs.length) noBlock
  padded.set k (f (padded.getD k noBlock))

/-- The register a selector names, as a stopped cord holds it (R390, R391). -/
def readSel (f : Fabric) (c : Cord) (x : RegSel) : Word :=
  let g := stoppedFrag c
  let bankReg (b : Vector Word 64) : Word :=
    if x.index = 0 then 0 else if x.index < 61 then b.getD x.index 0 else maskWord g.mask (x.index - 61)
  match x.cls with
  | 0 => bankReg c.bank0
  | 1 => if c.topSplit then bankReg c.bank1 else 0
  | 2 => laneGet (vreg c (BitVec.ofNat 8 x.index)) x.lane
  | 3 => maskWord (predOf c (BitVec.ofNat 3 x.index)) x.lane
  | 4 => specialOf f (selectFrag c g.id) x.index
  | 5 => blockView (c.aside.getD x.index noBlock) x.lane
  | _ => if scalarTrap c then c.trap.resume else c.stopPc

/-- A stopped cord with the register a selector names written (R390, R391). -/
def writeSel (x : RegSel) (v : Word) (c : Cord) : Cord :=
  let g := stoppedFrag c
  let bankReg (b : Bool) : Cord :=
    if x.index = 0 then c
    else if x.index < 61 then setBank c b (BitVec.ofNat 6 x.index) v
    else mapFrags (fun f => if f.id = g.id then putMask (x.index - 61) v f else f) c
  match x.cls with
  | 0 => bankReg false
  | 1 => if c.topSplit then bankReg true else c
  | 2 => setLane c (BitVec.ofNat 8 x.index) x.lane v
  | 3 => setPred c (BitVec.ofNat 3 x.index) (setMaskWord (predOf c (BitVec.ofNat 3 x.index)) x.lane v)
  | 4 =>
    (match x.index with
     | 19 => { c with trap := { c.trap with resume := v } }
     | 26 | 27 => writeSpecial x.index v c
     | _ => c)
  | 5 => { c with aside := setBlock x.index (blockWrite x.lane v) c.aside }
  | _ => if scalarTrap c then { c with trap := { c.trap with resume := v } } else { c with stopPc := v }

/-- The code outside the handler (R391, R392): of 0x01 and 0x04 the lower, where the operands are out of range whatever request is served (R292; log entry 13). -/
def outsideHandler (sa : Word) (bad : Bool) : Nat := if bad || decide (sa.toNat / 256 ≠ 0) then 1 else 4

/-- An instruction of the handler on a cord (R391): the privilege check, the selector checks, and the wait until the cord is stopped and drained. -/
def onSelected (sa sb : Word) (k : Cord → RegSel → State → State) (s : State) : State :=
  if !s.cord.id.handler then raiseScalar (outsideHandler sa (regSel 256 sb).isNone) s
  else match selected s sa with
    | none => raiseScalar 1 s
    | some c => match regSel c.alloc sb with
      | none => raiseScalar 1 s
      | some x => if reachable c then k c x s else wait 13 (setOther c.id stopCord s)

/-- XRD (R391). -/
def execXrd (d a b : Reg) (s : State) : Result :=
  .next (onSelected (reg s a) (reg s b) (fun c x s => result d (readSel s.fabric c x) s) s)

/-- XWR (R391). -/
def execXwr (v a b : Reg) (s : State) : Result :=
  .next (onSelected (reg s a) (reg s b) (fun c x s => advance (setOther c.id (writeSel x (reg s v)) s)) s)

/-- A trapped or stopped cord as XRES resumes it (R392): none when its resume point is not one it accepts. -/
def resumed (s : State) (c : Cord) : Option Cord :=
  let c := selectFrag c (if c.mode = .stopped then c.stopFrag else c.trapFrag)
  match c.mode with
  | .trapped =>
    let lane := c.trap.info.getLsbD 0
    if lane && !resumeOk c.aside c.trap.resume.toNat then none
    else if !lane && decide (c.trap.resume.toNat % 4 ≠ 0) then none
    else some (resumeCord lane c.trap.resume c.aside (replaced s c c.trapReplay) c.frag.faults c)
  | .stopped =>
    let f := c.frag
    let g := { f with queue := restoreQueue c.aside none }
    let g := if c.stopPc = f.pc then g else atPc c.stopPc g
    let more := (allFrags c).any (fun h => !h.faults.isEmpty)
    some { c with frag := g, aside := [], mode := if more then .draining else .running }
  | _ => some c

/-- The state with a request ended when it is the cord's (R390). -/
def endRequest (i : CordId) (s : State) : State :=
  setCore s (thisCore s) (fun k => { k with serving := if k.serving = some i then none else k.serving })

/-- XRES (R392). -/
def execXres (a b : Reg) (s : State) : Result :=
  let act := (reg s b).toNat
  .next (
    if !s.cord.id.handler then raiseScalar (outsideHandler (reg s a) (decide (1 < act))) s
    else match selected s (reg s a) with
      | none => raiseScalar 1 s
      | some c =>
        if act = 0 then
          match resumed s c with
          | none => raiseScalar 1 s
          | some c' => endRequest c.id (setOther c.id (fun _ => c') (advance s))
        else if act = 1 then
          fatal (if c.mode = .trapped then c.trap.cause.toNat else 0) (selectCord (endRequest c.id (advance s)) c.id)
        else raiseScalar 1 s)

/-! ### Events -/

/-- TRAP_DELIVERY (R56): the trap of the earliest fault, once both streams have drained. -/
def execTrapDelivery (c : CordId) (s : State) : Result := .next (onEvent c deliverTrap s)

/-- The selector of a cord (R390). -/
def selectorOf (c : CordId) : Word := BitVec.ofNat 32 (64 * fieldNat c.core 0 2 + c.slot.toNat)

/-- The identity of a core's handler slot (R181). -/
def handlerId (k : CoreId) : CordId := { core := k, slot := 0, handler := true }

/-- The handler cord of a core as a request starts it (R181, R390): at the entry, with the selector in s1 and its other registers as they were. -/
def startHandler (im : HandlerImage) (served : Cord) (old : Cord) : Cord :=
  let f : Fragment := { Fragment.blank with id := old.nextId, pc := BitVec.ofNat 32 im.entry, mask := ~~~0, owned := ~~~0 }
  { old with id := handlerId served.id.core, mode := .running, queue := served.queue, seq := served.seq, order := served.order
             pasid := served.pasid, stand := served.stand, ncords := 1, alloc := 16, text := BitVec.ofNat 64 im.base, ltext := BitVec.ofNat 64 im.base
             lwords := im.size / 12, bank0 := old.bank0.set 1 (selectorOf served.id), frag := f, frags := [], nextId := old.nextId + 1, topSplit := false
             flights := old.flights.filter (fun x => x.op != .fetch), aside := [] }

/-- SUPERVISOR_REQUEST (R181, R390): the handler of a core starts the next queued request. -/
def execSupervisorRequest (k : CoreId) (s : State) : Result :=
  let c := coreOf s k
  .next (
    match c.serving, c.reqs, c.handler with
    | none, i :: rest, some im =>
      match (allCords s).find? (fun x => x.id == i) with
      | none => setCore s k (fun c => { c with reqs := rest ++ c.held.take 1, held := c.held.drop 1 })
      | some served =>
        let s := setCore s k (fun c => { c with reqs := rest ++ c.held.take 1, held := c.held.drop 1, serving := some i })
        let s := selectCord s (handlerId k)
        if onCord s (handlerId k) then { s with cord := startHandler im served s.cord }
        else { s with cord := startHandler im served Cord.blank, cords := (if s.cord.live then [s.cord] else []) ++ s.cords }
    | _, _, _ => s)

/-- ILLEGAL_INSTRUCTION (R291, R292): the word has no effect and is not replayed. -/
def execIllegalInstruction (w : IllegalWord) (s : State) : Result :=
  .next (match w with
    | .scalar _ => raiseScalar 1 s
    | .lane _ => raiseLane 1 0 true false s
    | .pair _ x y => raiseLane 1 0 x y s)

end Sys2Proof.Machine
end

