-- ==== Sys2Proof/Machine/MemEvents.lean ====
section
/-! DEFINITION. Returns of accesses, page walks and page requests, the replay of the log, invalidations, and ring messages (05 R108, R111, R113;
08 R160 to R173). -/

namespace Sys2Proof.Machine

/-! ### Returns (R112, R113, R173) -/

/-- The first lane of a flight that has still to read something. -/
def unread (f : Flight) : Option LaneAcc := f.lanes.find? (fun l => l.st == .todo)

/-- The state with a 128-byte run of a window marked failed (R173). -/
def markRun (k : StandKey) (off : Nat) (s : State) : State :=
  match findStand s k with
  | some st =>
    let s := setCluster s st.cluster (fun cl => { cl with failed := if cl.failed.contains (k, off / 128) then cl.failed else cl.failed ++ [(k, off / 128)] })
    errorEvent (countError .mark s)
  | none => s

/-- The state with a granule that this package owns retired (R173): its frame is not used again, and its owner record says so when it is held here. -/
def retireGranule (g : Gfn) (s : State) : State :=
  match ownedAt s.fabric g with
  | some (p, f) =>
    if s.fabric.retired.contains (p, f) then s
    else
      tellFlags g 2 (errorEvent (countError .retire { s with fabric := { s.fabric with retired := s.fabric.retired ++ [(p, f)] } }))
  | none => s

/-- The state with a run of a ring's records marked failed (R173). -/
def markRing (c : ClusterId) (i : BitVec 6) (off : Nat) (s : State) : State :=
  errorEvent (countError .mark (setRing c i (fun r => { r with failed := if r.failed.contains (off / 128) then r.failed else r.failed ++ [off / 128] }) s))

/-- The state with a line of a cluster cache's bank marked failed, until the bank next changes mode (R173). -/
def markWay (c : ClusterId) (way : BitVec 4) (set : Nat) (s : State) : State :=
  errorEvent (countError .mark (setCluster s c (fun cl => { cl with badWays := if cl.badWays.contains (way, set) then cl.badWays else cl.badWays ++ [(way, set)] })))

/-- The state with a line of this package's memory marked failed: its slice's data, or the memory behind it, whose granule is retired (R173). -/
def markLine (slice : Bool) (pa : Nat) (s : State) : State :=
  let s := { s with failed := if s.failed.contains (lineOf pa) then s.failed else s.failed ++ [lineOf pa] }
  if slice then errorEvent (countError .mark s) else retireGranule (gfnOf pa) s

/-- The storage that a read of a line by a cord of the acting cluster came from: the cluster cache where it holds a copy, and otherwise this package's slice or the memory behind it, as a
free choice says (R173; log entry 2); none where another package owns the line. -/
def copyPlace (pa : Nat) (stack : Bool) (s : State) : Option EccPlace × State :=
  match (clusterOf s (thisCluster s)).lines.find? (fun l => l.addr == lineOf pa && l.stack == stack) with
  | some l => (some (.way (thisCluster s) l.way (setOfLine l.addr)), s)
  | none =>
    let (t, s) := draw s
    (if (ownedAt s.fabric (gfnOf pa)).isNone then none else if Config.pick t % 2 = 0 then some (.slice pa) else some (.line pa), s)

/-- The storage that a lane's read came from. -/
def readPlace (l : LaneAcc) (s : State) : Option EccPlace × State :=
  match l.tgt with
  | .win k o => (some (.run k o), s)
  | .ringRec c i o => (some (.ring c i o), s)
  | .stack pa => copyPlace pa true s
  | .virt => (match cached s (thisCore s) s.cord.pasid l.va.toNat 1 with
    | some pa => copyPlace pa false s
    | none => (none, s))
  | _ => (none, s)

/-- The storages for which the host counts soft errors: 0 HBM4, 1 LPDDR6, 2 the data of the slices, 3 cluster SRAM, 4 register files and accumulators (R173, R266; the numbers are the
model's, log entry 33). -/
def storageOf (s : State) : EccPlace → Nat
  | .line pa => (match ownedAt s.fabric (gfnOf pa) with
    | some (pool, _) => if pool < 4 then 0 else 1
    | none => 0)
  | .slice _ => 2
  | .run _ _ | .ring _ _ _ | .way _ _ _ => 3
  | .regs _ => 4

/-- The state after an uncorrectable error in the registers of a cord (R173): a fatal fault. That of a supervisor handler is fatal to the stand it serves (R181). -/
def regsFail (c : CordId) (s : State) : State :=
  let s := selectCord s c
  if !onCord s c then s else if c.handler then toSupervisor 0x0B s else fatal 0x0B s

/-- The state after a read of a storage has met an error: one that the retry corrects is counted, and otherwise the storage is marked failed; a register file's or an accumulator's error is fatal to its
cord's launch (R173). -/
def eccTurn (p : EccPlace) (corrected : Bool) (s : State) : State :=
  if corrected then countError (.soft (storageOf s p)) s
  else match p with
    | .line pa => if (ownedAt s.fabric (gfnOf pa)).isSome then markLine false pa s else s
    | .slice pa => if (ownedAt s.fabric (gfnOf pa)).isSome then markLine true pa s else s
    | .run k off => markRun k off s
    | .ring c i off => markRing c i off s
    | .way c w set => markWay c w set s
    | .regs c => regsFail c s

/-- The state after the read of a lane has met an error. -/
def laneEcc (l : LaneAcc) (corrected : Bool) (s : State) : State :=
  match readPlace l s with
  | (some p, s) => eccTurn p corrected s
  | (none, s) => s

/-- MEMORY_REPLY (R112, R113, R166, R173): an access returns what it can. -/
def execMemoryReply (c : CordId) (id : Nat) (ecc : Ecc) (s : State) : Result :=
  .next (onEvent c (fun s =>
    match s.cord.flights.find? (fun f => f.id == id) with
    | none => s
    | some f =>
      let s := match ecc, unread f with
        | .ok, _ | _, none => s
        | .corrected, some l => laneEcc l true s
        | .failed, some l => laneEcc l false s
      returnFlight id s) s)

/-! ### Walks (R160 to R163) -/

/-- The lanes of every cord changed, where a cord and a flight are as named. -/
def mapLanes (p : Cord → Bool) (g : Flight → LaneAcc → LaneAcc) (s : State) : State :=
  mapCords (fun c => if p c then { c with flights := c.flights.map (fun f => { f with lanes := f.lanes.map (g f) }) } else c) s

/-- The page that a lane translates now: its flag's once a notify-store is there. -/
def lanePage (f : Flight) (l : LaneAcc) : Nat := (if f.op = .notify && l.stage = 1 then l.fva else l.va).toNat % 2 ^ 57 / 4096
/-- The permissions that a lane translates with now. -/
def laneNeed (f : Flight) (l : LaneAcc) : Nat := if f.op = .notify && l.stage = 1 then 2 else needOf f.op

/-- Whether a cord lies on a die under a PASID. -/
def underPasid (d : DieId) (p : Pasid) (c : Cord) : Bool := c.id.core.die == d && c.pasid == p

/-- The cores of a die. -/
def dieCores (d : DieId) : List CoreId := (List.range 64).map (fun i => d ++ BitVec.ofNat 6 i)

/-- The cores with a lane that waits for a walk of a page, or with log entries of it that are translated for their replay. -/
def walkCores (d : DieId) (p : Pasid) (page : Nat) (s : State) : List CoreId :=
  let lanes := (allCords s).filter (fun c => underPasid d p c && c.flights.any (fun f => f.lanes.any (fun l => l.st == .walking && lanePage f l == page)))
  (lanes.map (fun c => c.id.core) ++
    (dieCores d).filter (fun k => (coreOf s k).log.any (fun e => e.pasid == p && e.page == page && e.again && e.pa.isNone && !e.discarded))).eraseDups

/-- The state with a translation in the caches of every level for the cores that wait for it (R161). -/
def fillLevels (d : DieId) (cs : List CoreId) (e : TlbEntry) (s : State) : State :=
  let s := setDie s d (fun x => { x with ats := tlbAddAts x.ats e })
  cs.foldl (fun s c =>
    setCore (setCluster s c.cluster (fun x => { x with tlb := tlbAdd2 x.tlb e })) c (fun x => { x with tlb := tlbAdd1 x.tlb e })) s

/-- The state after a walk has failed for the accesses that need one set of permissions, of cords and of engine commands (R161, R164, R165). -/
def walkMissed (d : DieId) (p : Pasid) (page : Nat) (engines : List (Nat × Nat)) (need code : Nat) (s : State) : State :=
  let mine := fun (f : Flight) (l : LaneAcc) => l.st == .walking && lanePage f l == page && laneNeed f l == need
  (engines.filter (fun e => e.2 == need)).foldl (fun s e => engMiss d p page code e s)
    (mapLanes (underPasid d p) (fun f l => if mine f l then l.become (.missed code) else l) s)

/-- The state after a walk has found its leaf and marked it, for the accesses that need one set of permissions (R160, R161). -/
def walkFound (d : DieId) (p : Pasid) (page need : Nat) (r : WalkResult) (s : State) : State :=
  let mine := fun (f : Flight) (l : LaneAcc) => l.st == .walking && lanePage f l == page && laneNeed f l == need
  let s := match walkEntry p (page * 4096) need r with
    | some e => fillLevels d (walkCores d p page s) e s
    | none => s
  mapLanes (underPasid d p) (fun f l => if mine f l then l.become .todo else l) s

/-- The state after a walk has gone on for the accesses that need one set of permissions, and whether it waits: for a line of a table, or for the update of its leaf (R160, R161). -/
def fillNeed (d : DieId) (p : Pasid) (page : Nat) (engines : List (Nat × Nat)) (need : Nat) (s : State) : Bool × State :=
  let e := walkEng d p page
  match walkNow e p (page * 4096) need s with
  | (.later, s) => (true, s)
  | (.leaf shift frame r w x dd a, s) => (match markEntry e a need s with
    | (.later, s) => (true, s)
    | (.fault code, s) => (false, walkMissed d p page engines need (256 + code) (forgetEng e.id s))
    | (.ok _, s) => (false, walkFound d p page need (.leaf shift frame r w x dd a) (forgetEng e.id s)))
  | (r, s) => (false, walkMissed d p page engines need (missCode r) (forgetEng e.id s))

/-- WALK_FILL (R161, R162): a walk stamped before the current ISN is discarded and restarts, once what it has asked other packages for has come. -/
def execWalkFill (d : DieId) (pasid : Pasid) (page : Nat) (s : State) : Result :=
  let is := fun (w : Walk) => w.pasid == pasid && w.page == page
  let id := (walkEng d pasid page).id
  .next (match (dieOf s d).walks.find? is with
    | none => s
    | some w =>
      if w.stamp < (dieOf s d).isn then
        (if engOut s id then s else setDie (forgetEng id s) d (fun x => { x with walks := modifyWhere is (fun w => { w with stamp := x.isn }) x.walks }))
      else
        let r := w.need.foldl (fun (r : List Nat × State) n =>
          let (waits, s) := fillNeed d pasid page w.engines n r.2
          (if waits then r.1 ++ [n] else r.1, s)) ([], s)
        if r.1.isEmpty then setDie r.2 d (fun x => { x with walks := x.walks.filter (fun w => !is w) })
        else setDie r.2 d (fun x => { x with walks := modifyWhere is (fun w => { w with need := r.1 }) x.walks }))

/-! ### The replay of the log (R170) -/

/-- The state with a core's entry changed. -/
def setEntry (k : CoreId) (i : Nat) (f : LogEntry → LogEntry) (s : State) : State :=
  setCore s k (fun c => { c with log := modifyWhere (fun e => e.index == i) f c.log })

/-- A line with masked bytes of one of its words stored. -/
def storeWord (l : CacheLine) (off : Nat) (v : Word) (m : BitVec 4) : CacheLine :=
  let bytes : BitVec 128 := BitVec.ofNat 128 (m.toNat * 2 ^ off)
  { l with valid := l.valid ||| bytes, dirty := l.dirty ||| bytes, data := mergeBytes l.data (BitVec.ofNat 1024 (v.toNat * 2 ^ (8 * off))) bytes }

/-- A replay as an engine command: its identity keeps what it has asked other packages for. -/
def replayEng (k : CoreId) (e : LogEntry) : Eng :=
  { id := 2 ^ 96 * (1 + k.toNat) + e.seq.toNat, cluster := k.cluster, pasid := e.pasid, scope := e.scope + 1, stand := { queue := 0, seq := 0, num := 0 }, cls := 1, replay := true }

/-- The fault of a deferred trap (R170). -/
def deferredFault (c : Cord) (code : Nat) : PendFault :=
  { stream := .scalar, pc := c.frag.pc, code := code, sub := 0, lanes := 0, addr := 0, x := false, y := false, remote := false, deferred := true
    replay := .none, ord := (c.frag.count, 0) }

/-- The state after some entries of a core's log have been discarded: each cord that owns one takes a deferred trap (R170). -/
def discardEntries (k : CoreId) (es : List LogEntry) (code : Nat) (s : State) : State :=
  let s := es.foldl (fun s e => logImage k { e with discarded := true } 2 (setEntry k e.index (fun e => { e with discarded := true }) s)) s
  let hit := fun (c : Cord) => c.live && c.id.core == k && !c.id.handler && es.any (ownEntry c) && !(allFrags c).any (fun f => f.faults.any (fun x => x.deferred))
  let trap := fun (c : Cord) => if hit c then addFault c.frag.id (deferredFault c code) c else c
  setCore (mapCords trap s) k (fun x => { x with saved := x.saved.map (fun v => { v with cords := v.cords.map trap }) })

/-- What a replayed record does: it has been performed, it waits, or it faults with a code. A fault other than of translation, of which R170 says nothing, discards its entry like a refusal of its page
does (DESIGN CHOICE, log entry 65). -/
inductive Replayed where
  | done
  | later
  | fault (code : Nat)
  deriving DecidableEq, Repr

/-- A record replayed as a store of its cord (R170). -/
def replayStore (k : CoreId) (e : LogEntry) (pa : Nat) (r : LogRec) (s : State) : Replayed × State :=
  let c := k.cluster
  match leaveFor true c (lineOf pa) false s with
  | (none, s) => (.later, s)
  | (some s, _) =>
  if hasWays (clusterOf s c) then (match withRoom c (lineOf pa) false s with
    | (some cur, s) => (.done, keepIn c (storeWord cur (pa % 128) r.value r.mask) s)
    | (none, s) => (.later, s))
  else
    let one := storeWord (emptyLine (lineOf pa) false) (pa % 128) r.value r.mask
    match routeFor true s k.die (gfnOf pa) with
    | .here _ _ => (match sliceWrite { cordAgent s with replay := true } (lineOf pa) 128 one.data.toNat one.dirty.toNat none s with
        | (.done _, s) => (.done, s)
        | (.busy, s) => (.later, s)
        | (.refused code _, s) => (.fault code, s))
    | .away p => (match sendReq { die := k.die.toNat, dst := p, op := 0x03, size := 128, scope := 5, fn := 0, pasid := 0, addr := lineOf pa
                                  payload := maskedPayload one, waiter := .writeBack (lineOf pa) } s with
        | (some _, s) => (.done, s)
        | (none, s) => (.later, s))
    | .refused _ => (.fault 9, forgetEng (replayEng k e).id s)
    | .ask r => (.later, askOwner s k.die (gfnOf pa) r)
    | .hold => (.later, s)

/-- A record replayed as an ATOM of its cord at its recorded scope (R132, R170). -/
def replayAtom (k : CoreId) (e : LogEntry) (fn pa : Nat) (r : LogRec) (s : State) : Replayed × State :=
  let c := k.cluster
  let en := replayEng k e
  if e.scope = 0 && hasWays (clusterOf s c) then
    match engReadPhys en (lineOf pa) 128 s with
    | (.ok v, s) => (match withRoom c (lineOf pa) false s with
      | (none, s) => (.later, s)
      | (some cur, s) =>
        let line := fillLine cur (BitVec.ofNat 1024 v)
        let old : Word := BitVec.ofNat 32 (lineBytes line (pa % 128) 4)
        let new := (atomNew fn old r.value 0).getD old
        (.done, forgetEng en.id (keepIn c (storeLine line (pa % 128) 4 new.toNat) s)))
    | (.fault code, s) => (.fault (code % 256), forgetEng en.id s)
    | (.later, s) => (.later, s)
  else match (if e.scope = 0 then leaveFor true c (lineOf pa) false s else flushFor true c (lineOf pa) false s) with
    | (none, s) => (.later, s)
    | (some s, _) => match engAtomPhys en fn pa r.value s with
      | (.later, s) => (.later, s)
      | (.fault code, s) => (.fault (code % 256), forgetEng en.id s)
      | (.ok _, s) => (.done, forgetEng en.id s)

/-- The translated entry of a core whose turn it is: of the lowest sequence number (R170). -/
def nextReplay (k : Core) : Option LogEntry :=
  (k.log.filter (fun e => e.pa.isSome && !e.discarded)).foldl (fun b e => match b with
    | some x => if e.seq < x.seq then some e else some x
    | none => some e) none

/-- The state after the next record of a core's translated entries has been replayed, or has waited (R170). -/
def replayOne (k : CoreId) (s : State) : State :=
  match nextReplay (coreOf s k) with
  | none => s
  | some e =>
    match e.recs with
    | [] => freeLog k e s
    | r :: rs =>
      let pa := e.pa.getD 0 + 4 * r.word
      match (match e.atom with
        | some fn => replayAtom k e fn pa r s
        | none => replayStore k e pa r s) with
      | (.later, s) => s
      | (.fault code, s) => discardEntries k [e] code s
      | (.done, s) => if rs.isEmpty then freeLog k e s else setEntry k e.index (fun e => { e with recs := rs }) s

/-- The state after every record that can be has been replayed, within a number of tries. -/
def replayAll (k : CoreId) : Nat → State → State
  | 0, s => s
  | n + 1, s => replayAll k n (replayOne k s)

/-- A page's pending entries of a core. -/
def pageEntries (k : Core) (p : Pasid) (page : Nat) : List LogEntry := k.log.filter (fun e => e.pasid == p && e.page == page && !e.discarded)

/-- The state after a page's pending entries of a core have been discarded (R170). -/
def discardPage (k : CoreId) (p : Pasid) (page code : Nat) (s : State) : State := discardEntries k (pageEntries (coreOf s k) p page) code s

/-- The identity under which a core's log has a page translated. -/
def pageEng (k : CoreId) (p : Pasid) (page : Nat) : Nat := 2 ^ 224 * (1 + k.toNat + 256 * p.toNat) + page

/-- The state in which a page's pending entries of a core are translated once more, since a page request of the page has ended in Success (R166, R170): that Success counts for them whether or not
they had asked for the request. -/
def againPage (k : CoreId) (p : Pasid) (page : Nat) (asked : List Nat) (s : State) : State :=
  let es := pageEntries (coreOf s k) p page
  let id := pageEng k p page
  let s := es.foldl (fun s e => setEntry k e.index (fun e => { e with again := true }) s) s
  if es.isEmpty || asked.contains id then s else { s with answers := s.answers ++ [{ id := id, page := page, write := true, code := 0 }] }

/-- The state after the translation of a page's pending entries of a core has gone on, as an engine command's (R161, R166): they have their frame, or are discarded (R170). -/
def translatePage (k : CoreId) (p : Pasid) (page : Nat) (s : State) : State :=
  let es := pageEntries (coreOf s k) p page
  let need := if es.any (fun e => e.atom.isSome) then 3 else 2
  let id := pageEng k p page
  let found (pa : Nat) (s : State) : State := es.foldl (fun s e => setEntry k e.index (fun e => { e with pa := some pa }) s) (forgetEng id s)
  match cached s k p (page * 4096) need with
  | some pa => found pa s
  | none => match engTranslate k.die p id (page * 4096) need s with
    | (.phys pa, s) => found pa s
    | (.later, s) => s
    | (.fault code, s) => discardPage k p page (code % 256) (forgetEng id s)

/-- The state after the pages of a core's entries that are to be translated have been looked at. -/
def translateLog (k : CoreId) (s : State) : State :=
  let ps := (((coreOf s k).log.filter (fun e => e.again && e.pa.isNone && !e.discarded)).map (fun e => (e.pasid, e.page))).eraseDups
  ps.foldl (fun s x => translatePage k x.1 x.2 s) s

/-! ### Page responses (R166) -/

/-- A die's page request that a reference names. -/
def findRequest (s : State) (r : PageRef) : Option PageReq := (dieOf s r.die).pageReqs.find? (fun q => q.pasid == r.pasid && q.page == r.page && q.write == r.write)

/-- Whether a lane waits for a page request. -/
def parkedOn (r : PageRef) (f : Flight) (l : LaneAcc) : Bool := isParked l && lanePage f l == r.page && (laneNeed f l).testBit 1 == r.write

/-- The state without a page request, with the engine commands that waited for it answered: with Success, or each with the code of its fault. -/
def closeRequest (q : PageReq) (r : PageRef) (ok : Bool) (s : State) : State :=
  let s := setDie s r.die (fun d => { d with pageReqs := d.pageReqs.filter (fun x => !(x.pasid == r.pasid && x.page == r.page && x.write == r.write)) })
  { s with answers := s.answers ++ q.engines.map (fun e => ({ id := e.1, page := r.page, write := r.write, code := if ok then 0 else e.2 } : EngAnswer)) }

/-- PAGE_RESPONSE_SUCCESS (R166, R170). -/
def execPageResponseSuccess (r : PageRef) (s : State) : Result :=
  .next (match findRequest s r with
    | none => s
    | some q =>
      let s := closeRequest q r true s
      let s := mapLanes (underPasid r.die r.pasid) (fun f l => if parkedOn r f l then { l with st := .todo, tries := l.tries + 1 } else l) s
      if r.write then (dieCores r.die).foldl (fun s k => againPage k r.pasid r.page (q.engines.map (fun e => e.1)) s) s else s)

/-- A lane whose page request has been refused: it faults with the code that its walk found. -/
def refusedLane (r : PageRef) (f : Flight) (l : LaneAcc) : LaneAcc :=
  match l.st with
  | .parked code => if parkedOn r f l then l.become (.failed code 0) else l
  | _ => l

/-- The state after a core's entries of a page have been discarded for a refusal, with the code that their last walk found. -/
def refuseLog (k : CoreId) (q : PageReq) (r : PageRef) (s : State) : State :=
  let id := pageEng k r.pasid r.page
  match (q.engines.find? (fun e => e.1 == id)).map (fun e => e.2), pageEntries (coreOf s k) r.pasid r.page with
  | _, [] => s
  | code, e :: _ => discardPage k r.pasid r.page (code.getD e.code) (forgetEng id s)

/-- The state after a page request has been refused (R166, R170): each access that waits faults, with 0x08 where its walk found that a permission denies it, else 0x07. -/
def refusePage (q : PageReq) (r : PageRef) (s : State) : State :=
  let s := mapLanes (underPasid r.die r.pasid) (refusedLane r) (closeRequest q r false s)
  if r.write then (dieCores r.die).foldl (fun s k => refuseLog k q r s) s else s

/-- PAGE_RESPONSE_INVALID_REQUEST (R166). -/
def execPageResponseInvalidRequest (r : PageRef) (s : State) : Result :=
  .next (match findRequest s r with
    | none => s
    | some q => refusePage q r s)

/-- The state after a failed request: the die stops sending them (R166). -/
def failPage (r : PageRef) (s : State) : State :=
  match findRequest s r with
  | none => s
  | some q => setDie (refusePage q r s) r.die (fun d => { d with requestsOff := true })

/-- PAGE_RESPONSE_FAILURE (R166). -/
def execPageResponseFailure (r : PageRef) (s : State) : Result := .next (failPage r s)

/-- PAGE_REQUEST_TIMEOUT (R166): a timeout of 0 waits without limit. -/
def execPageRequestTimeout (r : PageRef) (s : State) : Result := .next (if (dieOf s r.die).timeout = 0 then s else failPage r s)

/-! ### Invalidations (R162) -/

/-- Whether an entry matches an invalidation of a PASID and page, each of which may be absent. -/
def invMatches (pasid : Option Pasid) (page : Option Nat) (e : TlbEntry) : Bool :=
  (match pasid with
   | some p => e.pasid == p
   | none => true) && (match page with
   | some g => decide (g * 4096 / 2 ^ e.shift = e.page)
   | none => true)

/-- The entries of every level on a die. -/
def dieEntries (s : State) (d : DieId) : List TlbEntry :=
  (dieOf s d).ats ++ (List.range 16).flatMap (fun i => (clusterOf s (d ++ BitVec.ofNat 4 i)).tlb) ++ (dieCores d).flatMap (fun k => (coreOf s k).tlb)

/-- Whether a lane's access was translated by one of some entries and has not returned. -/
def usesEntry (es : List TlbEntry) (c : Cord) (f : Flight) (l : LaneAcc) : Bool :=
  (match l.st with
   | .sent _ _ | .half | .done _ => true
   | _ => false) && l.tgt == .virt && es.any (fun e => e.pasid == c.pasid && decide (lanePage f l * 4096 / 2 ^ e.shift = e.page))

/-- The state after a die has begun an invalidation (R162 steps 1 and 2). -/
def startInval (pasid : Option Pasid) (page : Option Nat) (d : DieId) (s : State) : State :=
  let gone := (dieEntries s d).filter (invMatches pasid page)
  let keep := fun (es : List TlbEntry) => es.filter (fun e => !invMatches pasid page e)
  let fl := (allCords s).flatMap (fun c => if c.id.core.die = d then (c.flights.filter (fun f => f.lanes.any (usesEntry gone c f))).map (fun f => (c.id, f.id)) else [])
  let inv (n : DWord) : Inval := { isn := n, frames := (gone.map (fun e => (e.frame * 2 ^ e.shift, 2 ^ e.shift))).eraseDups, flights := fl }
  let s := setDie s d (fun x => { x with isn := x.isn + 1, ats := keep x.ats, invals := x.invals ++ [inv (x.isn + 1)] })
  let s := (List.range 16).foldl (fun s i => setCluster s (d ++ BitVec.ofNat 4 i) (fun x => { x with tlb := keep x.tlb })) s
  (dieCores d).foldl (fun s k => setCore s k (fun x => { x with tlb := keep x.tlb })) s

/-- Whether an address lies in one of some frames. -/
def inFrames (fs : List (Nat × Nat)) (pa : Nat) : Bool := fs.any (fun f => decide (f.1 ≤ pa) && decide (pa < f.1 + f.2))

/-- Whether a die's invalidation still waits for a walk or an access (R162 steps 3 and 4). -/
def invWaits (s : State) (d : DieId) (v : Inval) : Bool :=
  (dieOf s d).walks.any (fun w => w.stamp < v.isn) ||
    v.flights.any (fun p => (allCords s).any (fun c => c.id == p.1 && c.flights.any (fun f => f.id == p.2 && !f.lanes.all settled))) ||
    (dieCores d).any (fun k => (coreOf s k).log.any (fun e => !e.discarded && e.pa.any (inFrames v.frames))) ||
    s.fabric.outstanding.any (fun o => match o.waiter with
      | .engine _ pa _ => inFrames v.frames pa
      | _ => false)

/-- Whether the compute side's invalidation queue has room (R257): every die has fewer than 32 under way. -/
def invalRoom (s : State) : Bool := s.dies.toList.all (fun d => decide (d.invals.length < 32))

/-- The state after the IOMMU has forwarded the oldest invalidation that waits for room. -/
def forwardInval (s : State) : State :=
  match s.iommu.queue with
  | [] => s
  | (pasid, page) :: rest =>
    if invalRoom s then allDies.foldl (fun s d => startInval pasid page d s) { s with iommu := { s.iommu with sent := s.iommu.sent + 1, queue := rest } } else s

/-- The state after a die's oldest invalidation has gone on: it writes back the dirty bytes of the frames, and is complete once they are acknowledged
(R162 step 5). -/
def pushInval (d : DieId) (s : State) : State :=
  match (dieOf s d).invals with
  | [] => s
  | v :: vs =>
    if invWaits s d v then s
    else
      let cs : List ClusterId := (List.range 16).map (fun i => d ++ BitVec.ofNat 4 i)
      let mine := fun (l : CacheLine) => !l.stack && l.dirty != 0 && inFrames v.frames l.addr
      let s := cs.foldl (fun s c => ((clusterOf s c).lines.filter mine).foldl (fun s l => writeBack c l s) s) s
      let dirty := cs.any (fun c => (clusterOf s c).lines.any mine) || s.fabric.outstanding.any (fun o => match o.waiter with
        | .writeBack l => inFrames v.frames l
        | _ => false)
      if dirty then s else forwardInval (setDie s d (fun x => { x with invals := vs, invDone := x.invDone + 1 }))

/-- INVALIDATION (R162): the IOMMU forwards it, and every die begins it; each goes on as its walks and accesses end. It waits at the IOMMU while the queue of 32 is full (R257). -/
def execInvalidation (pasid : Option Pasid) (page : Option Nat) (s : State) : Result :=
  .next (if !s.iommu.queue.isEmpty || !invalRoom s then { s with iommu := { s.iommu with queue := s.iommu.queue ++ [(pasid, page)] } } else allDies.foldl (fun s d => pushInval d (startInval pasid page d s)) { s with iommu := { s.iommu with sent := s.iommu.sent + 1 } })

/-! ### Ring messages (R108, R111) -/

/-- RING_HEAD_STORE (R108). -/
def execRingHeadStore (c : ClusterId) (ring : BitVec 6) (h : Word) (s : State) : Result := .next (setRing c ring (moveHead h) s)

/-- The state with the sender of a message told that its ring has it (R111). -/
def ackMsg (m : RingMsg) (s : State) : State :=
  match m.fromCord, m.fromReq with
  | some (c, id), _ =>
    mapLanes (fun x => x.id == c) (fun f l => if f.id = id then l.become (.done 0) else l) s
  | none, some r => sendAck r s
  | none, none => s

/-- The first held message whose ring has room, with the messages before it. -/
def readyMsg (s : State) (c : ClusterId) : List RingMsg → List RingMsg → Option (List RingMsg × RingMsg × List RingMsg)
  | _, [] => none
  | past, m :: ms =>
    let room := match ringAt (clusterOf s c) m.ring with
      | some r => ringCount r < ringSize r && !past.any (fun x => x.ring == m.ring)
      | none => false
    if room then some (past, m, ms) else readyMsg s c (past ++ [m]) ms

/-- INBOUND_BUFFER_APPEND (R111): a held message is appended when its ring has gained space. -/
def execInboundBufferAppend (c : ClusterId) (s : State) : Result :=
  .next (match readyMsg s c [] (clusterOf s c).inbound with
    | none => s
    | some (past, m, ms) =>
      ackMsg m (setRing c m.ring (appendRecord m.payload) (setCluster s c (fun cl => { cl with inbound := past ++ ms }))))

/-- SNDM_RETRY (R111): the sending interface tries a refused message again. -/
def execSndmRetry (c : CordId) (id : Nat) (s : State) : Result := .next (onEvent c (pushFlight id) s)

end Sys2Proof.Machine
end

