-- ==== Sys2Proof/Machine/Owner.lean ====
section
/-! DEFINITION. Requests of other packages at this one: reads, writes, atomics, messages, owner records, coherence and contributions, and what a moving or moved
granule does with them (11 R231, R234, R238 to R241, R246 to R254). -/

namespace Sys2Proof.Machine

/-- n bytes of a payload at an offset. -/
def payNat (r : Req) (off n : Nat) : Nat := natOfBytes ((r.payload.drop off).take n)
/-- The address of a request. -/
def reqAddr (r : Req) : Nat := r.addr.toNat
/-- The agent of a request's access at a slice (R270): another package, or a cord of this one whose access its own move held. -/
def farAgent (r : Req) (s : State) : Agent := { cls := if r.src = s.fabric.num then 1 else 3, pkg := r.src }
/-- A DATA response to a request (R238). -/
def sendData (r : Req) (n v : Nat) (s : State) : State :=
  sendMsg r.src (.resp 0x21 { src := s.fabric.num, dst := r.src, tag := r.tag, size := sizeCode n, payload := bytesOfNat n v }) s

/-! ### The node directory (R234) -/

/-- The directory entry of a line; an absent one is I. -/
def dirEntry (f : Fabric) (line : Nat) : DirEntry := (f.directory.find? (fun e => e.line == line)).getD { line := line, modified := false, mask := 0 }
/-- The state with a directory entry replaced; one that tracks no copy is I. -/
def putDir (e : DirEntry) (s : State) : State :=
  let rest := s.fabric.directory.filter (fun x => x.line != e.line)
  { s with fabric := { s.fabric with directory := if e.mask = 0 then rest else e :: rest } }
/-- The bit of a node partner in a position mask. -/
def partnerBit (p : PkgNo) : BitVec 4 := 1#4 <<< position p
/-- Whether a package is a node partner of this one. -/
def isPartner (f : Fabric) (p : PkgNo) : Bool := p != f.num && sameNode p f.num

/-- The state after a partner has taken a line in S. -/
def dirShare (line : Nat) (p : PkgNo) (s : State) : State :=
  if isPartner s.fabric p then putDir { dirEntry s.fabric line with mask := (dirEntry s.fabric line).mask ||| partnerBit p } s else s
/-- The state after a partner's copy of a line is gone. -/
def dirDrop (line : Nat) (p : PkgNo) (s : State) : State :=
  if isPartner s.fabric p then putDir { line := line, modified := false, mask := (dirEntry s.fabric line).mask &&& ~~~(partnerBit p) } s else s

/-! ### What the owner performs (R240) -/

/-- What an owner's interface did with a request: performed it and answered, or what it must try again (operation 0x45 is the flag of an NST whose data
is written, which is an AT that is acknowledged). -/
structure Tried where
  left : Option (Nat × Req)
  state : State

/-- An answer of a slice, as an owner's interface takes it: k answers a performed access. -/
def triedOf (op : Nat) (r : Req) (x : Served × State) (k : Nat → State → State) : Tried :=
  match x.1 with
  | .done v => { left := none, state := k v x.2 }
  | .busy => { left := some (op, r), state := x.2 }
  | .refused code sub => { left := none, state := sendNeg r code sub x.2 }

/-- RD (R240): a node partner's read takes the line in S (R234). -/
def doRead (r : Req) (s : State) : Tried :=
  let n := sizeBytes r.size
  triedOf 0x01 r (sliceRead (farAgent r s) (reqAddr r) n s) (fun v s => sendData r n v (dirShare (lineOf (reqAddr r)) r.src s))

/-- Whether a partner holds a line in M. -/
def heldBy (f : Fabric) (line : Nat) (p : PkgNo) : Bool :=
  isPartner f p && (dirEntry f line).modified && (dirEntry f line).mask.getLsbD (position p)

/-- The state after a partner's write of a line at the owner: it has the line in M (R234). -/
def written (r : Req) (a : Nat) (s : State) : State :=
  if isPartner s.fabric r.src then putDir { line := lineOf a, modified := true, mask := partnerBit r.src } s else s

/-- WR (R240). -/
def doWrite (r : Req) (s : State) : Tried :=
  let n := sizeBytes r.size
  triedOf 0x02 r (sliceWrite (farAgent r s) (reqAddr r) n (payNat r 0 n) (2 ^ n - 1) (some r.src) s) (fun _ s => sendAck r (written r (reqAddr r) s))

/-- WRM (R240): a byte mask of the line, then its bytes; an empty mask marks the line failed (R173; log entry 9). -/
def doMasked (r : Req) (s : State) : Tried :=
  if payNat r 0 16 = 0 then { left := none, state := sendAck r (markDest (lineOf (reqAddr r)) s) }
  else triedOf 0x03 r (sliceWrite (farAgent r s) (lineOf (reqAddr r)) 128 (payNat r 16 128) (payNat r 0 16) (some r.src) s)
    (fun _ s => sendAck r (written r (reqAddr r) s))

/-- A WRM from the partner that holds its line in M, the eviction of its copy: the bytes are the line's, so they wait for nothing, and the line is left in I (R234). -/
def evicted (r : Req) (s : State) : State :=
  let line := lineOf (reqAddr r)
  let s := if payNat r 0 16 = 0 then markDest line s else touchMask (farAgent r s) 1 line (payNat r 0 16) s
  sendAck r (dirDrop line r.src { s with mem := memWriteMask s.mem line 128 (payNat r 16 128) (payNat r 0 16) })

/-- A 4- or 8-byte atomic of another package at the slice, with its old value. -/
def farAtom (r : Req) (fn a size : Nat) (b new : DWord) (s : State) : Served × State :=
  match reachSlice (farAgent r s) 2 a size none s with
  | (.done _, s) =>
    let old := memRead s.mem a size
    (.done old, match hostAtom fn size (BitVec.ofNat 64 old) b new with
      | some v => { s with mem := memWrite s.mem a size v.toNat }
      | none => s)
  | x => x

/-- AT (R240). -/
def doAtomic (r : Req) (s : State) : Tried :=
  let n := sizeBytes r.size
  triedOf 0x04 r (farAtom r r.fn.toNat (reqAddr r) n (BitVec.ofNat 64 (payNat r 0 8)) (BitVec.ofNat 64 (payNat r 8 8)) s) (fun v s => sendData r n v s)

/-- The state with a request held by the move of its granule, in arrival order (R250 step 3). -/
def holdRequest (op : Nat) (r : Req) (s : State) : State :=
  { s with fabric := { s.fabric with moves := modifyWhere (fun m => m.req.gfn == gfnOf (reqAddr r)) (fun m => { m with held := m.held ++ [(op, r)] }) s.fabric.moves } }

/-- The request that is left of an NST once its data is written. -/
def nstFlag (r : Req) : Req := { r with addr := BitVec.ofNat 57 (payNat r 0 16), payload := [] }

/-- The AT request of fn 0 that the held flag of an NST becomes at a stump (R250 step 5). -/
def flagAtom (dst : PkgNo) (r : Req) : Req := { r with dst := dst, size := 0, fn := 0, payload := bytesOfNat 8 1 ++ bytesOfNat 8 0 }

/-- The flag of an NST whose data this package has written (R247): its increment when this package owns it too, which a move of its granule holds (R250 step 3). When another package owns it
by now, the ACK is for the data alone, and the requester's interface sends the increment. -/
def doFlag (r : Req) (s : State) : Tried :=
  let g := gfnOf (reqAddr r)
  if (ownedAt s.fabric g).isNone then { left := none, state := sendHalfAck r s }
  else if movingNow s g then { left := none, state := holdRequest 0x45 r s }
  else triedOf 0x45 r (farAtom r 0 (reqAddr r) 4 1 0 s) (fun _ s => sendAck r s)

/-- NST (R247): the data at its owner, and then the flag. -/
def doNst (r : Req) (s : State) : Tried :=
  let n := sizeBytes r.size
  match sliceWrite (farAgent r s) (reqAddr r) n (payNat r 16 n) (2 ^ n - 1) (some r.src) s with
  | (.busy, s) => { left := some (0x05, r), state := s }
  | (.refused code sub, s) => { left := none, state := sendNeg r code sub s }
  | (.done _, s) => doFlag (nstFlag r) (written r (reqAddr r) s)

/-- MSG (R111, R240): the message at its cluster's network interface; a full inbound buffer refuses it until it has room. -/
def doMsg (r : Req) (s : State) : Tried :=
  let h : Word := r.addr.setWidth 32
  let c : ClusterId := h.extractLsb' 19 6
  match ringRefusal (clusterOf s c) h r.pasid with
  | some sub => { left := none, state := sendNeg r 9 sub s }
  | none =>
    match deliverRing c { ring := h.extractLsb' 13 6, payload := BitVec.ofNat 128 (payNat r 0 16), fromCord := none, fromReq := some r } s with
    | (.appended, s) => { left := none, state := sendAck r s }
    | (.held, s) => { left := none, state := s }
    | (.full, s) => { left := some (0x06, r), state := s }

/-- BWR (R240): every line of the range must be free before any of it is written. -/
def doBulkWrite (r : Req) (s : State) : Tried :=
  let n := sizeBytes r.size
  let a := reqAddr r
  let ps := linePieces (n + 1) a 0 n
  let claim := fun (p : Bool × State) (x : Nat × Nat) => match reachSlice (farAgent r p.2) 1 (a + x.1) x.2 (some r.src) p.2 with
    | (.done _, s) => (p.1, s)
    | (_, s) => (false, s)
  match ps.foldl claim (true, s) with
  | (false, s) => { left := some (0x07, r), state := s }
  | (true, s) =>
    let s := ps.foldl (fun s x => written r (a + x.1) s) { s with mem := memWrite s.mem a n (payNat r 0 n) }
    { left := none, state := sendAck r s }

/-- BRD (R240): a node partner's read takes its lines in S (R234), and its data is bulk traffic (R246). -/
def doBulkRead (r : Req) (s : State) : Tried :=
  let n := sizeBytes r.size
  let a := reqAddr r
  let read := fun (p : Served × State) (x : Nat × Nat) => match p.1 with
    | .done v => (match sliceRead (farAgent r p.2) (a + x.1) x.2 p.2 with
      | (.done w, s) => (.done (v + 2 ^ (8 * x.1) * w), s)
      | y => y)
    | _ => p
  let ps := linePieces (n + 1) a 0 n
  triedOf 0x08 r (ps.foldl read (.done 0, s)) (fun v s =>
    sendBulk r.src a (.resp 0x21 { src := s.fabric.num, dst := r.src, tag := r.tag, size := r.size, payload := bytesOfNat n v })
      (ps.foldl (fun s x => dirShare (lineOf (a + x.1)) r.src s) s))

/-- RDX (R211, R213, R240): into the queue of the unit that serves the slot, when it has room. -/
def doContribute (tree : Bool) (r : Req) (s : State) : Tried :=
  match ownedAt s.fabric (gfnOf (reqAddr r)) with
  | none => { left := some (0x0C, r), state := s }
  | some (pool, _) =>
    let d := rdxDie pool
    if 64 ≤ (dieOf s d).rdx.length || beingMoved s (gfnOf (reqAddr r)) then { left := some (0x0C, r), state := s }
    else
      let k : Contribution := { launch := none, tree := tree, slot := reqAddr r / 64 * 64, index := BitVec.ofNat 32 (payNat r 0 4), value := BitVec.ofNat 64 (payNat r 4 8)
                                scope := r.scope.toNat, reply := some r }
      { left := none, state := setDie s d (fun x => { x with rdx := x.rdx ++ [k] }) }

/-- COH fetch shared and exclusive at the owner (R234): a fetch for a write first calls back every other copy. It is the partner's read or write of the line for the host transactions that
have the line (R157). -/
def doFetch (exclusive : Bool) (r : Req) (s : State) : Tried :=
  let line := lineOf (reqAddr r)
  match claimLine line exclusive (some r.src) s with
  | some s => { left := some (0x0A, r), state := s }
  | none =>
    let s := hostConflict line exclusive s
    let s := if exclusive then putDir { line := line, modified := true, mask := partnerBit r.src } s else dirShare line r.src s
    { left := none, state := sendAck r s }

/-- A request performed by the owner of its granule. -/
def perform (op : Nat) (r : Req) (s : State) : Tried :=
  match op with
  | 0x01 => doRead r s
  | 0x02 => doWrite r s
  | 0x03 => doMasked r s
  | 0x04 => doAtomic r s
  | 0x05 => doNst r s
  | 0x06 => doMsg r s
  | 0x07 => doBulkWrite r s
  | 0x08 => doBulkRead r s
  | 0x0A => doFetch (r.fn == 1) r s
  | 0x0C => doContribute (r.fn == 0) r s
  | 0x45 => doFlag r s
  | _ => { left := none, state := s }

/-- The state with a request kept to be tried again, behind those of its package for its page (R140). -/
def keepRequest (op : Nat) (r : Req) (s : State) : State := { s with fabric := { s.fabric with pending := s.fabric.pending ++ [.req op r] } }

/-- Whether an operation that waits here is this package's own: a request whose owner is asked for again (0x40), a MIG outcome (0x41), a write of the device itself (0x42), a MIG message (0x43), or a request to send
again (0x44). -/
def ownOp (op : Nat) : Bool := decide (0x40 ≤ op) && decide (op ≤ 0x44)

/-- Whether an older request waits for the same page, from the same package (R140). -/
def behind (r : Req) (ms : List OutMsg) : Bool :=
  ms.any (fun m => match m with
    | .req op x => !ownOp op && x.src == r.src && x.addr.toNat / 4096 == r.addr.toNat / 4096
    | _ => false)

/-! ### Moving and moved granules (R250 to R253) -/

/-- The stump of a granule. -/
def stumpOf (f : Fabric) (g : Gfn) : Option Stump := f.stumps.find? (fun x => x.gfn == g)

/-- Whether a request is bulk traffic (R246): a BWR, one that came through a relay deck, or one of this package's engines. Nothing in a masked write that came on a direct match says that an
engine sent it (DEDUCED, log entry 47). -/
def bulkReq (f : Fabric) (op : Nat) (r : Req) : Bool :=
  op == 0x07 || r.rly || (r.src == f.num && f.outstanding.any (fun o => o.bulk && o.op == op && o.req.tag == r.tag && o.req.addr == r.addr))

/-- The state after a stump has relayed a request, with a redirect to its requester (R251): a bulk request is bulk traffic, and the flag of an NST goes on as its atomic. -/
def relayStump (t : Stump) (op : Nat) (r : Req) (s : State) : State :=
  let r' := { r with dst := t.owner, rly := false }
  let s := { s with fabric := { s.fabric with stumps := s.fabric.stumps.map (fun x => if x.gfn = t.gfn then { x with relayed := x.relayed || op != 0x0B } else x) } }
  let s := if op = 0x45 then sendMsg t.owner (.req 0x04 (flagAtom t.owner r)) s
    else if bulkReq s.fabric op r then sendBulk t.owner (reqAddr r) (.req op r') s
    else sendMsg t.owner (.req op r') s
  sendMsg r.src (.redir { requester := r.src, owner := t.owner, gfn := t.gfn, gen := BitVec.ofNat 22 t.gen }) s

/-- A granule on its way here (R250). -/
def incomingOf (f : Fabric) (g : Gfn) : Option Incoming := f.incoming.find? (fun x => x.gfn == g)

/-- The state with a granule that has come to this package served by it (R250 step 4). -/
def serveIncoming (x : Incoming) (s : State) : State :=
  { s with fabric := { s.fabric with here := { gfn := x.gfn, pool := x.pool, frame := x.frame } :: s.fabric.here.filter (fun o => o.gfn != x.gfn) } }

/-- The state with a piece of the copy of a granule written into the frame reserved for it; after its last line the package serves the granule. A piece of 16 bytes stands for a line
that has failed at the old owner, and the line arrives marked failed (R250 step 4; DESIGN CHOICE, log entry 9: the spec names no message for it). -/
def copyIn (r : Req) (x : Incoming) (s : State) : State :=
  let n := sizeBytes r.size
  let a := reqAddr r
  let ls := (List.range ((n + 127) / 128)).map (fun i => lineOf a + 128 * i)
  let good := s.failed.filter (fun l => !ls.contains l)
  let x := { x with left := x.left - ls.length }
  let s := wakeLines a n s
  let s := { s with mem := if n = 16 then s.mem else memWrite s.mem a n (payNat r 0 n), failed := if n = 16 then good ++ ls else good
                    fabric := { s.fabric with incoming := x :: s.fabric.incoming.filter (fun y => y.gfn != x.gfn) } }
  sendAck r (if x.left = 0 then serveIncoming x s else s)

/-- A request performed now, or kept until it can be. -/
def performOrKeep (op : Nat) (r : Req) (s : State) : State :=
  if behind r s.fabric.pending then keepRequest op r s
  else
    let t := perform op r s
    match t.left with
    | none => t.state
    | some (op, r) => keepRequest op r t.state

/-- A request that this package owns the granule of: an eviction, performed now, held by a move (R250 step 3), or kept until it can be. -/
def ownRequest (op : Nat) (r : Req) (s : State) : State :=
  if op = 0x03 && heldBy s.fabric (lineOf (reqAddr r)) r.src then evicted r s
  else if movingNow s (gfnOf (reqAddr r)) then holdRequest op r s
  else performOrKeep op r s

/-- Whether a request is part of the copy of a granule that is on its way here. -/
def copyOf (op : Nat) (r : Req) (x : Incoming) : Bool := x.left != 0 && op == 0x07 && r.src == x.old

/-- A request at the package that it was sent to (R250, R251, R253): part of a copy, its own granule's, relayed by a stump, or refused. -/
def serve (op : Nat) (r : Req) (s : State) : State :=
  let g := gfnOf (reqAddr r)
  match (incomingOf s.fabric g).filter (copyOf op r), ownedAt s.fabric g, stumpOf s.fabric g with
  | some x, _, _ => copyIn r x s
  | none, some _, _ => ownRequest op r s
  | none, none, some t => relayStump t op r s
  | none, none, none => sendNeg r 0x0A 0 s

/-- A message whose destination is another package waits in the relay deck, in the share of the package whose flit brought it (R246); a request with RLY clear is not meant to be relayed,
and nothing comes of it (log entry 48). -/
def relayFrom (via dst : PkgNo) (m : OutMsg) (s : State) : State :=
  let meant := match m with
    | .req _ r => r.rly
    | _ => true
  if meant then { s with fabric := { s.fabric with relay := s.fabric.relay ++ [{ via := via, dst := dst, msg := m }] } } else s

/-- The package that a message names as its sender, and the one that it is for; a NEG or a REDIR is for its receiver (R237, R238). -/
def messageEnds : OutMsg → Option (PkgNo × PkgNo)
  | .req _ r => some (r.src, r.dst)
  | .resp _ r => some (r.src, r.dst)
  | _ => none

/-- A message for another package, taken as brought by its sender. -/
def relayFor (dst : PkgNo) (m : OutMsg) (s : State) : State := relayFrom (((messageEnds m).map (fun e => e.1)).getD dst) dst m s

/-- A request that has arrived: for another package it is relayed, else it is served. -/
def onRequest (op : Nat) (r : Req) (k : State → State) (s : State) : State := if r.dst = s.fabric.num then k s else relayFor r.dst (.req op r) s

/-- RD (R240). -/
def execRd (r : Req) (s : State) : Result := .next (onRequest 0x01 r (serve 0x01 r) s)
/-- WR (R240). -/
def execWr (r : Req) (s : State) : Result := .next (onRequest 0x02 r (serve 0x02 r) s)
/-- WRM (R240). -/
def execWrm (r : Req) (s : State) : Result := .next (onRequest 0x03 r (serve 0x03 r) s)
/-- AT (R240). -/
def execAtReq (r : Req) (s : State) : Result := .next (onRequest 0x04 r (serve 0x04 r) s)
/-- BWR (R240). -/
def execBwr (r : Req) (s : State) : Result := .next (onRequest 0x07 r (serve 0x07 r) s)
/-- BRD (R240). -/
def execBrd (r : Req) (s : State) : Result := .next (onRequest 0x08 r (serve 0x08 r) s)
/-- RDX of RDXT (R240). -/
def execRdxTree (r : Req) (s : State) : Result := .next (onRequest 0x0C r (serve 0x0C { r with fn := 0 }) s)
/-- RDX of RDXA (R240). -/
def execRdxArrival (r : Req) (s : State) : Result := .next (onRequest 0x0C r (serve 0x0C { r with fn := 1 }) s)

/-- NST (R247). -/
def execNst (r : Req) (s : State) : Result := .next (onRequest 0x05 r (serve 0x05 r) s)
/-- MSG (R111, R240). -/
def execMsg (r : Req) (s : State) : Result := .next (onRequest 0x06 r (performOrKeep 0x06 r) s)

/-! ### Owner records and coherence (R231, R232, R234) -/

/-- The 16 bytes of an owner record (R231). -/
def recordBytes (x : OwnerRec) : Nat :=
  x.owner.toNat + 2 ^ 8 * x.pool + 2 ^ 16 * ((if x.moving then 1 else 0) + (if x.retired then 2 else 0)) + 2 ^ 24 * (x.stumps % 256) + 2 ^ 32 * (x.frame % 2 ^ 19) +
    2 ^ 64 * (x.gen % 2 ^ 64)

/-- REG (R231, R232, R248). -/
def execReg (r : Req) (s : State) : Result :=
  .next (onRequest 0x09 r (fun s =>
    let g := gfnOf (reqAddr r)
    match refusalOf s.fabric g with
    | some sub => sendNeg r 9 sub s
    | none => if registrarOf s.fabric g = s.fabric.num then sendData r 16 (recordBytes (recordOf s.fabric g)) s else sendNeg r 0x0A 0 s) s)

/-- COH fetch shared (R234). -/
def execCohFetchShared (r : Req) (s : State) : Result := .next (onRequest 0x0A r (serve 0x0A { r with fn := 0 }) s)
/-- COH fetch exclusive (R234). -/
def execCohFetchExclusive (r : Req) (s : State) : Result := .next (onRequest 0x0A r (serve 0x0A { r with fn := 1 }) s)

/-- COH invalidate (R234): this package's copy is gone. -/
def execCohInvalidate (r : Req) (s : State) : Result := .next (onRequest 0x0A r (fun s => sendAck r (dropHeld (lineOf (reqAddr r)) s)) s)

/-- COH recall (R234, R240): the dirty bytes go back to the owner with their mask. -/
def execCohRecall (r : Req) (s : State) : Result :=
  .next (onRequest 0x0A r (fun s =>
    let line := lineOf (reqAddr r)
    let v := match s.fabric.partner.find? (fun x => x.line == line) with
      | some x => if x.modified then x.dirty.toNat + 2 ^ 128 * x.data.toNat else 0
      | none => 0
    let m : Resp := { src := s.fabric.num, dst := r.src, tag := r.tag, size := 4, payload := bytesOfNat 144 v }
    sendMsg r.src (.resp 0x21 m) (dropHeld line s)) s)

/-! ### Evictions (R125, R234) -/

/-- CLUSTER_CACHE_EVICTION (R125): a line's dirty bytes are written back, or its clean bytes are dropped. -/
def execClusterCacheEviction (c : ClusterId) (line : Nat) (wb : Bool) (s : State) : Result :=
  let mine := (clusterOf s c).lines.filter (fun l => l.addr == line)
  .next (if wb then mine.foldl (fun s l => writeBack c l s) s
    else setCluster s c (fun cl => mine.foldl (fun cl l => { cl with lines := putLine cl.lines (dropClean l) }) { cl with epoch := cl.epoch + 1 }))

/-- DIRECTORY_ENTRY_EVICTION (R234): every copy that the entry tracks is first recalled or invalidated. -/
def execDirectoryEntryEviction (line : Nat) (s : State) : Result :=
  .next (match s.fabric.directory.find? (fun e => e.line == line) with
    | none => s
    | some e => (maskPartners s.fabric e.mask).foldl (fun s p => sendCoh (if e.modified then 3 else 2) line p s) s)

/-- PARTNER_LINE_EVICTION (R234): the dirty bytes of a line held in M go back to its owner; a clean copy is dropped. -/
def execPartnerLineEviction (line : Nat) (s : State) : Result :=
  .next (match s.fabric.partner.find? (fun x => x.line == line) with
    | none => s
    | some x => if x.modified then (evictHeld x s).getD s else dropHeld line s)

/-- The state after a write of the device itself that waits here has been tried again: a status word, a journal entry, a log entry, an image (R249, R250). -/
def putAgain (r : Req) (s : State) : Tried :=
  match putNow (reqAddr r) r.payload.length (natOfBytes r.payload) s with
  | (true, s) => { left := none, state := s }
  | (false, s) => { left := some (0x42, r), state := s }

/-- The state after a MIG message of this package's interface has been sent, or waits for a TAG (R240). -/
def sendTold (r : Req) (s : State) : Tried :=
  match sendReq { die := 4, dst := r.dst, op := 0x0B, size := 4, scope := 5, fn := r.fn.toNat, pasid := 0, addr := reqAddr r, payload := r.payload
                  waiter := if r.fn = 2 then .announced (gfnOf (reqAddr r)) else .none } s with
  | (some _, s) => { left := none, state := s }
  | (none, s) => { left := some (0x43, r), state := s }

/-- The state after a MIG outcome has been sent with the TAG of the request that has ended (R249), once the package has acknowledged the one before it with that TAG. A request of this
package to it may have the same TAG: the first ACK from there is taken for the outcome's (execAck), so that the request never counts as answered too early (DEDUCED, log entry 9). -/
def sendEnded (r : Req) (s : State) : Tried :=
  if s.fabric.outcomes.contains (r.dst, r.tag) then { left := some (0x41, r), state := s }
  else { left := none, state := sendMsg r.dst (.req 0x0B r) { s with fabric := { s.fabric with outcomes := s.fabric.outcomes ++ [(r.dst, r.tag)] } } }

/-- A request that met 0x0A and waits to be sent again. -/
def heldOut (f : Fabric) (tag : BitVec 14) (dst : PkgNo) : Option Outstanding := f.outstanding.find? (fun o => o.held && o.req.tag == tag && o.req.dst == dst)

/-- The state with a request that met 0x0A put among those that are sent again, to the owner that the registrar names (R141, R172). -/
def resendTo (p : PkgNo) (tag : BitVec 14) (dst : PkgNo) (s : State) : State :=
  match heldOut s.fabric tag dst with
  | none => s
  | some o => keepOwn 0x44 { o.req with src := dst, dst := p } s

/-- The state after the owner of the granule of a request that met 0x0A has been asked for at the registrar, once a TAG is free (R172). -/
def askAgain (r : Req) (s : State) : Tried :=
  let g := gfnOf (reqAddr r)
  let reg := registrarOf s.fabric g
  let d := cacheDie (r.tag.toNat / 2048)
  if reg = s.fabric.num then { left := none, state := resendTo (recordOf s.fabric g).owner r.tag r.src s }
  else match sendReq { die := d.toNat, dst := reg, op := 0x09, size := 4, scope := 5, fn := 0, pasid := 0, addr := g.toNat * 2097152, payload := []
                       waiter := .resend r.tag r.src (dieOf s d).ownerInv } s with
    | (some _, s) => { left := none, state := s }
    | (none, s) => { left := some (0x40, r), state := s }

/-- Whether an access that this package sent through an old owner is out there still; one that met 0x0A and waits to be sent again is not (R141). -/
def outThrough (f : Fabric) (old : PkgNo) (g : Gfn) : Bool :=
  f.outstanding.any (fun o => !o.held && o.op != 0x0B && o.op != 0x09 && o.req.dst == old && gfnOf o.req.addr.toNat == g)

/-- Whether an older access of this package to the page of one that waits to be sent again met 0x0A too, and is not complete: they are sent again in their order (R140, R141). -/
def againFirst (f : Fabric) (o : Outstanding) : Bool :=
  (f.outstanding.takeWhile (fun x => x != o)).any (fun x => decide (0 < x.naks) && x.op != 0x0B && x.req.addr.toNat / 4096 == o.req.addr.toNat / 4096)

/-- The state with an outstanding request sent to its owner of now. -/
def sendAnew (o : Outstanding) (s : State) : State :=
  if o.bulk then sendBulk o.req.dst o.req.addr.toNat (.req o.op o.req) s else sendMsg o.req.dst (.req o.op o.req) s

/-- The state after a request that met 0x0A has been sent again to the owner that the registrar names, once no other access is out through the old one and the older ones of its page are complete (R140, R141, R172): its TAG, its old
owner as SRC and its new one as DST stand in the request that waits. -/
def sendAgain (r : Req) (s : State) : Tried :=
  match heldOut s.fabric r.tag r.src with
  | none => { left := none, state := s }
  | some o =>
    if outThrough s.fabric r.src (gfnOf (reqAddr r)) || againFirst s.fabric o then { left := some (0x44, r), state := s }
    else
      let o' := { o with req := { o.req with dst := r.dst }, held := false }
      { left := none, state := sendAnew o' { s with fabric := { s.fabric with outstanding := s.fabric.outstanding.map (fun x => if x = o then o' else x) } } }

/-- A request that waits here tried once more. -/
def tryAgain (op : Nat) (r : Req) (s : State) : Tried :=
  match op with
  | 0x40 => askAgain r s
  | 0x41 => sendEnded r s
  | 0x42 => putAgain r s
  | 0x43 => sendTold r s
  | 0x44 => sendAgain r s
  | 0x06 | 0x45 => perform op r s
  | _ => if (ownedAt s.fabric (gfnOf (reqAddr r))).isSome then perform op r s else { left := none, state := serve op r s }

/-- Whether a MIG message of this package waits for an older one: those about one granule go to a package in their order (R231, R250), and an announcement goes after the outcome of its
move (R250 step 7). -/
def toldBehind (r : Req) (ms : List OutMsg) : Bool :=
  ms.any (fun m => match m with
    | .req op x => gfnOf (reqAddr x) == gfnOf (reqAddr r) && ((op == 0x43 && x.dst == r.dst) || (op == 0x41 && r.fn == 2))
    | _ => false)

/-- Whether something that waits here stands behind an older one. -/
def waitsBehind (op : Nat) (r : Req) (ms : List OutMsg) : Bool :=
  if op = 0x42 then putWaits ms (lineOf (reqAddr r)) else if op = 0x43 then toldBehind r ms else !ownOp op && behind r ms

/-- The state after the n-th request that waits here has been tried again, when none that it must follow is before it. -/
def retryPending (n : Nat) (s : State) : State :=
  match s.fabric.pending[n]? with
  | some (.req op r) =>
    let rest := s.fabric.pending.eraseIdx n
    if waitsBehind op r (s.fabric.pending.take n) then s
    else
      let t := tryAgain op r { s with fabric := { s.fabric with pending := rest } }
      match t.left with
      | none => t.state
      | some (op, r) => { t.state with fabric := { t.state.fabric with pending := t.state.fabric.pending.take n ++ [.req op r] ++ t.state.fabric.pending.drop n } }
  | _ => s

/-- The state with the requests for a granule that wait here held by its move, which now holds every access (R250 step 3). -/
def startHold (g : Gfn) (s : State) : State :=
  let mine := fun (m : OutMsg) => match m with
    | .req op r => !ownOp op && op != 0x06 && gfnOf (reqAddr r) == g
    | _ => false
  let asHeld := fun (m : OutMsg) => match m with
    | .req op r => some (op, r)
    | _ => none
  let held := (s.fabric.pending.filter mine).filterMap asHeld
  { s with fabric := { s.fabric with pending := s.fabric.pending.filter (fun m => !mine m)
                                     moves := modifyWhere (fun m => m.req.gfn == g) (fun m => { m with step := 3, held := m.held ++ held }) s.fabric.moves } }

end Sys2Proof.Machine
end

