-- ==== Sys2Proof/Machine/Migration.lean ====
section
/-! DEFINITION. Moving granules: migration requests, moves at the old and the new owner, the registrar's part, announcements, stumps and outcomes (11 R249 to R256). -/

namespace Sys2Proof.Machine

/-! ### Fields of MIG payloads (R240; their places are the model's, log entry 9) -/

/-- The package of a MIG payload. -/
def migPkg (r : Req) : PkgNo := BitVec.ofNat 7 (payNat r 5 1)
/-- The pool of a MIG payload. -/
def migPool (r : Req) : Nat := payNat r 6 1
/-- The frame of a MIG payload. -/
def migFrame (r : Req) : Nat := payNat r 7 3
/-- The generation of a MIG payload; the status word of an outcome, the TAG of a reserve. -/
def migGen (r : Req) : Nat := payNat r 10 6

/-- A MIG message of this package whose answer matters (R240). -/
def migSend (dst : PkgNo) (fn : Nat) (g : Gfn) (payload : List Byte) (w : Waiter) (s : State) : Option (BitVec 14) × State :=
  sendReq { die := 4, dst := dst, op := 0x0B, size := 4, scope := 5, fn := fn, pasid := 0, addr := g.toNat * 2097152, payload := payload, waiter := w } s

/-! ### Frames (R229, R254) -/

/-- Whether a frame is backed at start, so that it is free only once freed. -/
def backedFrame (f : Fabric) (pool frame : Nat) : Bool := decide (frame < f.exposed.getD pool 0)

/-- A free frame of a pool (R229). -/
def freeFrame (f : Fabric) (pool : Nat) : Option Nat :=
  match f.freed.find? (fun x => x.1 == pool && !f.retired.contains x) with
  | some x => some x.2
  | none =>
    let base := f.exposed.getD pool 0
    ((List.range (f.used.length + f.retired.length + 1)).map (fun i => base + i)).find? (fun k =>
      decide (k < Config.poolFrames pool) && !f.used.contains (pool, k) && !f.retired.contains (pool, k))

/-- The fabric with a free frame taken. -/
def takeFrame (pool frame : Nat) (f : Fabric) : Fabric :=
  if backedFrame f pool frame then { f with freed := f.freed.erase (pool, frame) } else { f with used := f.used ++ [(pool, frame)] }
/-- The fabric with a frame returned; a retired one is not free again (R173, R229). -/
def returnFrame (pool frame : Nat) (f : Fabric) : Fabric :=
  if backedFrame f pool frame then { f with freed := if f.retired.contains (pool, frame) then f.freed else f.freed ++ [(pool, frame)] }
  else { f with used := f.used.erase (pool, frame) }

/-- The state with the fabric changed. -/
def setFabric (k : Fabric → Fabric) (s : State) : State := { s with fabric := k s.fabric }

/-! ### Outcomes (R249) -/

/-- The state after the migration request with a TAG that this package sent has ended with a status word (R249). -/
def endRequestMig (tag : BitVec 14) (g : Gfn) (outcome : Nat) (s : State) : State :=
  let mine := fun (o : Outstanding) => o.op == 0x0B && o.req.fn == 6 && o.req.tag == tag && gfnOf o.req.addr.toNat == g
  match s.fabric.outstanding.find? mine with
  | none => s
  | some o =>
    let s := setFabric (fun f => { f with outstanding := f.outstanding.erase o }) s
    match o.waiter with
    | .migAcc c id st => migReport st outcome (mapLanes (fun x => x.id == c) (fun f l => if f.id = id then l.become (.done 0) else l) s)
    | .mig st =>
      let s := migReport st outcome s
      (match st, s.mgmt.adminBusy with
       | .stripe, some (tag, op, [base, count, node, i, left, _]) =>
         let left := if outcome ≤ 1 then left else left + 1
         { s with mgmt := { s.mgmt with adminBusy := some (tag, op, [base, count, node, i + 1, left, 0]) } }
       | _, _ => s)
    | _ => s

/-- The state after the owner of a granule has entered a migration request of this package: a PGMV's path returns (R112, R333). -/
def migEntered (o : Outstanding) (s : State) : State :=
  match o.waiter with
  | .migAcc c id st =>
    let s := mapLanes (fun x => x.id == c) (fun f l => if f.id = id then l.become (.done 0) else l) s
    setFabric (fun f => { f with outstanding := f.outstanding.map (fun x => if x = o then { o with waiter := .mig st } else x) }) s
  | _ => s

/-- The state after a request has ended here with an outcome: the word is written, or sent to the requesting package (R249). -/
def sendOutcome (src : PkgNo) (tag : BitVec 14) (g : Gfn) (outcome : Nat) (s : State) : State :=
  if src = s.fabric.num then endRequestMig tag g outcome s
  else
    let r : Req := { src := s.fabric.num, dst := src, tag := tag, size := 0, scope := 5, rly := false, fn := 5, pasid := 0, addr := BitVec.ofNat 57 (g.toNat * 2097152)
                     payload := migPayload g 0 0 0 (migWord outcome).toNat }
    keepOwn 0x41 r s

/-- MIG outcome (R249): the requesting package writes the status word. -/
def execMigOutcome (r : Req) (s : State) : Result :=
  .next (onRequest 0x0B r (fun s => sendAck r (endRequestMig r.tag (gfnOf (reqAddr r)) (migGen r / 65536 % 256) s)) s)

/-- A migration request of this package for a status place: none while the owner of the granule is being asked for, or no TAG is free. -/
def requestMig (g : Gfn) (dest : PkgNo) (pool : Nat) (st : MigStatus) (s : State) : Option State × State :=
  match resolve s 0 g with
  | .refused sub => (some (migReport st (if sub = 1 then 2 else 4) s), s)
  | .ask r => (none, askOwner s 0 g r)
  | .hold => (none, s)
  | .here _ _ => (match migSend s.fabric.num 6 g (migPayload g dest pool 0 0) (.mig st) s with
    | (some _, s) => (some s, s)
    | (none, s) => (none, s))
  | .away p => match migSend p 6 g (migPayload g dest pool 0 0) (.mig st) s with
    | (some _, s) => (some s, s)
    | (none, s) => (none, s)

/-! ### The old owner: requests and the start of a move (R249, R250 steps 1 and 2) -/

/-- MIG request (R249): it waits at the owner for its turn, which its requester is told; a stump relays it, and another package refuses it. -/
def execMigRequest (r : Req) (s : State) : Result :=
  .next (onRequest 0x0B r (fun s =>
    let g := gfnOf (reqAddr r)
    if (ownedAt s.fabric g).isSome then
      let m : MigReq := { gfn := g, dest := migPkg r, pool := migPool r, src := r.src, tag := r.tag }
      let s := setFabric (fun f => { f with waiting := f.waiting ++ [m] }) s
      if r.src != s.fabric.num then sendAck r s
      else match s.fabric.outstanding.find? (fun o => o.op == 0x0B && o.req.fn == 6 && o.req.tag == r.tag && gfnOf o.req.addr.toNat == g) with
        | some o => migEntered o s
        | none => s
    else match stumpOf s.fabric g with
      | some t => relayStump t 0x0B r s
      | none => sendNeg r 0x0A 0 s) s)

/-- Whether a granule holds an open reduction slot or its leaf area (R256). -/
def openSlots (s : State) (g : Gfn) : Bool :=
  let inG (pa : Nat) : Bool := gfnOf pa == g
  s.latches.any (fun l =>
    let arrived := memRead s.mem (l.slot + 16) 4
    decide (1 ≤ arrived) && decide (arrived < l.expect) && (inG l.slot || inG l.leaves || inG (l.leaves + 16 * l.expect - 1)))

/-- A request as it reaches the package that now owns its granule. -/
def asMigRequest (m : MigReq) (dst : PkgNo) : Req :=
  { src := m.src, dst := dst, tag := m.tag, size := 0, scope := 5, rly := false, fn := 6, pasid := 0, addr := BitVec.ofNat 57 (m.gfn.toNat * 2097152)
    payload := migPayload m.gfn m.dest m.pool 0 0 }

/-- Whether a contribution to a slot of a granule is in a reduction unit's queue. -/
def queuedFor (s : State) (g : Gfn) : Bool := s.dies.toList.any (fun d => d.rdx.any (fun k => gfnOf k.slot == g))

/-- The first waiting request that can start (R249): fewer than 16 moves, none of its granule under way, and no contribution to a slot there still to be taken, which the check for open
slots would miss (R256). -/
def startable (s : State) : Option MigReq :=
  if 16 ≤ s.fabric.moves.length then none
  else s.fabric.waiting.find? (fun m => !beingMoved s m.gfn && (incomingOf s.fabric m.gfn).isNone && !queuedFor s m.gfn)

/-- MIGRATION_DEQUEUE (R249, R250 step 1): a waiting request starts; one whose granule has moved on follows it. -/
def execMigrationDequeue (s : State) : Result :=
  .next (match startable s with
    | none => s
    | some m =>
      let s := setFabric (fun f => { f with waiting := f.waiting.erase m }) s
      match ownedAt s.fabric m.gfn with
      | none => (match stumpOf s.fabric m.gfn with
        | some t => relayStump t 0x0B (asMigRequest m t.owner) s
        | none => sendNeg (asMigRequest m s.fabric.num) 0x0A 0 s)
      | some (pool, _) =>
        if m.dest = s.fabric.num && m.pool == pool then sendOutcome m.src m.tag m.gfn 1 s
        else if openSlots s m.gfn then sendOutcome m.src m.tag m.gfn 3 s
        else setFabric (fun f => { f with moves := f.moves ++ [{ req := m, step := 1, gen := 0, frame := 0, chunk := 0, held := [] }] }) s)

/-- A move in progress. -/
def moveOf (f : Fabric) (g : Gfn) : Option Move := f.moves.find? (fun m => m.req.gfn == g)
/-- The state with a move changed. -/
def setMove (g : Gfn) (k : Move → Move) (s : State) : State := setFabric (fun f => { f with moves := modifyWhere (fun m => m.req.gfn == g) k f.moves }) s
/-- The state without a move. -/
def dropMove (g : Gfn) (s : State) : State := setFabric (fun f => { f with moves := f.moves.filter (fun m => m.req.gfn != g) }) s

/-- The state after a move has ended here with an outcome. -/
def endMove (m : Move) (outcome : Nat) (s : State) : State := sendOutcome m.req.src m.req.tag m.req.gfn outcome (dropMove m.req.gfn s)

/-- The state after the registrar has told how many stumps a granule has, and its generation: a third stump waits (R249, R253), else a frame is reserved. -/
def reserveStep (g : Gfn) (stumps gen : Nat) (s : State) : State :=
  match moveOf s.fabric g with
  | none => s
  | some m =>
    let away := m.req.dest != s.fabric.num
    if 2 ≤ stumps then setFabric (fun f => { f with waiting := f.waiting ++ [m.req] }) (dropMove g s)
    else if !away then
      match freeFrame s.fabric m.req.pool with
      | none => endMove m 2 s
      | some k => tellFlags g 1 (startHold g (setMove g (fun m => { m with gen := gen + 1, frame := k }) (setFabric (takeFrame m.req.pool k) s)))
    else
      match migSend m.req.dest 0 g (migPayload g m.req.src m.req.pool 0 m.req.tag.toNat) (.reserve g) s with
      | (some _, s) => setMove g (fun m => { m with step := 2, gen := gen + 1 }) s
      | (none, s) => s

/-- The state after step 1 of a move has asked for the granule's record. -/
def recordStep (g : Gfn) (s : State) : State :=
  let reg := registrarOf s.fabric g
  if reg = s.fabric.num then reserveStep g (recordOf s.fabric g).stumps (recordOf s.fabric g).gen s
  else if waiting s (.stumps g) then s
  else (sendReq { die := 4, dst := reg, op := 0x09, size := 4, scope := 5, fn := 0, pasid := 0, addr := g.toNat * 2097152, payload := [], waiter := .stumps g } s).2

/-! ### The old owner: quiescence and the copy (R250 steps 3 and 4) -/

/-- Whether a transactional lane has touched a granule. -/
def laneTouched (g : Gfn) (t : LaneTx) : Bool := t.doomed.isNone && (txLines t).any (fun l => gfnOf l == g)

/-- A fragment with its lanes that have touched a granule doomed with MIGRATED (R250 step 3). -/
def doomGranule (g : Gfn) (f : Fragment) : Fragment := doomLanes ((f.tx.lanes.filter (laneTouched g)).map (fun t => t.lane)) 4 0 f

/-- The state with every transaction that has touched a granule doomed or aborted with MIGRATED. -/
def abortGranule (g : Gfn) (s : State) : State :=
  flushHosts <| mapHosts (fun h => if h.active && (h.reads ++ h.wlines).any (fun l => gfnOf l == g) then abortedHost 4 0 h else h)
    (mapCords (mapFrags (doomGranule g)) s)

/-- The state with the node partners' copies of a granule's lines called back (R234, R250). -/
def recallGranule (g : Gfn) (s : State) : State :=
  (s.fabric.directory.filter (fun e => gfnOf e.line == g)).foldl (fun s e => (maskPartners s.fabric e.mask).foldl (fun s p => sendCoh (if e.modified then 3 else 2) e.line p s) s) s

/-- Whether something still keeps a granule from being copied: a partner's copy, or a replay of the log translated to it (R250, R256). -/
def granuleBusy (s : State) (g : Gfn) : Bool :=
  s.fabric.directory.any (fun e => gfnOf e.line == g) ||
    s.cores.toList.any (fun k => k.log.any (fun e => !e.discarded && (match e.pa with
      | some pa => gfnOf pa == g
      | none => false)))

/-- The state with the chunk of a granule sent to its new owner as bulk traffic; a failed line is sent as a piece of 16 bytes (R250 step 4; log entry 9). -/
def sendChunk (m : Move) (s : State) : State :=
  let a := m.req.gfn.toNat * 2097152 + 512 * m.chunk
  let whole := (List.range 4).all (fun i => !s.failed.contains (a + 128 * i))
  let pieces := if whole then [(a, 512)] else (List.range 4).map (fun i => (a + 128 * i, if s.failed.contains (a + 128 * i) then 16 else 128))
  pieces.foldl (fun s p => match freeTag s.fabric 4 m.req.dest with
    | none => s
    | some tag =>
      let s := wakeLines p.1 p.2 s
      let r : Req := { src := s.fabric.num, dst := m.req.dest, tag := tag, size := sizeCode p.2, scope := 5, rly := false, fn := 0, pasid := 0
                       addr := BitVec.ofNat 57 p.1, payload := bytesOfNat p.2 (memRead s.mem p.1 p.2) }
      let o : Outstanding := { op := 0x07, req := r, waiter := .copyChunk m.req.gfn, naks := 0, held := false, bulk := true }
      sendBulk m.req.dest p.1 (.req 0x07 r) (setFabric (fun f => { f with outstanding := f.outstanding ++ [o] }) s)) s

/-- Whether TAGs are free for a chunk of a copy. -/
def tagsFree (f : Fabric) (dst : PkgNo) : Bool := decide ((f.outstanding.filter (fun o => o.req.dst == dst && o.req.tag.toNat / 2048 == 4)).length + 4 ≤ 2048)

/-- The state without the watchpoints of a granule: each is entered in the journal (R270). -/
def dropWatches (g : Gfn) (s : State) : State :=
  let gone := s.mgmt.watches.filter (fun w => gfnOf w.line == g)
  gone.foldl (fun s w => journalEntry 7 0 w.line 0 s) { s with mgmt := { s.mgmt with watches := s.mgmt.watches.filter (fun w => gfnOf w.line != g) } }

/-- The state after the requests that a move held have been served, in arrival order. -/
def releaseHeld (held : List (Nat × Req)) (s : State) : State := held.foldl (fun s h => serve h.1 h.2 s) s

/-- The registrar's record of a granule replaced. -/
def putRecord (x : OwnerRec) (s : State) : State := setFabric (fun f => { f with records := x :: f.records.filter (fun r => r.gfn != x.gfn) }) s

/-- The state with the record update of a move sent to the registrar (R250 step 6, R255). -/
def sendUpdate (g : Gfn) (owner : PkgNo) (pool frame : Nat) (s : State) : State :=
  tellMig (registrarOf s.fabric g) 1 g (migPayload g owner pool frame 0) s

/-- The state after a move between two pools of this package (R255). -/
def moveWithin (m : Move) (s : State) : State :=
  let g := m.req.gfn
  match ownedAt s.fabric g with
  | none => s
  | some (pool, frame) =>
    let s := setFabric (fun f => { f with here := { gfn := g, pool := m.req.pool, frame := m.frame } :: f.here.filter (fun o => o.gfn != g) }) s
    let s := sendUpdate g s.fabric.num m.req.pool m.frame (dropWatches g s)
    let s := releaseHeld m.held (dropMove g s)
    sendOutcome m.req.src m.req.tag g 0 (setFabric (returnFrame pool frame) s)

/-- The state after a move has gone on as far as it can now. -/
def pushMove (g : Gfn) (s : State) : State :=
  match moveOf s.fabric g with
  | none => s
  | some m =>
    if m.step = 1 then recordStep g s
    else if m.step = 3 then
      let s := recallGranule g (abortGranule g s)
      if granuleBusy s g then s
      else if m.req.dest = s.fabric.num then moveWithin m s
      else setMove g (fun m => { m with step := 4 }) s
    else if m.step = 4 && decide (m.chunk < 4096) && tagsFree s.fabric m.req.dest then setMove g (fun m => { m with chunk := m.chunk + 1 }) (sendChunk m s)
    else s

/-! ### The stump (R250 steps 5 and 6, R251, R254) -/

/-- The owner caches of every die name a new owner, or nothing; an announcement or a redirect raises the owner invalidation counters (R232, R251, R252). -/
def setOwnerCaches (g : Gfn) (owner : Option PkgNo) (gen : Nat) (raise : Bool) (s : State) : State :=
  let put (xs : List (Gfn × PkgNo × Nat)) : List (Gfn × PkgNo × Nat) :=
    let rest := xs.filter (fun e => e.1 != g)
    match owner with
    | some p => ((g, p, gen) :: rest).take 8192
    | none => rest
  { s with dies := s.dies.map (fun d => { d with ownerCache := put d.ownerCache, once := d.once.filter (fun e => e.1 != g), ownerInv := if raise then d.ownerInv + 1 else d.ownerInv }) }

/-- STUMP_INSTALL (R250 steps 5 and 6): the copy is acknowledged; the stump takes the held accesses in arrival order, and the registrar is told. -/
def execStumpInstall (g : Gfn) (s : State) : Result :=
  .next (match moveOf s.fabric g, ownedAt s.fabric g with
    | some m, some (pool, frame) =>
      if m.step != 4 || decide (m.chunk < 4096) || waiting s (.copyChunk g) then s
      else
        let t : Stump := { gfn := g, owner := m.req.dest, gen := m.gen, pool := pool, frame := frame, missing := s.fabric.present, relayed := false }
        let base := g.toNat * 2097152
        let s := setFabric (fun f => { f with here := f.here.filter (fun o => o.gfn != g), gone := if homePkg g = f.num then g :: f.gone.erase g else f.gone
                                              stumps := f.stumps ++ [t] }) (dropWatches g s)
        let s := setOwnerCaches g (some m.req.dest) m.gen false s
        let s := { s with mem := memClear s.mem base (base + 2097152), failed := s.failed.filter (fun l => gfnOf l != g) }
        let s := releaseHeld m.held (dropMove g s)
        sendUpdate g m.req.dest m.req.pool m.frame s
    | _, _ => s)

/-- MIG acknowledge (R254): once every present package has acknowledged, the stump is reclaimed. -/
def execMigAcknowledge (r : Req) (s : State) : Result :=
  .next (onRequest 0x0B r (fun s =>
    let g := gfnOf (reqAddr r)
    let s := sendAck r s
    match stumpOf s.fabric g with
    | none => s
    | some t =>
      let left := t.missing.filter (fun p => p != r.src)
      if !left.isEmpty then setFabric (fun f => { f with stumps := f.stumps.map (fun x => if x = t then { x with missing := left } else x) }) s
      else
        let s := setFabric (fun f => returnFrame t.pool t.frame { f with stumps := f.stumps.erase t }) s
        tellMig (registrarOf s.fabric g) 4 g (migPayload g 0 0 0 0) s) s)

/-! ### The new owner and the registrar (R250 steps 2, 6 and 7, R254) -/

/-- MIG reserve (R250 step 2): the new owner takes a free frame of the pool, or answers NOFRAME. -/
def execMigReserve (r : Req) (s : State) : Result :=
  .next (onRequest 0x0B r (fun s =>
    let g := gfnOf (reqAddr r)
    match freeFrame s.fabric (migPool r) with
    | none => sendNeg r 9 1 s
    | some k =>
      let x : Incoming := { gfn := g, old := r.src, pool := migPool r, frame := k, src := migPkg r, tag := BitVec.ofNat 14 (migGen r), left := 16384 }
      let s := setFabric (fun f => { takeFrame x.pool k f with incoming := x :: f.incoming.filter (fun y => y.gfn != g) }) s
      sendData r 16 (natOfBytes (migPayload g s.fabric.num x.pool k 0)) s) s)

/-- The state after the new owner has been told that the record names it (R250 step 7): it sends OK to the requester, and announces the move to every package.
Each package acknowledges to the old owner (R252), which the contents that R250 lists do not name: the model carries it in the FRAME field (DESIGN CHOICE, log entry 75). -/
def announceMove (g : Gfn) (gen : Nat) (s : State) : State :=
  match incomingOf s.fabric g with
  | none => s
  | some x =>
    let s := setFabric (fun f => { f with incoming := f.incoming.filter (fun y => y.gfn != g) }) s
    let s := sendOutcome x.src x.tag g 0 s
    s.fabric.present.foldl (fun s p => tellMig p 2 g (migPayload g s.fabric.num 0 x.old.toNat gen) s) s

/-- MIG record update (R250 step 6, R255): the registrar writes the record and informs the new owner; a nonzero generation is that notice, and a pool of 8 or more sets a flag
(tellFlags). The flags describe the frame and the move that end with the update. -/
def execMigRecordUpdate (r : Req) (s : State) : Result :=
  .next (onRequest 0x0B r (fun s =>
    let g := gfnOf (reqAddr r)
    let s := sendAck r s
    let old := recordOf s.fabric g
    if migGen r != 0 then announceMove g (migGen r) s
    else if 8 ≤ migPool r then putRecord { old with moving := old.moving || migPool r == 9, retired := old.retired || migPool r == 10 } s
    else
      let moved := old.owner != migPkg r
      let x := { old with owner := migPkg r, pool := migPool r, frame := migFrame r, gen := old.gen + 1, stumps := if moved then old.stumps + 1 else old.stumps
                          moving := false, retired := false }
      let s := putRecord x s
      if moved then tellMig x.owner 1 g (migPayload g x.owner x.pool x.frame x.gen) s else s) s)

/-- MIG reclaim (R254): the registrar lowers STUMPS. -/
def execMigReclaim (r : Req) (s : State) : Result :=
  .next (onRequest 0x0B r (fun s =>
    let old := recordOf s.fabric (gfnOf (reqAddr r))
    sendAck r (putRecord { old with stumps := old.stumps - 1 } s)) s)

/-! ### Announcements (R141, R252) -/

/-- MIG announce (R252 step 1): every die forgets the owner; the acknowledgement waits for the accesses sent to the old one. -/
def execMigAnnounce (r : Req) (s : State) : Result :=
  .next (onRequest 0x0B r (fun s =>
    let g := gfnOf (reqAddr r)
    let a : Announce := { gfn := g, old := BitVec.ofNat 7 (migFrame r), owner := migPkg r, gen := migGen r, ackDue := true, req := some r }
    setFabric (fun f => { f with announces := f.announces ++ [a] }) (sendAck r (setOwnerCaches g none 0 true s))) s)

/-- Whether an access that this package sent, or relayed as a stump, to a granule's old owner is not complete (R252). A stump sees no reply to what it has relayed. That it is complete shows
when every package has acknowledged the stump's own move, which each does only after its accesses through the stump are complete: the stump is then gone (DEDUCED, log entry 47). -/
def announceWaits (s : State) (a : Announce) : Bool :=
  s.fabric.outstanding.any (fun o => o.op != 0x0B && o.op != 0x09 && o.req.dst == a.old && gfnOf o.req.addr.toNat == a.gfn) ||
    s.fabric.stumps.any (fun t => t.gfn == a.gfn && t.owner == a.old && t.relayed)

/-- ANNOUNCEMENT_DRAINED (R252 steps 2 and 3). -/
def execAnnouncementDrained (g : Gfn) (s : State) : Result :=
  .next (match s.fabric.announces.find? (fun a => a.gfn == g && !announceWaits s a) with
    | none => s
    | some a =>
      let s := setFabric (fun f => { f with announces := f.announces.erase a }) s
      if a.ackDue then tellMig a.old 3 g (migPayload g s.fabric.num 0 0 0) s else s)

end Sys2Proof.Machine
end

