-- ==== Sys2Proof/Machine/Admin.lean ====
section
/-! DEFINITION. The admin queue's commands for queues, reservations, the handler image, banks, quantum, page requests, stripes and migrations (R59, R100, R119,
R262, R263). -/

namespace Sys2Proof.Machine

/-! ### A command (R262) -/

/-- n bytes of a command at an offset. -/
def cmdField (c : AdminCmd) (off n : Nat) : Nat := fieldNat c (8 * off) (8 * n)
/-- The TAG of a command. -/
def cmdTag (c : AdminCmd) : Word := BitVec.ofNat 32 (cmdField c 4 4)

/-- Whether every byte of a command that is neither OP, TAG nor a named parameter is zero. -/
def onlyNamed (c : AdminCmd) (names : List (Nat × Nat)) : Bool :=
  (List.range 64).all (fun i => decide (i < 2) || (decide (4 ≤ i) && decide (i < 8)) || names.any (fun n => decide (n.1 ≤ i) && decide (i < n.1 + n.2)) ||
    cmdField c i 1 == 0)

/-- The state with a command completed: a journal entry, and a completion record with bytes 24 to 27. -/
def adminEnd (tag : Word) (status : Nat) (extra : Word) (s : State) : State :=
  complete 0 0 tag.toNat tag status 0 extra false { s with mgmt := { s.mgmt with adminBusy := none } }

/-- The state with a command under way. -/
def adminHold (op : Nat) (c : AdminCmd) (params : List Nat) (s : State) : State := { s with mgmt := { s.mgmt with adminBusy := some (cmdTag c, op, params) } }

/-- The state after a command has been accepted in the journal, checked and performed. -/
def admin (op : Nat) (names : List (Nat × Nat)) (ok : Bool) (c : AdminCmd) (k : State → State) (s : State) : State :=
  let s := journalEntry 2 0 (cmdTag c).toNat (cmdField c 0 2) s
  if cmdField c 0 2 == op && onlyNamed c names && ok then k s else adminEnd (cmdTag c) 6 0 s

/-- The state after a command that takes effect at once. -/
def adminNow (op : Nat) (names : List (Nat × Nat)) (ok : Bool) (c : AdminCmd) (k : State → State) (s : State) : State :=
  admin op names ok c (fun s => adminEnd (cmdTag c) 0 0 (k s)) s

/-- A physical address is at most 57 bits wide (R228). -/
def physOk (a : Nat) : Bool := decide (a < 2 ^ 57)

/-- The queue a command names. -/
def cmdQueue (c : AdminCmd) : QueueNo := BitVec.ofNat 14 (cmdField c 8 2)
/-- Whether a command names a user queue that exists. -/
def namesQueue (s : State) (c : AdminCmd) : Bool := decide (1 ≤ cmdField c 8 2) && decide (cmdField c 8 2 < 16384) && (findQueue s (cmdQueue c)).isSome

/-! ### Queues -/

/-- The queue that CREATEQ describes. -/
def newQueue (c : AdminCmd) : Queue :=
  let v := cmdField c 26 2
  { num := cmdQueue c, live := true, priority := cmdField c 10 1, pasid := BitVec.ofNat 20 (cmdField c 12 4), ring := cmdField c 16 8, q := cmdField c 24 1
    comp := cmdField c 32 8, c := cmdField c 25 1, vector := if v = 0xFFFF then none else some v, dump := cmdField c 40 8
    dumpSize := cmdField c 48 4, tail := 0, head := 0, chead := 0, state := 0, suspended := false, errored := false, written := 0, nextSeq := 1, destroying := none }

/-- Whether the parameters of CREATEQ are in range. -/
def createqOk (c : AdminCmd) : Bool :=
  decide (1 ≤ cmdField c 8 2) && decide (cmdField c 8 2 < 16384) && decide (cmdField c 10 1 ≤ 15) && decide (cmdField c 12 4 < 2 ^ 20) && cmdField c 16 8 % 128 == 0 &&
    decide (4 ≤ cmdField c 24 1) && decide (cmdField c 24 1 ≤ 16) && decide (4 ≤ cmdField c 25 1) && decide (cmdField c 25 1 ≤ 16) &&
    (decide (cmdField c 26 2 < 2048) || cmdField c 26 2 == 0xFFFF) && cmdField c 32 8 % 32 == 0 && cmdField c 40 8 % 128 == 0 && decide (99232 ≤ cmdField c 48 4)

/-- CREATEQ (R262). -/
def execCreateq (c : AdminCmd) (s : State) : Result :=
  .next (adminNow 0x01 [(8, 2), (10, 1), (12, 4), (16, 8), (24, 1), (25, 1), (26, 2), (32, 8), (40, 8), (48, 4)]
    (createqOk c && (findQueue s (cmdQueue c)).isNone) c (fun s => { s with queues := s.queues ++ [newQueue c] }) s)

/-- The launches of a queue that have not completed. -/
def openLaunches (s : State) (q : QueueNo) : List Launch := s.launches.filter (fun l => l.queue == q && !l.done)

/-- The state without a queue and its launches; a dependence that named one of them no longer does (R46). -/
def removeQueue (q : QueueNo) (s : State) : State :=
  let freed (l : Launch) : List Nat := ((recDeps l.record).filter (fun d => d.queue == q)).map (fun d => d.index)
  { s with queues := s.queues.filter (fun x => x.num != q), completions := s.completions.filter (fun c => c.queue != q)
           launches := (s.launches.filter (fun l => l.queue != q)).map (fun l => { l with cleared := l.cleared ++ freed l }) }

/-- DESTROYQ (R262): the launches of the queue are aborted. -/
def execDestroyq (c : AdminCmd) (s : State) : Result :=
  .next (admin 0x02 [(8, 2)] (namesQueue s c) c (fun s =>
    let q := cmdQueue c
    let s := setQueue q (fun x => { x with destroying := some (cmdTag c) }) s
    let s := ((openLaunches s q).filter (fun l => l.outcome.isNone)).foldl (fun s l => cutLaunch q l.seq 5 0 s) s
    adminHold 0x02 c [q.toNat] s) s)

/-- The state after DESTROYQ has gone on: it completes when the launches' resources are free and their records are written, or cannot be. -/
def destroyStep (tag : Word) (q : QueueNo) (s : State) : State :=
  match findQueue s q with
  | none => adminEnd tag 0 0 s
  | some x =>
    let held := s.completions.any (fun c => c.queue == q) && (x.written - x.chead).toNat != 2 ^ x.c
    if !(openLaunches s q).isEmpty || held then s else adminEnd tag 0 0 (removeQueue q s)

/-- SUSPENDQ (R62, R262): every resident stand of the queue is pre-empted, with those that must stay with it. -/
def execSuspendq (c : AdminCmd) (s : State) : Result :=
  .next (admin 0x03 [(8, 2)] (namesQueue s c) c (fun s => adminHold 0x03 c [cmdField c 8 2] (setQueue (cmdQueue c) (fun x => { x with state := 1, suspended := true }) s)) s)

/-- Whether a stand may be pre-empted: neither it nor a stand that goes with it has a stopped cord (R62, R269). -/
def mayPreempt (s : State) (x : Stand) : Bool := (coResident s x).all (fun k => !standStopped s k)

/-- The state with the stands of suspended queues that stream back in turned round, with those that stream with them (R62). -/
def turnBack (s : State) : State :=
  { s with stands := modifyWhere (fun x => x.phase == 2 && suspended s x.key.queue && mayPreempt s x) (fun x => { x with phase := 1 }) s.stands }

/-- The state with the stands of suspended queues that may be pre-empted streaming out, with those that must go with them (R62). -/
def preemptSuspended (s : State) : State :=
  let s := turnBack s
  (s.stands.filter (fun x => suspended s x.key.queue && x.phase == 0 && mayPreempt s x)).foldl (fun s x => preempt (coResident s x) s) s

/-- The state after SUSPENDQ has gone on: stands that may be pre-empted are, and it completes when none of those is resident. One that STOP holds stays, and is pre-empted when it is
resumed (R269). -/
def suspendStep (tag : Word) (q : QueueNo) (s : State) : State :=
  let s := preemptSuspended s
  if s.stands.any (fun x => x.key.queue == q && mayPreempt s x && (x.phase == 0 || (allCords s).any (fun c => !c.id.handler && c.stand == x.key))) then s else adminEnd tag 0 0 s

/-- RESUMEQ (R258, R262). -/
def execResumeq (c : AdminCmd) (s : State) : Result :=
  .next (adminNow 0x04 [(8, 2)] (namesQueue s c) c (setQueue (cmdQueue c) (fun x => { x with state := 0, suspended := false, errored := false })) s)

/-! ### RESERVE (R100) -/

/-- The core that RESERVE names. -/
def reserveCore (c : AdminCmd) : CoreId := BitVec.ofNat 2 (cmdField c 13 1) ++ BitVec.ofNat 4 (cmdField c 14 1) ++ BitVec.ofNat 2 (cmdField c 15 1)

/-- Whether the parameters of RESERVE are in range. -/
def reserveOk (c : AdminCmd) : Bool :=
  let kind := cmdField c 12 1
  let m := cmdField c 32 4
  decide (cmdField c 8 4 < 2 ^ 20) && decide (kind ≤ 2) && (kind != 2 || cmdField c 8 4 == 0) && decide (cmdField c 13 1 ≤ 3) && decide (cmdField c 14 1 ≤ 15) &&
    decide (cmdField c 15 1 ≤ 3) && cmdField c 16 8 % 4096 == 0 && physOk (cmdField c 16 8) &&
    (if kind = 1 then m % 16 == 0 && decide (16 ≤ m) && decide (m ≤ 65536) else m == 0) &&
    decide ((if kind = 0 then 2162688 else if kind = 1 then 64 * 96 * m else 204800) ≤ cmdField c 24 8)

/-- Whether a reservation of a core may be replaced. -/
def mayReplace (s : State) (k : CoreId) (kind : Nat) (p : Pasid) : Bool :=
  !(allCords s).any (fun c => c.id.core == k && !c.id.handler && c.pasid == p) && !(coreOf s k).saved.any (fun v => v.pasid == p && !v.cords.isEmpty) &&
    (kind != 2 || (coreOf s k).log.isEmpty)

/-- RESERVE (R100, R262). -/
def execReserve (c : AdminCmd) (s : State) : Result :=
  let k := reserveCore c
  let kind := cmdField c 12 1
  let p : Pasid := BitVec.ofNat 20 (cmdField c 8 4)
  let same := fun (r : Reservation) => r.kind == kind && r.pasid == p
  let r : Reservation := { kind := kind, pasid := p, base := cmdField c 16 8, size := cmdField c 24 8, stackMax := cmdField c 32 4 }
  .next (adminNow 0x05 [(8, 4), (12, 1), (13, 1), (14, 1), (15, 1), (16, 8), (24, 8), (32, 4)]
    (reserveOk c && (!(coreOf s k).resv.any same || mayReplace s k kind p)) c
    (fun s => setCore s k (fun x => { x with resv := x.resv.filter (fun y => !same y) ++ [r] })) s)

/-! ### The handler image, banks, the quantum and page requests -/

/-- LOADHANDLER (R181, R262). -/
def execLoadhandler (c : AdminCmd) (s : State) : Result :=
  let base := cmdField c 8 8
  let size := cmdField c 16 4
  let entry := cmdField c 20 4
  .next (admin 0x06 [(8, 8), (16, 4), (20, 4)] (base % 4 == 0 && physOk base && size % 4 == 0 && entry % 4 == 0 && decide (entry < size)) c (fun s =>
    adminHold 0x06 c [] { s with mgmt := { s.mgmt with handlerNext := some { base := base, size := size, entry := entry } } }) s)

/-- Whether a core is between stands: it holds no cord of a stand and serves no request. -/
def betweenStands (s : State) (k : CoreId) : Bool := (coreOf s k).serving.isNone && !(allCords s).any (fun c => c.id.core == k && !c.id.handler)

/-- The state after LOADHANDLER has gone on: the image is installed on each core that is between stands, and the command completes when every core has it. -/
def loadStep (tag : Word) (s : State) : State :=
  let im := s.mgmt.handlerNext
  let s := ((List.range 256).map (fun i => (BitVec.ofNat 8 i : CoreId))).foldl (fun s k => if (coreOf s k).handler == im || !betweenStands s k then s else setCore s k (fun c => { c with handler := im })) s
  if s.cores.toList.all (fun c => c.handler == im) then adminEnd tag 0 0 { s with mgmt := { s.mgmt with handlerNext := none } } else s

/-- A cluster that a command names. -/
def cmdCluster (c : AdminCmd) (off : Nat) : ClusterId := BitVec.ofNat 2 (cmdField c off 1) ++ BitVec.ofNat 4 (cmdField c (off + 1) 1)

/-- SETBANKS (R102, R262). -/
def execSetbanks (c : AdminCmd) (s : State) : Result :=
  let k := cmdCluster c 8
  .next (admin 0x07 [(8, 1), (9, 1), (12, 4)] (decide (cmdField c 8 1 ≤ 3) && decide (cmdField c 9 1 ≤ 15)) c (fun s =>
    adminHold 0x07 c [k.toNat] (writeBankmode k (BitVec.ofNat 32 (cmdField c 12 4)) (writeBankstat k 0xFFFF0000 s))) s)

/-- The state after SETBANKS has gone on: it completes when every change has, with the final status. -/
def banksStep (tag : Word) (k : ClusterId) (s : State) : State := if (clusterOf s k).changing.isEmpty then adminEnd tag 0 (clusterOf s k).bankstat s else s

/-- SETQUANTUM (R59, R262). -/
def execSetquantum (c : AdminCmd) (s : State) : Result :=
  let q := cmdField c 8 1
  .next (adminNow 0x08 [(8, 1)] (q == 0 || (decide (12 ≤ q) && decide (q ≤ 30))) c (fun s =>
    { s with mgmt := { s.mgmt with quantum := q }, cores := s.cores.map (fun k => { k with quantumLeft := if q = 0 then 0 else 2 ^ q }) }) s)

/-- PRI (R166, R262). -/
def execPri (c : AdminCmd) (s : State) : Result :=
  .next (adminNow 0x09 [(8, 1), (9, 1), (12, 4)] (decide (cmdField c 8 1 ≤ 3) && decide (cmdField c 9 1 ≤ 1)) c (fun s =>
    setDie s (BitVec.ofNat 2 (cmdField c 8 1)) (fun d => { d with requestsOff := d.requestsOff && cmdField c 9 1 == 0, timeout := BitVec.ofNat 32 (cmdField c 12 4) })) s)

/-! ### Stripes and migrations (R119, R249) -/

/-- The packages of a node. -/
def nodePackages (f : Fabric) (node : Nat) : List PkgNo := f.present.filter (fun p => p.toNat / 4 == node)

/-- STRIPE (R119, R262). -/
def execStripe (c : AdminCmd) (s : State) : Result :=
  let base := cmdField c 8 8
  .next (admin 0x0A [(8, 8), (16, 4), (20, 1)]
    (base % 2097152 == 0 && physOk base && decide (1 ≤ cmdField c 16 4) && decide (cmdField c 20 1 ≤ 31) && !(nodePackages s.fabric (cmdField c 20 1)).isEmpty) c
    (adminHold 0x0A c [base / 2097152, cmdField c 16 4, cmdField c 20 1, 0, 0, 0]) s)

/-- The state after STRIPE has gone on: one migration request after another, to the home pool's counterpart at the package R119 names. -/
def stripeStep (tag : Word) (base count node i left wait : Nat) (s : State) : State :=
  if count ≤ i then adminEnd tag 0 (BitVec.ofNat 32 left) s
  else if wait = 1 then s
  else
    let g : Gfn := BitVec.ofNat 36 (base + i)
    let dest : PkgNo := BitVec.ofNat 7 (4 * node + i % (nodePackages s.fabric node).length)
    let pool := homePool (homeIndex g)
    let put (i left wait : Nat) (s : State) : State := { s with mgmt := { s.mgmt with adminBusy := some (tag, 0x0A, [base, count, node, i, left, wait]) } }
    match migEarly s.fabric g dest pool with
    | some _ => put (i + 1) (left + 1) 0 s
    | none => match requestMig g dest pool .stripe s with
      | (none, s) => s
      | (some _, s) => if waiting s (.mig .stripe) then put i left 1 s else put (i + 1) (left + 1) 0 s

/-- MIGRATE (R249, R262). -/
def execMigrate (c : AdminCmd) (s : State) : Result :=
  .next (admin 0x0B [(8, 8), (16, 1), (17, 1), (24, 8)]
    (decide (cmdField c 8 8 < 2 ^ 36) && decide (cmdField c 16 1 ≤ 127) && decide (cmdField c 17 1 ≤ 7) && cmdField c 24 8 % 4 == 0 && physOk (cmdField c 24 8)) c
    (adminHold 0x0B c [cmdField c 8 8, cmdField c 16 1, cmdField c 17 1, cmdField c 24 8]) s)

/-- The state after MIGRATE has gone on: it completes when its request has been made or has ended here. -/
def migrateStep (tag : Word) (g : Gfn) (dest : PkgNo) (pool status : Nat) (s : State) : State :=
  match migEarly s.fabric g dest pool with
  | some o => adminEnd tag 0 0 (migReport (.phys status) o s)
  | none => match requestMig g dest pool (.phys status) s with
    | (none, s) => s
    | (some _, s) => adminEnd tag 0 0 s

/-! ### JOURNAL (R263) -/

/-- JOURNAL (R262, R263). -/
def execJournal (c : AdminCmd) (s : State) : Result :=
  let base := cmdField c 8 8
  let log2 := cmdField c 16 1
  .next (adminNow 0x0F [(8, 8), (16, 1)] (base % 32 == 0 && physOk base && decide (6 ≤ log2) && decide (log2 ≤ 20)) c (fun s =>
    { s with mgmt := { s.mgmt with journal := some { base := base, log2 := log2 } } }) s)

/-! ### Going on (R262) -/

/-- The state after a command with an OP that R262 does not name, or a SETTING, FUNCTION or ACTION it does not. -/
def adminInvalid (c : AdminCmd) (s : State) : State := admin (cmdField c 0 2) [] false c (fun s => s) s

/-- The state after the command under way has gone on. -/
def adminStep (s : State) : State :=
  match s.mgmt.adminBusy with
  | some (tag, 0x02, [q]) => destroyStep tag (BitVec.ofNat 14 q) s
  | some (tag, 0x03, [q]) => suspendStep tag (BitVec.ofNat 14 q) s
  | some (tag, 0x06, _) => loadStep tag s
  | some (tag, 0x07, [k]) => banksStep tag (BitVec.ofNat 6 k) s
  | some (tag, 0x0A, [base, count, node, i, left, wait]) => stripeStep tag base count node i left wait s
  | some (tag, 0x0B, [g, dest, pool, status]) => migrateStep tag (BitVec.ofNat 36 g) (BitVec.ofNat 7 dest) pool status s
  | _ => s

end Sys2Proof.Machine
end

