-- ==== Sys2Proof/Machine/Replies.lean ====
section
/-! DEFINITION. Answers to this package's own requests: ACK, DATA, negative replies and redirects (08 R172; 11 R232, R234, R237, R238, R247, R251). -/

namespace Sys2Proof.Machine

/-- The outstanding request that an answer is for: that of its TAG, sent to the package that answers or relayed to it by a stump (R238, R251). -/
def answered (f : Fabric) (src : PkgNo) (tag : BitVec 14) : Option Outstanding :=
  match f.outstanding.find? (fun o => o.req.tag == tag && o.req.dst == src) with
  | some o => some o
  | none => f.outstanding.find? (fun o => o.req.tag == tag)

/-- The state without an outstanding request. -/
def closeOut (o : Outstanding) (s : State) : State := setFabric (fun f => { f with outstanding := f.outstanding.erase o }) s

/-- Whether two lanes of a flight wait for one request. -/
def sharesRequest (f : Flight) (lane : Nat) (l : LaneAcc) : Bool := match l.st with
  | .sent p t => f.lanes.any (fun x => x.lane == lane && x.st == .sent p t)
  | _ => false

/-- The state with the lanes of an access changed that wait for the request of one of them. -/
def setAccess (c : CordId) (id lane : Nat) (k : Flight → LaneAcc → LaneAcc) (s : State) : State :=
  mapLanes (fun x => x.id == c) (fun f l => if f.id = id && (l.lane == lane || sharesRequest f lane l) then k f l else l) s

/-- The cord and flight of an access that is outstanding. -/
def accessFlight (s : State) (c : CordId) (id : Nat) : Option Flight :=
  ((allCords s).find? (fun x => x.id == c)).bind (fun x => x.flights.find? (fun f => f.id == id))

/-- Whether a write of this package to a line at its owner is not yet answered. -/
def changeOut (s : State) (line : Nat) : Bool := s.fabric.outstanding.any (fun o => changesLine o.op o.req.addr.toNat (sizeBytes o.req.size) o.req.payload line)

/-- A node partner's line that this package's LLC may keep a clean copy of (R124, R234); none while a write of its own to the line is out, which the bytes may precede. -/
def keepLine (owner : PkgNo) (line v : Nat) (s : State) : State :=
  let (t, s) := draw s
  if !isPartner s.fabric owner || s.fabric.partner.any (fun x => x.line == line) || changeOut s line || Config.pick t % 2 = 0 then s
  else
    let x : PartnerLine := { line := line, owner := owner, modified := false, data := BitVec.ofNat 1024 v, dirty := 0 }
    setFabric (fun f => { f with partner := x :: f.partner }) s

/-- The state without a clean copy of a line that this package has written at its owner. -/
def dropCopy (a : Nat) (s : State) : State := setFabric (fun f => { f with partner := f.partner.filter (fun x => x.line != lineOf a || x.modified) }) s

/-! ### ACK (R238, R240) -/

/-- A lane whose request was acknowledged: a notify-store's data alone leaves its flag to do (R139, R247). -/
def ackedLane (flag : Bool) (f : Flight) (l : LaneAcc) : LaneAcc :=
  if f.op = .notify && !flag && l.stage = 0 then l.become .half else l.become (.done 0)

/-- The state after the request of an answer has been acknowledged; half is the ACK of the data of an NST alone (R247). -/
def ackOut (half : Bool) (o : Outstanding) (s : State) : State :=
  let line := o.req.addr.toNat
  let s := if o.op = 0x02 || o.op = 0x03 || o.op = 0x05 || o.op = 0x07 then dropCopy line s else s
  match o.waiter with
  | .access c id lane flag => setAccess c id lane (ackedLane (flag && !half)) s
  | .engine id pa write => addMark { id := id, pa := pa, write := write, code := 0, data := 0 } s
  | .writeBack _ | .none =>
    if o.op = 0x0A && o.req.fn == 2 then dirDrop line o.req.dst s
    else if o.op = 0x0A && o.req.fn == 1 then
      let x : PartnerLine := { line := line, owner := o.req.dst, modified := true, data := 0, dirty := 0 }
      setFabric (fun f => { f with partner := x :: f.partner.filter (fun y => y.line != line) }) s
    else s
  | _ => s

/-- ACK (R238, R240): that of a migration request says that the owner has entered it, and its outcome follows. -/
def execAck (r : Resp) (s : State) : Result :=
  .next (if r.dst != s.fabric.num then relayFor r.dst (.resp 0x20 r) s
    else if r.size = 0 && s.fabric.outcomes.contains (r.src, r.tag) then setFabric (fun f => { f with outcomes := f.outcomes.erase (r.src, r.tag) }) s
    else match answered s.fabric r.src r.tag with
      | none => s
      | some o => if o.op = 0x0B && o.req.fn == 6 then migEntered o s else ackOut (r.size == 1) o (closeOut o s))

/-! ### DATA (R238, R240) -/

/-- The state with a line that has come for a flight put into its cord's cluster cache (R103), under the bytes of the cluster's own copy. It is not kept when the cluster has dropped bytes
since the line was asked for: an acquire that came between must not be undone by an older value (R127, R130). -/
def keepLoaded (c : CordId) (stamp line v : Nat) (stack : Bool) (s : State) : State :=
  let k := c.core.cluster
  if !hasWays (clusterOf s k) || (clusterOf s k).epoch != stamp then s
  else match withRoom k line stack s with
    | (some cur, s) => keepIn k (fillLine cur (BitVec.ofNat 1024 v)) s
    | (none, s) => s

/-- The bytes that a flight's older stores left in its cluster's copy of a line, over the owner's. -/
def ownBytes (c : CordId) (line v : Nat) (s : State) : CacheLine := fillLine (cacheLine (clusterOf s c.core.cluster) line false) (BitVec.ofNat 1024 v)

/-- The state after a line of another package has come for a lane: a load has its value, the row of a stack access its line (R99), and an atomic that runs in the cluster goes on. -/
def lineLoaded (c : CordId) (id : Nat) (l : LaneAcc) (line v : Nat) (s : State) : State :=
  let stack := match l.tgt with
    | .stack _ => true
    | _ => false
  let own := ownBytes c line v s
  let s := if l.mode = 0 then keepLoaded c l.stamp line v stack s else s
  setAccess c id l.lane (fun f l =>
    if stack then { l with st := .todo, rows := (line, BitVec.ofNat 1024 v) :: l.rows }
    else match f.op with
      | .load | .loadM | .fetch =>
        let from_ := if l.mode = 0 then own else { own with data := BitVec.ofNat 1024 v }
        l.become (loaded (lineBytes from_ (l.va.toNat % 128) f.size))
      | .prefetch => l.become (.done 0)
      | _ => l.become .todo) s

/-- The VLDM accesses of other instructions that a router absorbed into a read of a line: their lanes wait for its answer (R117). -/
def absorbedBy (s : State) (o : Outstanding) (c : CordId) (id : Nat) : List (CordId × Nat × LaneAcc) :=
  let waits (l : LaneAcc) : Bool := l.at_.any (fun a => lineOf a == lineOf o.req.addr.toNat) && (match l.st with
    | .sent _ t => t == o.req.tag
    | _ => false)
  let mine (x : Cord) (f : Flight) : Option (CordId × Nat × LaneAcc) :=
    if f.op = .loadM && !(x.id == c && f.id == id) then (f.lanes.find? waits).map (fun l => (x.id, f.id, l)) else none
  if o.op != 0x01 then [] else (allCords s).flatMap (fun x => if x.id.core.die.toNat = o.req.tag.toNat / 2048 then x.flights.filterMap (mine x) else [])

/-- A lane whose atomic was performed at its owner. -/
def atomLane (v : Nat) (f : Flight) (l : LaneAcc) : LaneAcc :=
  match f.op with
  | .ntf _ => if l.stage = 1 then l.become (.done 0) else l.become .half
  | .notify => l.become (.done 0)
  | _ => l.become (loaded v)

/-- The state with a granule's owner entered in a die's owner cache (R232); a full cache gives up its oldest entry (DESIGN CHOICE, log entry 73). -/
def enterOwner (d : DieId) (g : Gfn) (v : Nat) (s : State) : State :=
  setDie s d (fun x => { x with ownerCache := ((g, BitVec.ofNat 7 v, v / 2 ^ 64 % 2 ^ 64) :: x.ownerCache.filter (fun e => e.1 != g)).take 8192 })

/-- The state after a registrar has named a granule's owner for a die: the reply is entered only when no announcement or redirect has come since it was asked for, and otherwise serves the
next access of the die to the granule, the one that asked (R232; log entry 47). -/
def ownerNamed (d : DieId) (g : Gfn) (inv : Nat) (v : Nat) (s : State) : State :=
  if (dieOf s d).ownerInv = inv then enterOwner d g v s
  else setDie s d (fun x => { x with once := (g, BitVec.ofNat 7 v) :: x.once.filter (fun e => e.1 != g) })

/-- The state after the request of an answer has been given its data. -/
def dataOut (o : Outstanding) (r : Resp) (s : State) : State :=
  let v := natOfBytes r.payload
  match o.waiter with
  | .access c id lane _ =>
    if o.op = 0x01 then
      let line := lineOf o.req.addr.toNat
      let own := ((accessFlight s c id).bind (fun f => f.lanes.find? (fun l => l.lane == lane))).map (fun l => (c, id, l))
      let all := own.toList ++ absorbedBy s o c id
      if all.isEmpty then s else all.foldl (fun s x => lineLoaded x.1 x.2.1 x.2.2 line v s) (keepLine r.src line v s)
    else if (accessFlight s c id).isNone then s
    else setAccess c id lane (atomLane v) (dropCopy o.req.addr.toNat s)
  | .engine id pa write => addMark { id := id, pa := pa, write := write, code := 0, data := BitVec.ofNat 1024 v } s
  | .registrar d g inv => ownerNamed d g inv v s
  | .stumps g => reserveStep g (v / 2 ^ 24 % 256) (v / 2 ^ 64 % 2 ^ 64) s
  | .resend tag dst inv =>
    let d := cacheDie (tag.toNat / 2048)
    let g := gfnOf o.req.addr.toNat
    resendTo (BitVec.ofNat 7 v) tag dst (if (dieOf s d).ownerInv = inv then enterOwner d g v s else s)
  | .reserve g => tellFlags g 1 (startHold g (setMove g (fun m => { m with frame := v / 2 ^ 56 % 2 ^ 24 }) s))
  | .host h rd _ =>
    let hs := s.hosts
    { s with hosts := hs.set h.val (hostX rd (BitVec.ofNat 64 v) (hs[h.val]'h.isLt)) h.isLt }
  | _ =>
    if o.op = 0x0A && o.req.fn == 3 then
      let line := o.req.addr.toNat
      let s := if v % 2 ^ 128 = 0 then s else touchMask { cls := 3, pkg := o.req.dst } 1 line (v % 2 ^ 128) s
      dirDrop line o.req.dst { s with mem := memWriteMask s.mem line 128 (v / 2 ^ 128) (v % 2 ^ 128) }
    else s

/-- DATA (R238, R240). -/
def execData (r : Resp) (s : State) : Result :=
  .next (if r.dst != s.fabric.num then relayFor r.dst (.resp 0x21 r) s
    else match answered s.fabric r.src r.tag with
      | none => s
      | some o => dataOut o r (closeOut o s))

/-! ### NEG (R172) -/

/-- The state after a request has been refused for good: the access faults with the code, a migration request ends. The spec names no outcome of a migration whose request or reserve no path
can carry (LINKDOWN): the model ends the first with NOPACKAGE and the second with NOFRAME (DESIGN CHOICE, log entry 74). -/
def failOut (o : Outstanding) (code sub : Nat) (s : State) : State :=
  match o.waiter with
  | .access c id lane _ =>
    let fail := fun (f : Flight) (l : LaneAcc) => if f.op = .prefetch then l.become .dropped else l.become (.failed code (if code = 0x0B then 256 else sub))
    (absorbedBy s o c id).foldl (fun s x => setAccess x.1 x.2.1 x.2.2.lane fail s) (setAccess c id lane fail s)
  | .writeBack _ | .none => errorEvent s
  | .device => s
  | .host h _ _ => hostException 5 (BitVec.ofNat 64 o.req.addr.toNat) (selectHost h s)
  | .hostWrite h => hostException 7 (BitVec.ofNat 64 o.req.addr.toNat) (selectHost h s)
  | .engine id pa write => addMark { id := id, pa := pa, write := write, code := code + 256 * (if code = 0x0B then 256 else sub), data := 0 } s
  | .migAcc c id _ => mapLanes (fun x => x.id == c) (fun f l => if f.id = id then l.become (.failed code sub) else l) s
  | .mig _ =>
    endRequestMig o.req.tag (gfnOf o.req.addr.toNat) (if sub = 1 then 2 else 4) (setFabric (fun f => { f with outstanding := o :: f.outstanding }) s)
  | .reserve g => (match moveOf s.fabric g with
    | some m => endMove m 2 s
    | none => s)
  | _ => s

/-- The state after a request has been refused for good; a registrar that refuses a request sent again for an access refuses the access. -/
def refusedOut (o : Outstanding) (code sub : Nat) (s : State) : State :=
  match o.waiter with
  | .resend tag dst _ => (match heldOut s.fabric tag dst with
    | some x => failOut x code sub (closeOut x s)
    | none => s)
  | _ => failOut o code sub s

/-- The state after an access has met 0x0A: its owner is asked for at the registrar, and it is sent again, while new accesses to the granule wait for those that are out through the old owner
(R141, R172). -/
def reResolve (o : Outstanding) (s : State) : State :=
  let g := gfnOf o.req.addr.toNat
  let d := cacheDie (o.req.tag.toNat / 2048)
  let s := setDie s d (fun x => { x with ownerCache := x.ownerCache.filter (fun e => e.1 != g) })
  let o' := { o with naks := o.naks + 1, held := true }
  let hold : Announce := { gfn := g, old := o.req.dst, owner := o.req.dst, gen := 0, ackDue := false, req := none }
  let s := setFabric (fun f => { f with outstanding := f.outstanding.map (fun x => if x = o then o' else x)
                                        announces := if f.announces.contains hold then f.announces else f.announces ++ [hold] }) s
  keepOwn 0x40 { o.req with src := o.req.dst } s

/-- Whether a request that meets 0x0A is sent again without limit: a migration request (R249), and a write-back, which no access waits for (R340). -/
def withoutLimit (o : Outstanding) : Bool := (o.op == 0x0B && o.req.fn == 6) || (match o.waiter with
  | .writeBack _ | .device => true
  | .none => o.op == 0x03
  | _ => false)

/-- NEG (R172): 0x0A re-resolves, and traps at the fourth in a row; a migration request and a write-back go on without limit (R249, R340). -/
def execNeg (n : NegMsg) (s : State) : Result :=
  let code := n.code.toNat
  .next (match answered s.fabric n.src n.tag with
    | none => s
    | some o =>
      if code = 0x0A && o.op != 0x09 && (withoutLimit o || decide (o.naks < 3)) then reResolve o s
      else refusedOut o code n.sub.toNat (closeOut o s))

/-! ### REDIR (R141, R232, R251) -/

/-- Whether a redirect is newer than any applied for its granule (R251): generations by their low 22 bits. -/
def newerGen (f : Fabric) (g : Gfn) (gen : Nat) : Bool := match f.gens.find? (fun x => x.1 == g) with
  | some x => x.2 != gen && decide ((gen + 2 ^ 22 - x.2) % 2 ^ 22 < 2 ^ 21)
  | none => true

/-- The packages to which accesses to a granule are outstanding. -/
def sentTo (s : State) (g : Gfn) : List PkgNo :=
  ((s.fabric.outstanding.filter (fun o => o.op != 0x0B && o.op != 0x09 && gfnOf o.req.addr.toNat == g)).map (fun o => o.req.dst)).eraseDups

/-- REDIR (R251): the owner caches name the new owner, and new accesses wait for those sent through the old one (R141). -/
def execRedir (m : RedirMsg) (s : State) : Result :=
  .next (
    let gen := m.gen.toNat
    if !newerGen s.fabric m.gfn gen then s
    else
      let olds := (sentTo s m.gfn).filter (fun p => p != m.owner)
      let held := olds.map (fun p => ({ gfn := m.gfn, old := p, owner := m.owner, gen := gen, ackDue := false, req := none } : Announce))
      setFabric (fun f => { f with gens := (m.gfn, gen) :: f.gens.filter (fun x => x.1 != m.gfn), announces := f.announces ++ held })
        (setOwnerCaches m.gfn (some m.owner) gen true s))

end Sys2Proof.Machine
end

