-- ==== Sys2Proof/Machine/Flits.lean ====
section
/-! DEFINITION. Flits, their sequence spaces and resends, node links, rotor fibres and relays (11 R233, R235 to R246). -/

namespace Sys2Proof.Machine

/-! ### CRC-32 of IEEE 802.3 (R236, R264) -/

/-- One bit of the CRC. -/
def crcBit (c : BitVec 32) : BitVec 32 := if c.getLsbD 0 then (c >>> 1) ^^^ 0xEDB88320#32 else c >>> 1
/-- The CRC after one more byte. -/
def crcByte (c : BitVec 32) (b : Byte) : BitVec 32 :=
  crcBit (crcBit (crcBit (crcBit (crcBit (crcBit (crcBit (crcBit (c ^^^ b.setWidth 32))))))))
/-- The CRC-32 of a list of bytes. -/
def crc32 (bs : List Byte) : BitVec 32 := ~~~(bs.foldl crcByte 0xFFFFFFFF#32)

/-! ### The flit (R235 to R238) -/

/-- n bytes of a flit at an offset, as a number. -/
def flitNat (bs : List Byte) (off n : Nat) : Nat := natOfBytes ((bs.drop off).take n)
/-- A field of the flit header (R236). -/
def flitField (bs : List Byte) (lo n : Nat) : Nat := flitNat bs 0 16 / 2 ^ lo % 2 ^ n
/-- SRC of a flit. -/
def flitSrc (bs : List Byte) : PkgNo := BitVec.ofNat 7 (flitField bs 121 7)
/-- SEQ of a flit. -/
def flitSeq (bs : List Byte) : Word := BitVec.ofNat 32 (flitField bs 0 32)
/-- The MAP code of segment s, from 1 to 9. -/
def mapCode (bs : List Byte) (k : Nat) : Nat := flitField bs (69 + 3 * (k - 1)) 3
/-- The control messages of a flit. -/
def flitControls (bs : List Byte) : List Nat := (List.range (flitField bs 118 2)).map (fun i => flitNat bs (16 + 16 * i) 16)
/-- TYPE of a control message. -/
def controlType (c : Nat) : Nat := c / 2 ^ 120 % 256
/-- The four header slots of segment k. -/
def segHeaders (bs : List Byte) (k : Nat) : List Nat := (List.range 4).map (fun i => flitNat bs (64 * k + 16 * i) 16)

/-- OP of a header. -/
def headerOp (h : Nat) : Nat := h / 2 ^ 122 % 64

/-- Whether a request's SIZE and FN are among those that R240 allows, and its TAG's die code is not reserved (R238). -/
def requestOk (h : Nat) : Bool :=
  let op := headerOp h
  let size := h / 2 ^ 91 % 8
  let fn := h / 2 ^ 83 % 16
  decide (h / 2 ^ 105 % 8 ≤ 4) && (match op with
    | 0x01 | 0x02 | 0x05 => decide (size ≤ 4) && fn == 0
    | 0x03 => size == 4 && fn == 0
    | 0x04 => decide (size ≤ 1) && decide (fn ≤ 10)
    | 0x06 => size == 2 && fn == 0
    | 0x07 | 0x08 => decide (2 ≤ size) && decide (size ≤ 6) && fn == 0
    | 0x09 => size == 0 && fn == 0
    | 0x0A => size == 4 && decide (fn ≤ 3)
    | 0x0B => size == 0 && decide (fn ≤ 6)
    | 0x0C => size == 2 && decide (fn ≤ 1)
    | _ => false)

/-- Whether a header slot is empty or holds a legal header of its kind. The spec treats a request header that is not legal as a CRC failure of its flit (R238, R240) and says nothing of a
response header with another OP or with SIZE 7: the model treats it alike (DESIGN CHOICE, log entry 72). -/
def headerOk (code h : Nat) : Bool :=
  headerOp h == 0 || (if code = 1 then requestOk h else (headerOp h == 0x20 || headerOp h == 0x21) && h / 2 ^ 91 % 8 != 7)

/-- Whether a flit is whole: 640 bytes, its CRC, and nothing that is treated as a CRC failure (R235 to R238, R240). -/
def flitOk (bs : List Byte) : Bool :=
  bs.length == 640 && crc32 (bs.take 4 ++ List.replicate 4 0 ++ bs.drop 8) == BitVec.ofNat 32 (flitField bs 32 32) &&
    (List.range 9).all (fun i => let c := mapCode bs (i + 1)
      decide (c < 4) && ((c != 1 && c != 2) || (segHeaders bs (i + 1)).all (headerOk c))) &&
    (flitControls bs).all (fun c => decide (1 ≤ controlType c) && decide (controlType c ≤ 4))

/-- Whether a flit is sequenced (R239). -/
def flitSequenced (bs : List Byte) : Bool :=
  (flitControls bs).any (fun c => controlType c != 1) ||
    (List.range 9).any (fun i => let c := mapCode bs (i + 1)
      c == 3 || ((c == 1 || c == 2) && (segHeaders bs (i + 1)).any (fun h => headerOp h != 0)))

/-- A request header (R238). -/
def headerReq (h : Nat) : OutMsg :=
  let b (lo n : Nat) : Nat := h / 2 ^ lo % 2 ^ n
  .req (headerOp h) { src := BitVec.ofNat 7 (b 115 7), dst := BitVec.ofNat 7 (b 108 7), tag := BitVec.ofNat 14 (b 94 14), size := BitVec.ofNat 3 (b 91 3)
                      scope := BitVec.ofNat 3 (b 88 3), rly := b 87 1 == 1, fn := BitVec.ofNat 4 (b 83 4), pasid := BitVec.ofNat 20 (b 63 20)
                      addr := BitVec.ofNat 57 (b 0 57), payload := [] }

/-- A response header (R238). -/
def headerResp (h : Nat) : OutMsg :=
  let b (lo n : Nat) : Nat := h / 2 ^ lo % 2 ^ n
  .resp (headerOp h) { src := BitVec.ofNat 7 (b 115 7), dst := BitVec.ofNat 7 (b 108 7), tag := BitVec.ofNat 14 (b 94 14), size := BitVec.ofNat 3 (b 91 3), payload := [] }

/-- Whether a response answers a recall of this package, sent to the package that answers (R234, R238). -/
def answersRecall (f : Fabric) (r : Resp) : Bool :=
  r.dst == f.num && f.outstanding.any (fun o => o.op == 0x0A && o.req.tag == r.tag && o.req.dst == r.src)

/-- The bytes of payload that a message carries (R240). A response's DATA holds its SIZE, but mask and line for a recall. -/
def payloadBytes (f : Fabric) : OutMsg → Nat
  | .req op r => (match op with
    | 0x02 | 0x07 => sizeBytes r.size
    | 0x03 => 144
    | 0x04 | 0x06 | 0x0B | 0x0C => 16
    | 0x05 => 16 + sizeBytes r.size
    | _ => 0)
  | .resp op r => if op != 0x21 then 0 else if answersRecall f r then 144 else sizeBytes r.size
  | _ => 0

/-- The bytes that a message has so far. -/
def gotBytes : OutMsg → List Byte
  | .req _ r => r.payload
  | .resp _ r => r.payload
  | _ => []

/-- A message with more bytes. -/
def addBytes (bs : List Byte) : OutMsg → OutMsg
  | .req op r => .req op { r with payload := r.payload ++ bs }
  | .resp op r => .resp op { r with payload := r.payload ++ bs }
  | m => m

/-- A message with its padding removed (R241). -/
def trimmed (f : Fabric) (m : OutMsg) : OutMsg :=
  let n := payloadBytes f m
  match m with
  | .req op r => .req op { r with payload := r.payload.take n }
  | .resp op r => .resp op { r with payload := r.payload.take n }
  | m => m

/-- Whether a message waits for payload. -/
def wantsBytes (f : Fabric) (m : OutMsg) : Bool := decide ((gotBytes m).length < payloadBytes f m)

/-- The messages with 64 bytes given to the earliest that waits for payload (R241). -/
def giveSegment (f : Fabric) (bs : List Byte) : List OutMsg → List OutMsg
  | [] => []
  | m :: ms => if wantsBytes f m then addBytes bs m :: ms else m :: giveSegment f bs ms

/-- The messages under way after a flit's segments, in ascending order (R235, R241). -/
def takeSegments (f : Fabric) (bs : List Byte) (ms : List OutMsg) : List OutMsg :=
  (List.range 9).foldl (fun ms i =>
    let hs := (segHeaders bs (i + 1)).filter (fun h => headerOp h != 0)
    match mapCode bs (i + 1) with
    | 1 => ms ++ hs.map headerReq
    | 2 => ms ++ hs.map headerResp
    | 3 => giveSegment f ((bs.drop (64 * (i + 1))).take 64) ms
    | _ => ms) ms

/-- The turn of a control message of a package (R237). -/
def controlTurn (src : PkgNo) (c : Nat) : Turn :=
  let b (lo n : Nat) : Nat := c / 2 ^ lo % 2 ^ n
  match controlType c with
  | 1 => .link src false (BitVec.ofNat 32 c)
  | 2 => .link src true (BitVec.ofNat 32 c)
  | 3 => .message (.neg { src := src, requester := BitVec.ofNat 7 (b 113 7), tag := BitVec.ofNat 14 (b 99 14), code := BitVec.ofNat 8 (b 91 8), sub := BitVec.ofNat 8 (b 83 8) })
  | _ => .message (.redir { requester := BitVec.ofNat 7 (b 113 7), owner := BitVec.ofNat 7 (b 106 7), gfn := BitVec.ofNat 36 (b 70 36), gen := BitVec.ofNat 22 (b 48 22) })

/-- A peer as the state holds it. -/
def peerOf (f : Fabric) (p : PkgNo) : Peer := (f.peers.find? (fun x => x.pkg == p)).getD (newPeer p)

/-- The state after a sequenced flit has been delivered: its messages are the next turns, each once its payload is whole and none is before it (R239, R241). -/
def deliverFlit (p : PkgNo) (bs : List Byte) (s : State) : State :=
  let ms := takeSegments s.fabric bs (peerOf s.fabric p).part
  let whole := ms.takeWhile (fun m => !wantsBytes s.fabric m)
  let turns := (flitControls bs).map (controlTurn p) ++ whole.map (fun m => .heard p (trimmed s.fabric m))
  setPeer p (fun x => { x with part := ms.drop whole.length, expect := x.expect + 1, ackDue := true }) { s with agenda := s.agenda ++ turns }

/-- The state after the early flits that are now in turn have been delivered (R239). -/
def deliverEarly (p : PkgNo) : Nat → State → State
  | 0, s => s
  | n + 1, s =>
    match (peerOf s.fabric p).early.find? (fun e => e.1 == (peerOf s.fabric p).expect) with
    | none => s
    | some e => deliverEarly p n (deliverFlit p e.2 (setPeer p (fun x => { x with early := x.early.erase e }) s))

/-- Whether a switch makes no match for this package: the fibre's group is asleep, or the fibre has failed (R242, R245). -/
def fibreDark (s : State) (w : Nat) : Bool := decide (96 ≤ w) || s.mgmt.asleep.getLsbD (w / 12) || s.fabric.failedFibres.contains w

/-- Whether a port carries flits: a node link that is up, or a fibre of a switch that makes matches (R16, R17, R242, R245). -/
def portLit (s : State) (via : Port) : Bool :=
  match via with
  | .link k => s.fabric.links.getD k.toNat .idle == .up
  | .fibre w => !fibreDark s w.toNat

/-- The package at the far end of a port: a node link's partner (R233), or the peer of a fibre's dwell (R244). -/
def portPeer (f : Fabric) (via : Port) : Option PkgNo :=
  match via with
  | .link k => f.present.find? (fun p => isPartner f p && (position p ^^^ position f.num) == k.toNat + 1)
  | .fibre w => (f.openers.find? (fun o => o.1 == w.toNat)).map (fun o => o.2)

/-- The package that port i meets in matching m (R243). -/
def matched (m i : Nat) : Nat := if i = 127 then m else if i = m then 127 else (2 * m + 127 - i) % 127

/-- The matching that pairs two ports (R243): 64 is the inverse of 2 modulo 127. -/
def matchingOf (i j : Nat) : Nat := if i = 127 then j else if j = 127 then i else (i + j) * 64 % 127

/-- The matching of switch w in the present slot (R243). -/
def switchMatching (f : Fabric) (w : Nat) : Nat := (f.slot + 2 * w) % 127

/-- The state after the opener of a fibre's dwell has named its peer, from which the package learns the matching in use (R243, R244): it is the one of the fibre's switch in this slot.
Absent packages and those of this node send nothing on the fibre (R17, R233). -/
def openDwell (w : Nat) (p : PkgNo) (s : State) : State :=
  let f := s.fabric
  if fibreDark s w || !f.present.contains p || sameNode p f.num || matchingOf f.num.toNat p.toNat != switchMatching f w then s
  else setFabric (fun f => { f with openers := (w, p) :: f.openers.filter (fun o => o.1 != w) }) s

/-- The state after a whole flit has come in from a port's peer: credit, and delivery in SEQ order (R236, R239, R242, R246). -/
def takeFlit (bs : List Byte) (s : State) : State :=
  let p := flitSrc bs
  let s := setFabric (fun f => { f with credits := (p, flitField bs 96 16) :: f.credits.filter (fun c => c.1 != p) }) s
  let q := flitSeq bs
  let x := peerOf s.fabric p
  if !flitSequenced bs then { s with agenda := s.agenda ++ (flitControls bs).map (controlTurn p) }
  else if q = x.expect then
    deliverEarly p x.early.length (deliverFlit p bs (setPeer p (fun x => { x with dropping := false, nakDue := false }) s))
  else if 2 ^ 31 ≤ (q - x.expect).toNat then setPeer p (fun x => { x with ackDue := true }) s
  else if x.dropping || x.early.any (fun e => e.1 == q) then s
  else setPeer p (fun x => { x with early := x.early ++ [(q, bs)] }) s

/-- The state after the opener of a dwell, where a flit is one (R244). -/
def openWith (via : Port) (bs : List Byte) (s : State) : State :=
  match via, flitField bs 120 1 with
  | .fibre w, 1 => openDwell w.toNat (flitSrc bs) s
  | _, _ => s

/-- FLIT_RECEIVE (R16, R17, R239, R242): a port carries the flits of the package at its far end only. One that fails its check is discarded with every later one of its peer until the
expected flit comes, and a LINKNAK is due. -/
def execFlitReceive (via : Port) (bs : List Byte) (s : State) : Result :=
  .next (if !s.fabric.joined || !portLit s via then s
    else if flitOk bs then
      let s := openWith via bs s
      if portPeer s.fabric via == some (flitSrc bs) then takeFlit bs s else s
    else match portPeer s.fabric via with
      | some p => setPeer p (fun x => { x with dropping := true, nakDue := true, early := [] }) s
      | none => s)

/-! ### Sending (R235 to R241, R244 to R246) -/

/-- The header of a message (R238); a NEG or a REDIR is a control message (R237). -/
def messageBits : OutMsg → Nat
  | .req op r => op * 2 ^ 122 + r.src.toNat * 2 ^ 115 + r.dst.toNat * 2 ^ 108 + r.tag.toNat * 2 ^ 94 + r.size.toNat * 2 ^ 91 + r.scope.toNat * 2 ^ 88 +
      (if r.rly then 2 ^ 87 else 0) + r.fn.toNat * 2 ^ 83 + r.pasid.toNat * 2 ^ 63 + r.addr.toNat
  | .resp op r => op * 2 ^ 122 + r.src.toNat * 2 ^ 115 + r.dst.toNat * 2 ^ 108 + r.tag.toNat * 2 ^ 94 + r.size.toNat * 2 ^ 91
  | .neg n => 3 * 2 ^ 120 + n.requester.toNat * 2 ^ 113 + n.tag.toNat * 2 ^ 99 + n.code.toNat * 2 ^ 91 + n.sub.toNat * 2 ^ 83
  | .redir r => 4 * 2 ^ 120 + r.requester.toNat * 2 ^ 113 + r.owner.toNat * 2 ^ 106 + r.gfn.toNat * 2 ^ 70 + r.gen.toNat * 2 ^ 48

/-- The MAP code of the segment that holds a message's header (R235); 0 for a control message. -/
def messageCode : OutMsg → Nat
  | .req _ _ => 1
  | .resp _ _ => 2
  | _ => 0

/-- A payload padded with zero bytes to a multiple of 64 (R241). -/
def padded (bs : List Byte) : List Byte := bs ++ List.replicate ((64 - bs.length % 64) % 64) 0

/-- A flit as it is filled (R235, R241): its control messages, its segments with their MAP codes, the messages that begin in it, those that still wait, and the payload still owed. -/
structure Filling where
  controls : List Nat
  segs : List (Nat × List Byte)
  taken : List OutMsg
  out : List OutMsg
  owed : List Byte
  deriving DecidableEq, Repr

/-- A flit with the payload owed put into the segments that are left (R241). -/
def fillOwed (x : Filling) : Filling :=
  let n := min (9 - x.segs.length) (x.owed.length / 64)
  { x with segs := x.segs ++ (List.range n).map (fun i => (3, (x.owed.drop (64 * i)).take 64)), owed := x.owed.drop (64 * n) }

/-- A flit with the next messages put into it: a control message into a slot, or up to four headers of one kind into a segment with their payloads after it. -/
def fillStep (x : Filling) : Filling :=
  match x.out with
  | [] => x
  | m :: ms =>
    if messageCode m = 0 then (if x.controls.length < 3 then { x with controls := x.controls ++ [messageBits m], taken := x.taken ++ [m], out := ms } else x)
    else if 9 ≤ x.segs.length then x
    else
      let hs := ((m :: ms).takeWhile (fun y => messageCode y == messageCode m)).take 4
      let slots := hs.flatMap (fun y => bytesOfNat 16 (messageBits y)) ++ List.replicate (64 - 16 * hs.length) 0
      fillOwed { x with segs := x.segs ++ [(messageCode m, slots)], taken := x.taken ++ hs, out := (m :: ms).drop hs.length, owed := hs.flatMap (fun y => padded (gotBytes y)) }

/-- A flit with as many messages as it holds: at most nine segments and three control messages. -/
def fillFlit : Nat → Filling → Filling
  | 0, x => x
  | n + 1, x => fillFlit n (fillStep x)

/-- The 640 bytes of a flit (R235, R236). -/
def flitBytes (src : PkgNo) (opening : Bool) (deck : Nat) (seq : Word) (controls : List Nat) (segs : List (Nat × List Byte)) : List Byte :=
  let map := segs.zipIdx.foldl (fun n x => n + x.1.1 * 2 ^ (3 * x.2)) 0
  let head (crc : BitVec 32) : List Byte := bytesOfNat 16 (src.toNat * 2 ^ 121 + (if opening then 2 ^ 120 else 0) + controls.length * 2 ^ 118 + deck * 2 ^ 96 + map * 2 ^ 69 +
    crc.toNat * 2 ^ 32 + seq.toNat)
  let body := controls.flatMap (bytesOfNat 16) ++ List.replicate (48 - 16 * controls.length) 0 ++ segs.flatMap (fun x => x.2) ++ List.replicate (64 * (9 - segs.length)) 0
  head (crc32 (head 0 ++ body)) ++ body

/-- The relay-deck credit that remains to a package, in 512-byte chunks (R236, R246): its equal share of the deck, less the chunks that it has put there. A share above what the 16-bit field
holds is stated as 65,535 (DESIGN CHOICE, log entry 71). -/
def grantOf (f : Fabric) (p : PkgNo) : Nat :=
  min 65535 (f.deck * 131072 / (f.present.length - 1) - (f.relay.filter (fun x => x.via == p)).length)

/-- The credit that a package has granted, in 512-byte chunks. -/
def creditOf (f : Fabric) (p : PkgNo) : Nat := match f.credits.find? (fun c => c.1 == p) with
  | some c => c.2
  | none => 0

/-- The port with a direct match to a package now (R233, R244): its node link, or a fibre whose dwell is with it. -/
def portTo (s : State) (p : PkgNo) : Option Port :=
  let via : List Port := (List.range 3).map (fun k => .link (BitVec.ofNat 2 k)) ++ s.fabric.openers.map (fun o => .fibre (BitVec.ofNat 7 o.1))
  via.find? (fun v => portLit s v && portPeer s.fabric v == some p)

/-- The intermediate that a bulk message for a 4 KiB page takes (R246); none in a pod of two packages. -/
def intermediate (f : Fabric) (src dst : PkgNo) (pa : Nat) : Option PkgNo :=
  let ps := f.present.filter (fun p => p != src && p != dst)
  if ps.isEmpty then none else ps[hash36 (pa / 4096 % 2 ^ 36) % ps.length]?

/-- The package that a chunk of bulk traffic goes to now (R246): its destination on a direct match, else the page's intermediate where that is matched and its credit covers the chunk;
none while it waits. Traffic between packages of one node uses their link only (R233). -/
def bulkNext (s : State) (b : Bulk) : Option PkgNo :=
  if (portTo s b.dst).isSome then some b.dst
  else if sameNode b.dst s.fabric.num then none
  else (intermediate s.fabric s.fabric.num b.dst b.addr).filter (fun q => (portTo s q).isSome && creditOf s.fabric q != 0)

/-- A message that travels through a relay deck (R238). -/
def withRly : OutMsg → OutMsg
  | .req op r => .req op { r with rly := true }
  | m => m

/-- The state with the next chunk of bulk traffic that goes to a package now put among its messages, when none of them waits (R246). -/
def pullBulk (p : PkgNo) (s : State) : State :=
  let x := peerOf s.fabric p
  if !x.out.isEmpty || !x.owed.isEmpty then s
  else match s.fabric.bulk.find? (fun b => bulkNext s b == some p) with
    | none => s
    | some b =>
      let s := setFabric (fun f => { f with bulk := f.bulk.erase b }) s
      if b.dst = p then setPeer p (fun x => { x with out := [b.msg] }) s
      else setPeer p (fun x => { x with out := [withRly b.msg] })
        (setFabric (fun f => { f with credits := f.credits.map (fun c => if c.1 = p then (c.1, c.2 - 1) else c) }) s)

/-- The state with a flit put on a port. -/
def putWire (via : Port) (bs : List Byte) (s : State) : State := setFabric (fun f => { f with wire := (via, bs) :: f.wire.filter (fun x => x.1 != via) }) s

/-- The state after a flit that is due again has been sent again on a port (R242). -/
def resendFlit (via : Port) (p : PkgNo) (y : SentFlit) (s : State) : State :=
  putWire via y.bytes (setPeer p (fun x => { x with sent := x.sent.map (fun z => if z.seq = y.seq then { z with port := via, due := false } else z) }) s)

/-- The control messages of a peer's sequence spaces that are due (R237, R242). -/
def linkControls (x : Peer) : List Nat :=
  (if x.ackDue then [2 ^ 120 + (x.expect - 1).toNat] else []) ++ (if x.nakDue then [2 * 2 ^ 120 + x.expect.toNat] else [])

/-- The state after the next flit with messages has been formed and sent on a port; one with nothing but a LINKACK is a filler, which is not kept (R239). -/
def sendNewFlit (via : Port) (p : PkgNo) (s : State) : State :=
  let s := pullBulk p s
  let x := peerOf s.fabric p
  let z := fillFlit 13 (fillOwed { controls := linkControls x, segs := [], taken := [], out := x.out, owed := x.owed })
  if z.controls.isEmpty && z.segs.isEmpty then s
  else
    let bs := flitBytes s.fabric.num false (grantOf s.fabric p) x.nextTx z.controls z.segs
    let sequenced := x.nakDue || !z.taken.isEmpty || !z.segs.isEmpty
    putWire via bs (setPeer p (fun x => { x with out := z.out, owed := z.owed, ackDue := false, nakDue := false, nextTx := if sequenced then x.nextTx + 1 else x.nextTx
                                                 sent := if sequenced then x.sent ++ [{ seq := x.nextTx, bytes := bs, msgs := z.taken, port := via, fails := 0, failed := false, due := false }] else x.sent }) s)

/-- The state after a flit to the peer of a port: one that is due again first, in SEQ order, else a new one. -/
def sendFlit (via : Port) (s : State) : State :=
  match portPeer s.fabric via with
  | none => s
  | some p =>
    match (peerOf s.fabric p).sent.find? (fun y => y.due) with
    | some y => resendFlit via p y s
    | none => sendNewFlit via p s

/-- The state after the opener of a fibre's dwell has been sent (R239, R244): a filler with OPEN set; while its peer is not known, its SEQ and DECK are free values. -/
def sendOpener (w : BitVec 7) (s : State) : State :=
  let (t, s) := draw s
  let (deck, seq) : Nat × Word := match portPeer s.fabric (.fibre w) with
    | some p => (grantOf s.fabric p, (peerOf s.fabric p).nextTx)
    | none => (Config.pick t % 65536, Config.freeWord t)
  setFabric (fun f => { f with opened := w.toNat :: f.opened }) (putWire (.fibre w) (flitBytes s.fabric.num true deck seq [] []) s)

/-- The state after a port has sent a flit, where it carries any: each dwell of a fibre begins with its opener (R242, R244). -/
def transmit (via : Port) (s : State) : State :=
  if !s.fabric.joined || !portLit s via then s
  else match via with
    | .fibre w => if s.fabric.opened.contains w.toNat then sendFlit via s else sendOpener w s
    | .link _ => sendFlit via s

/-- Whether something waits for a flit to a package. -/
def hasTraffic (s : State) (p : PkgNo) : Bool :=
  s.fabric.peers.any (fun x => x.pkg == p && (!x.out.isEmpty || !x.owed.isEmpty || x.ackDue || x.nakDue || x.sent.any (fun y => y.due))) ||
    s.fabric.bulk.any (fun b => bulkNext s b == some p)

/-- The ports that have a flit to send: an opener, or something for their peer. -/
def sendingPorts (s : State) : List Port :=
  let busy (via : Port) : Bool := match portPeer s.fabric via with
    | some p => hasTraffic s p
    | none => false
  if !s.fabric.joined then []
  else ((List.range 3).map (fun k => Port.link (BitVec.ofNat 2 k))).filter (fun v => portLit s v && busy v) ++
    ((List.range 96).filter (fun w => !fibreDark s w && (!s.fabric.opened.contains w || busy (.fibre (BitVec.ofNat 7 w))))).map (fun w => .fibre (BitVec.ofNat 7 w))

/-! ### Acknowledgement and resend (R242) -/

/-- Whether a sequence number is at or before another, modulo 2^32. -/
def seqLe (a b : Word) : Bool := decide ((b - a).toNat < 2 ^ 31)

/-- The link to a node partner (R233). -/
def partnerPort (f : Fabric) (p : PkgNo) : Port := .link (BitVec.ofNat 2 ((position p ^^^ position f.num) - 1))

/-- LINKACK (R237, R242): flits up to the number are freed; each that had failed counts as a transient error of the link or fibre that delivered it (R266). -/
def execLinkack (p : PkgNo) (q : Word) (s : State) : Result :=
  let x := peerOf s.fabric p
  let late := x.sent.filter (fun y => seqLe y.seq q && y.failed)
  let s := late.foldl (fun s y => countError (.link y.port) s) s
  .next (if x.sent.isEmpty then s else setPeer p (fun x => { x with sent := x.sent.filter (fun y => !seqLe y.seq q) }) s)

/-- A flit that has failed once more and is to be sent again; one that already waits for that has not failed anew. -/
def failFlit (y : SentFlit) : SentFlit := if y.due then y else { y with fails := y.fails + 1, failed := true, due := true }

/-- LINKNAK (R237, R242): every unacknowledged flit from the number on is sent again. -/
def execLinknak (p : PkgNo) (q : Word) (s : State) : Result :=
  let x := peerOf s.fabric p
  .next (if x.sent.isEmpty then s else setPeer p (fun x => { x with sent := x.sent.map (fun y => if seqLe q y.seq then failFlit y else y) }) s)

/-- The state with some of the flits sent changed. -/
def mapSent (which : SentFlit → Bool) (k : SentFlit → SentFlit) (s : State) : State :=
  setFabric (fun f => { f with peers := f.peers.map (fun x => { x with sent := x.sent.map (fun y => if which y then k y else y) }) }) s

/-- RESEND_TIMEOUT (R242): the flits of a port with no acknowledgement after 1 µs on a link, or at the end of their dwell on a fibre, are sent again. -/
def execResendTimeout (p : PkgNo) (via : Port) (s : State) : Result :=
  .next (if (peerOf s.fabric p).sent.isEmpty then s else setPeer p (fun x => { x with sent := x.sent.map (fun y => if y.port = via then failFlit y else y) }) s)

/-- Whether a flit that a port carried last has failed 16 times in a row. -/
def portWorn (f : Fabric) (via : Port) : Bool := f.peers.any (fun x => x.sent.any (fun y => y.port == via && decide (16 ≤ y.fails)))

/-- The state with the failures of a port's flits counted anew towards the limit; that they have failed stays (R242). -/
def clearFails (via : Port) (s : State) : State := mapSent (fun y => y.port == via) (fun y => { y with fails := 0 }) s

/-- The state after everything sent to a package that no path reaches any more has been answered by the package's own interface (R242, R248). -/
def answerDown (p : PkgNo) (s : State) : State :=
  let os := s.fabric.outstanding.filter (fun o => o.req.dst == p)
  let s := if s.fabric.peers.any (fun x => x.pkg == p) then setPeer p (fun x => { x with sent := [], out := [], owed := [] }) s else s
  let s := setFabric (fun f => { f with bulk := f.bulk.filter (fun b => b.dst != p) }) s
  os.foldl (fun s o => { s with agenda := s.agenda ++ [.message (.neg { src := p, requester := s.fabric.num, tag := o.req.tag, code := 9, sub := 3 })] }) s

/-- The state with a fibre marked failed; without any fibre, no path reaches the packages of other nodes (R242). -/
def failFibre (w : Nat) (s : State) : State :=
  let s := setFabric (fun f => { f with failedFibres := f.failedFibres ++ [w], openers := f.openers.filter (fun o => o.1 != w) }) s
  let s := errorEvent (countError .fibreFail s)
  if s.fabric.failedFibres.length < 96 then s
  else (s.fabric.present.filter (fun p => p != s.fabric.num && !sameNode p s.fabric.num)).foldl (fun s p => answerDown p s) s

/-- LINK_FAILURE_LIMIT (R242): a node link is retrained, and a fibre is marked failed. -/
def execLinkFailureLimit (via : Port) (s : State) : Result :=
  .next (if !portWorn s.fabric via then s
    else match via with
      | .link k =>
        if s.fabric.links.getD k.toNat .idle != .up then s
        else errorEvent (countError .retrain (clearFails via (setFabric (fun f => { f with links := f.links.setIfInBounds k.toNat .retraining }) s)))
      | .fibre w => if s.fabric.failedFibres.contains w.toNat then s else failFibre w.toNat (clearFails via s))

/-- LINK_RETRAIN_RESULT (R242): the link is up again, or is marked down. -/
def execLinkRetrainResult (k : BitVec 2) (ok : Bool) (s : State) : Result :=
  .next (if s.fabric.links.getD k.toNat .idle != .retraining then s
    else if ok then setFabric (fun f => { f with links := f.links.setIfInBounds k.toNat .up }) s
    else
      let s := setFabric (fun f => { f with links := f.links.setIfInBounds k.toNat .down }) s
      let s := errorEvent s
      match portPeer s.fabric (.link k) with
      | some p => answerDown p s
      | none => s)

/-! ### The rotor and relays (R243, R244, R246) -/

/-- DWELL_OPENER (R244). -/
def execDwellOpener (w : BitVec 7) (p : PkgNo) (s : State) : Result := .next (openDwell w.toNat p s)

/-- Whether a port is a fibre. -/
def onFibre : Port → Bool
  | .fibre _ => true
  | .link _ => false

/-- ROTOR_SLOT (R242, R243): the next slot begins. Every dwell ends, and a flit that a fibre carried in it without an acknowledgement is to be sent again. -/
def execRotorSlot (s : State) : Result :=
  .next (mapSent (fun y => onFibre y.port) failFlit (setFabric (fun f => { f with slot := (f.slot + 1) % 127, opened := [], openers := [] }) s))

/-- RELAY_FORWARD (R246): the first relayed message for a package goes on at a direct match. -/
def execRelayForward (dst : PkgNo) (s : State) : Result :=
  .next (match s.fabric.relay.find? (fun x => x.dst == dst) with
    | none => s
    | some x => if (portTo s dst).isNone then s else sendMsg dst x.msg (setFabric (fun f => { f with relay := f.relay.erase x }) s))

end Sys2Proof.Machine
end

