-- ==== Sys2Proof/Machine/Bringup.lean ====
section
/-! DEFINITION. Reset, the firmware image, the mailbox and the fabric join (11 R229, R231, R246; 12 R258, R264, R271). -/

namespace Sys2Proof.Machine

/-- The package after reset: what the outside still brings, and the counters that are the model's own, go on. -/
def afterReset (s : State) : State :=
  let r := State.reset
  { r with inputs := s.inputs, tick := s.tick, nextId := s.nextId }

/-- RESET (R271 step 1). -/
def execReset (s : State) : Result := .next (afterReset s)

/-- POWER_REMOVAL (R265): it acts as a reset. -/
def execPowerRemoval (s : State) : Result := .next (afterReset s)

/-- n bytes of an image at an offset. -/
def imageField (bs : List Byte) (off n : Nat) : Nat := natOfBytes ((bs.drop off).take n)

/-- Whether an image keeps R264: magic, length and CRC-32 as 4-byte words, then the payload. -/
def imageOk (bs : List Byte) : Bool :=
  decide (12 ≤ bs.length) && imageField bs 0 4 == 0x454E0001 && imageField bs 4 4 == bs.length - 12 && crc32 (bs.drop 12) == BitVec.ofNat 32 (imageField bs 8 4)

/-- The state after the firmware has trained the memories and the node links and recorded the failures in the mailbox (R271 step 3): bits 0 to 4 of the record name the pools' memories and
bits 5 to 7 the node links; which of them fail is a free choice (DESIGN CHOICE, log entry 50). -/
def trainPackage (s : State) : State :=
  if s.mgmt.step != 3 then s
  else
    let (t, s) := draw s
    let fails : BitVec 8 := BitVec.ofNat 8 (Config.pick t)
    { s with fabric := { s.fabric with links := Vector.ofFn (fun k => if fails.getLsbD (5 + k.val) then .down else .up) }, mgmt := { s.mgmt with trainFails := fails, step := 4 } }

/-- FIRMWARE_IMAGE_LOAD (R264, R271 step 2): an image that fails the check is not run, and the mailbox reports LOADFAIL. -/
def execFirmwareImageLoad (bs : List Byte) (s : State) : Result :=
  .next (if s.mgmt.step != 2 then s
    else if imageOk bs then { s with mgmt := { s.mgmt with image := true, loadFail := false, step := 3 } }
    else { s with mgmt := { s.mgmt with loadFail := true } })

/-- MAILBOX_EXPOSED_COUNTS (R229, R271 step 4). -/
def execMailboxExposedCounts (xs : List Nat) (s : State) : Result :=
  let ok := xs.length == 5 && (xs.zipIdx.all (fun x => decide (x.1 ≤ Config.poolFrames x.2)))
  .next (if s.mgmt.step = 4 && ok then { s with fabric := { s.fabric with exposed := xs }, mgmt := { s.mgmt with countsSet := true } } else s)

/-- MAILBOX_DECK_SIZE (R246, R271 step 4): units of 64 MiB, up to 4 GiB. -/
def execMailboxDeckSize (units : Nat) (s : State) : Result :=
  .next (if s.mgmt.step = 4 && decide (units ≤ 64) then { s with fabric := { s.fabric with deck := units }, mgmt := { s.mgmt with deckSet := true } } else s)

/-- MAILBOX_ADMIN_QUEUE (R258, R271 step 4). -/
def execMailboxAdminQueue (a : AdminRings) (s : State) : Result :=
  let ok := a.ring % 64 == 0 && a.comp % 32 == 0 && decide (4 ≤ a.q) && decide (a.q ≤ 16) && decide (4 ≤ a.c) && decide (a.c ≤ 16) && a.vector.all (fun v => decide (v < 2048))
  let q : Queue := { Queue.reset with live := true, ring := a.ring, q := a.q, comp := a.comp, c := a.c, vector := a.vector }
  .next (if s.mgmt.step = 4 && ok then { s with queues := q :: s.queues.filter (fun x => x.num != 0) } else s)

/-- Whether every node of a pod holds its packages in positions 0 upward with no gaps (R15). -/
def noGaps (present : List PkgNo) : Bool := present.all (fun p => position p == 0 || present.contains (p - 1))

/-- Whether the host has set all that step 4 of bring-up names: the exposed counts, the relay deck and the admin queue's rings (R271). -/
def stepFourOver (s : State) : Bool := s.mgmt.step == 4 && s.mgmt.countsSet && s.mgmt.deckSet && s.queues.any (fun q => q.num == 0 && q.live)

/-- FABRIC_JOIN (R15, R16, R231, R271 step 5): the package takes its number; its registrar's records name the home packages, and a node link with no partner is idle. -/
def execFabricJoin (num : PkgNo) (members : List (PkgNo × List Nat)) (s : State) : Result :=
  let present := (sortList (fun a b => decide (a ≤ b)) ((members.map (fun m => m.1)).filter (fun p => p != num) ++ [num])).eraseDups
  let links : Vector LinkState 3 := Vector.ofFn (fun k =>
    if present.any (fun p => sameNode p num && position p == position num ^^^ (k.val + 1)) then s.fabric.links[k.val] else .idle)
  .next (if stepFourOver s && noGaps present then
      { s with fabric := { s.fabric with joined := true, num := num, present := present, counts := members, links := links }, mgmt := { s.mgmt with step := 6 } }
    else s)

end Sys2Proof.Machine
end

