-- ==== Sys2Proof/Machine/Neighbour.lean ====
section
/-! DEFINITION. The neighbour engine and class binning (10 R214 to R227; 14 R311; 15 R331). -/

namespace Sys2Proof.Machine

/-! ### Grid descriptors (R217) -/

/-- A grid descriptor's fields (R217); zero says that its reserved fields are. -/
structure Grid where
  lx : Word
  ly : Word
  lz : Word
  rc : Word
  skin : Word
  nx : Nat
  ny : Nat
  nz : Nat
  flags : Nat
  npart : Nat
  part : DWord
  sorted : DWord
  cstart : DWord
  refpos : DWord
  epoch : Word
  st : Nat
  zero : Bool
  deriving DecidableEq, Repr

/-- The descriptor whose 128 bytes are a number. -/
def gridOf (v : Nat) : Grid :=
  let w (o : Nat) : Word := BitVec.ofNat 32 (v / 2 ^ (8 * o))
  let d (o : Nat) : DWord := BitVec.ofNat 64 (v / 2 ^ (8 * o))
  { lx := w 0, ly := w 4, lz := w 8, rc := w 12, skin := w 16, nx := slotField v 20 2, ny := slotField v 22 2, nz := slotField v 24 2
    flags := slotField v 26 2, npart := slotField v 28 4, part := d 32, sorted := d 40, cstart := d 48, refpos := d 56, epoch := w 64
    st := slotField v 68 1, zero := slotField v 69 3 == 0 && slotField v 76 52 == 0 }

/-- A finite FP32 value in units of 2^-149. -/
def fix (x : Word) : Int := (f32 x).scaled (-149)

/-- An axis of a grid: its box length in units of 2^-149, its cells, and whether it is periodic. -/
structure Axis where
  len : Int
  n : Nat
  per : Bool
  deriving DecidableEq, Repr

/-- The three axes of a grid. -/
def gridAxes (g : Grid) : List Axis :=
  [{ len := fix g.lx, n := g.nx, per := g.flags.testBit 0 }, { len := fix g.ly, n := g.ny, per := g.flags.testBit 1 },
   { len := fix g.lz, n := g.nz, per := g.flags.testBit 2 }]

/-- RC + SKIN in units of 2^-149. -/
def gridReach (g : Grid) : Int := fix g.rc + fix g.skin

/-- The cells of a grid. -/
def gridCells (g : Grid) : Nat := g.nx * g.ny * g.nz

/-- Whether every array of a grid lies in the global aperture: an engine takes no stack address (R95, R185). -/
def gridGlobal (g : Grid) : Bool :=
  globalRange g.part (16 * g.npart) && globalRange g.sorted (4 * g.npart) && globalRange g.cstart (4 * (gridCells g + 1)) && globalRange g.refpos (16 * g.npart)

/-- The checks that NBCFG makes of a descriptor (R217). -/
def gridOk (g : Grid) : Bool :=
  let pos (x : Word) : Bool := (f32 x).isFinite && decide (0 < fix x)
  let axis (a : Axis) : Bool :=
    decide (1 ≤ a.n) && decide (a.n ≤ 1024) && decide (gridReach g * a.n ≤ a.len) && (!a.per || (decide (3 ≤ a.n) && decide (2 * gridReach g ≤ a.len)))
  pos g.lx && pos g.ly && pos g.lz && pos g.rc && (f32 g.skin).isFinite && decide (0 ≤ fix g.skin) && (gridAxes g).all axis &&
    decide (g.nx * g.ny * g.nz ≤ 4194304) && decide (g.flags < 8) && decide (1 ≤ g.npart) && decide (g.npart ≤ 16777216) &&
    g.part.toNat % 16 == 0 && g.sorted.toNat % 4 == 0 && g.cstart.toNat % 4 == 0 && g.refpos.toNat % 16 == 0 && g.zero && gridGlobal g

/-! ### Positions (R218) -/

/-- The three coordinates of a particle. -/
abbrev Pos := Word × Word × Word

/-- A particle's coordinates among its 16 bytes. -/
def posOf (v : Nat) : Pos := (BitVec.ofNat 32 v, BitVec.ofNat 32 (v / 2 ^ 32), BitVec.ofNat 32 (v / 2 ^ 64))
/-- Coordinates as a list. -/
def coords (p : Pos) : List Word := [p.1, p.2.1, p.2.2]
/-- Whether every coordinate is finite. -/
def posFinite (p : Pos) : Bool := (coords p).all (fun x => (f32 x).isFinite)

/-- The cell coordinate on an axis (R218). -/
def cellOn (a : Axis) (x : Word) : Nat :=
  if a.per then (fix x % a.len * a.n / a.len).toNat else (clampInt 0 (a.n - 1 : Int) (fix x * a.n / a.len)).toNat

/-- The cell of a particle with finite coordinates (R218). -/
def cellOf (g : Grid) (p : Pos) : Nat :=
  match ((gridAxes g).zip (coords p)).map (fun q => cellOn q.1 q.2) with
  | [x, y, z] => x + g.nx * (y + g.ny * z)
  | _ => 0

/-- The minimum-image difference on an axis and its shift (R218). -/
def minImage (a : Axis) (xi xj : Word) : Int × Int :=
  let d := fix xj - fix xi
  if a.per then
    let r := d % a.len
    let r := if a.len < 2 * r then r - a.len else r
    (r, (r - d) / a.len)
  else (d, 0)

/-- The minimum-image differences between two particles. -/
def minImages (g : Grid) (pi pj : Pos) : List (Int × Int) :=
  ((gridAxes g).zip ((coords pi).zip (coords pj))).map (fun q => minImage q.1 q.2.1 q.2.2)

/-- A whole number of units of 2^q as an exact value. -/
def unitsVal (q : Int) (x : Int) : FVal := .num (decide (x < 0)) x.natAbs q

/-- The rounded displacement components (R218). -/
def displacement (g : Grid) (pi pj : Pos) : List Word := (minImages g pi pj).map (fun m => roundF32 (unitsVal (-149) m.1))

/-- The squared distance from rounded components (R218). -/
def squared (ds : List Word) : Word := roundF32 (sumVals (ds.map (fun d => (mulVals (f32 d) (f32 d)).1))).1

/-- The exact squared minimum-image distance (R220): infinite if a coordinate is not finite. -/
def exactSquare (g : Grid) (p q : Pos) : FVal :=
  if posFinite p && posFinite q then unitsVal (-298) ((minImages g p q).foldl (fun a m => a + m.1 * m.1) 0) else .inf false

/-- A shift code (R222). -/
def shiftCode (x : Int) : Nat := if x = 0 then 0 else if x = 1 then 1 else if x = -1 then 3 else 2

/-- A record of a ring (R222). -/
def record (a b c : Word) (info : Nat) : Nat := a.toNat + 2 ^ 32 * b.toNat + 2 ^ 64 * c.toNat + 2 ^ 96 * info

/-- The two records of a pair, when its squared distance is within reach (R221, R222). -/
def pairRecords (g : Grid) (i j : Nat) (pi pj : Pos) : Option (List Nat) :=
  if !(posFinite pi && posFinite pj) then none
  else
    let ds := displacement g pi pj
    let q := squared ds
    let bound := unitsVal (-298) (gridReach g * gridReach g)
    if (f32 q).isNan || bound.lt (f32 q) then none
    else match ds, minImages g pi pj with
      | [dx, dy, dz], [mx, my, mz] =>
        some [record (BitVec.ofNat 32 i) (BitVec.ofNat 32 j) q (2 ^ 28 + 16 * shiftCode mz.2 + 4 * shiftCode my.2 + shiftCode mx.2),
              record dx dy dz (2 * 2 ^ 28)]
      | _, _ => none

/-! ### Acceptance (R185, R214 to R216) -/

/-- The ring that a handle names for a command of the acting cord (R215). -/
def nbRing (s : State) (h : Word) (kind : Nat) : Option (ClusterId × BitVec 6) :=
  let c : ClusterId := h.extractLsb' 19 6
  let i : BitVec 6 := h.extractLsb' 13 6
  let held := s.quads.toList.any (fun q => q.any (fun x => match x.op with
    | .pair _ _ _ r => r == (c, i)
    | .cbin _ r => r == some (c, i)
    | _ => false))
  match ringAt (clusterOf s c) i with
  | some r =>
    if fieldNat h 0 13 = 0 && h.extractLsb' 25 7 == s.fabric.num && c.die == thisDie s && r.kind == kind && !r.ended && r.pasid == s.cord.pasid && !held
    then some (c, i) else none
  | none => none

/-- A command of the acting cord, when its descriptor's address and its operands are accepted (R185, R215). -/
def nbBuild (s : State) (op : NbOp) (scope : Nat) (arrive : Bool) (size : Nat) (a : Reg) : Option NbCmd :=
  let desc := blockPair s a 0
  if desc.toNat % size ≠ 0 || !globalRange desc size then none
  else
    let bar := if arrive then (winRange s (blockReg s a 3).toNat 8 8).map some else some none
    match winRange s (blockReg s a 2).toNat 16 16, bar with
    | some w, some b =>
      some { id := 0, op := op, cord := s.cord.id, stand := s.cord.stand, pasid := s.cord.pasid, scope := scope, desc := desc, status := w, barrier := b
             fork := s.nextId, phase := 0, desc0 := 0, epoch := 0, next := 0, pairs := 0, skipped := 0, firstSkip := 0, parts := [], far := .num false 0 0, classes := []
             recs := [], stop := none }
    | _, _ => none

/-- The state with a command accepted. -/
def nbAccept (c : NbCmd) (s : State) : State :=
  let (id, s) := fresh s
  advance (countPath 5 (setQuad s (thisCluster s).quad (fun q => q ++ [{ c with id := id }])))

/-- Whether the quadrant's engine holds 16 commands (R216). -/
def nbFull (s : State) : Bool := decide (16 ≤ (quadOf s (thisCluster s).quad).length)

/-- A neighbour-engine instruction (R185, R215). -/
def nbIssue (build : State → Option NbCmd) (s : State) : State :=
  outsideBody (fun s =>
    if nbFull s then wait 5 s
    else match build s with
      | none => refuseCmd s
      | some c => nbAccept c s) s

/-- The identity under which a cord reads a descriptor at an NBCFG. -/
def acceptId (s : State) : Nat := 2 ^ 64 * (1 + s.cord.id.core.toNat * 64 + s.cord.id.slot.toNat) + s.cord.frag.id

/-- NBCFG (R214, R217): the descriptor is read at acceptance as a load of the cord, and its faults are the load's. -/
def execNbcfg (a : Reg) (r : BitVec 1) (z : BitVec 3) (_l : BitVec 4) (s : State) : Result :=
  .next (outsideBody (fun s =>
    if nbFull s then wait 5 s
    else match nbBuild s .cfg z.toNat (r == 1) 128 a with
      | none => refuseCmd s
      | some c =>
        if pagePending s (thisCore s) s.cord.pasid (c.desc.toNat % 2 ^ 57 / 4096) then wait 5 s
        else match forkReady s.cord.id s.cord.stand s.nextId z.toNat s with
        | (none, s) => wait 5 s
        | (some s, _) =>
          let id := acceptId s
          let (g, s) := engRead { id := id, cluster := thisCluster s, pasid := s.cord.pasid, scope := z.toNat, stand := s.cord.stand } c.desc 128 s
          match g with
          | .later => wait 5 s
          | .fault code =>
            let s := forgetEng id s
            raise { scalarFault s (code % 256) .reissue with addr := c.desc, sub := code / 256, remote := fromFar (code % 256) (code / 256) } (advance s)
          | .ok v => let s := forgetEng id s; if gridOk (gridOf v) then nbAccept c s else refuseCmd s) s)

/-- NBIN (R214, R219). -/
def execNbin (a : Reg) (r : BitVec 1) (z : BitVec 3) (_l : BitVec 4) (s : State) : Result :=
  .next (nbIssue (fun s => nbBuild s .bin z.toNat (r == 1) 128 a) s)

/-- NCHK (R214, R220). -/
def execNchk (a : Reg) (r : BitVec 1) (z : BitVec 3) (_l : BitVec 4) (s : State) : Result :=
  .next (nbIssue (fun s => nbBuild s .chk z.toNat (r == 1) 128 a) s)

/-- The command of NPAIR (R215, R221). -/
def buildPair (full : Bool) (scope : Nat) (arrive : Bool) (a : Reg) (s : State) : Option NbCmd :=
  match nbRing s (blockReg s a 6) 2 with
  | none => none
  | some r => nbBuild s (.pair full (blockReg s a 4).toNat (blockReg s a 5).toNat r) scope arrive 128 a

/-- NPAIR.H (R214, R221). -/
def execNpairH (a : Reg) (r : BitVec 1) (z : BitVec 3) (_l : BitVec 4) (s : State) : Result := .next (nbIssue (buildPair false z.toNat (r == 1) a) s)
/-- NPAIR.F (R214, R221). -/
def execNpairF (a : Reg) (r : BitVec 1) (z : BitVec 3) (_l : BitVec 4) (s : State) : Result := .next (nbIssue (buildPair true z.toNat (r == 1) a) s)

/-- The command of CBIN (R215, R224): a handle of 0 names no ring. -/
def buildCbin (byLen : Bool) (scope : Nat) (arrive : Bool) (a : Reg) (s : State) : Option NbCmd :=
  let h := blockReg s a 4
  if h = 0 then nbBuild s (.cbin byLen none) scope arrive 64 a
  else match nbRing s h 3 with
    | none => none
    | some r => nbBuild s (.cbin byLen (some r)) scope arrive 64 a

/-- CBIN.K (R225, R311). -/
def execCbinK (a : Reg) (r : BitVec 1) (z : BitVec 3) (_l : BitVec 4) (s : State) : Result := .next (nbIssue (buildCbin false z.toNat (r == 1) a) s)
/-- CBIN.L (R225, R311). -/
def execCbinL (a : Reg) (r : BitVec 1) (z : BitVec 3) (_l : BitVec 4) (s : State) : Result := .next (nbIssue (buildCbin true z.toNat (r == 1) a) s)

/-- NBST (R216): the read comes back to s[sa+2] and s[sa+3]. -/
def execNbst (a : Reg) (z : BitVec 3) (l : BitVec 4) (s : State) : Result :=
  .next (outsideBody (fun s =>
    let desc := blockPair s a 0
    if nbFull s then wait 5 s
    else if desc.toNat % 128 ≠ 0 || !globalRange desc 128 then refuseCmd s
    else
      let acc : Access :=
        { stream := .scalar, pc := s.cord.frag.pc, isY := false, op := .nbst, scope := z.toNat, size := 8, signed := false
          dest := .spair s.cord.frag.bank (a + 2), la := l.toNat, lanes := [newLane 0 desc 0] }
      issue acc (countPath 5 (advance s))) s)

/-! ### Engine steps -/

/-- A neighbour-engine command as an engine command. -/
def nbEng (c : NbCmd) : Eng := { id := c.id, cluster := c.cord.core.cluster, pasid := c.pasid, scope := c.scope, stand := c.stand }

/-- n bytes from a global address; an address outside the global aperture faults (R94). -/
def nbRead (c : NbCmd) (a : DWord) (n : Nat) (s : State) : Got × State :=
  if globalRange a n then engRead (nbEng c) a n s else (.fault 5, s)
/-- n bytes to a global address. -/
def nbWrite (c : NbCmd) (a : DWord) (n v : Nat) (s : State) : Got × State :=
  if globalRange a n then engWrite (nbEng c) a n v s else (.fault 5, s)

/-- The state with a command of a quadrant changed; its marks belong to the piece of work that is done. -/
def nbSet (q : QuadId) (c : NbCmd) (s : State) : State := clearMarks c.id (setQuad s q (fun cs => modifyWhere (fun x => x.id == c.id) (fun _ => c) cs))

/-- The state without a command (R223). -/
def nbDrop (q : QuadId) (c : NbCmd) (s : State) : State := forgetEng c.id (setQuad s q (fun cs => cs.filter (fun x => x.id != c.id)))

/-- The state after a command has ended: its status block, then its arrival (R216, R226). -/
def nbEnd (q : QuadId) (c : NbCmd) (outcome code count first extra : Nat) (s : State) : State :=
  let word := 2 ^ 31 + code % 128 * 2 ^ 24 + outcome * 65536
  let v := word + 2 ^ 32 * (count % 2 ^ 32) + 2 ^ 64 * (first % 2 ^ 32) + 2 ^ 96 * (extra % 2 ^ 32)
  let s := (winWrite (nbEng c) c.status 0 16 v s).2
  let s := match c.barrier with
    | some w => if winReach s c.cord.core.cluster c.stand w.key then arriveAt (.win w.key w.off) 1 s else s
    | none => s
  nbDrop q c s

/-- The state after a command has ended in an access fault (R226); it keeps the pairs it has published. -/
def nbFault (q : QuadId) (c : NbCmd) (code : Nat) (s : State) : State := nbEnd q c 8 (code % 256) c.pairs 0 0 s

/-- A read that the rest of a step needs: the step stops until it has come, and a fault ends the command. -/
def nbThen (g : Got × State) (flt : Nat → State → State) (k : Nat → State → State) : State :=
  match g with
  | (.ok v, s) => k v s
  | (.later, s) => s
  | (.fault code, s) => flt code s

/-- Several writes in their order: those behind one that faults are not made, and the fault is answered once those before it have been performed (R138, R216). -/
def nbWrites (c : NbCmd) : List (DWord × Nat × Nat) → State → Got × State
  | [], s => (.ok 0, s)
  | (a, n, v) :: ws, s =>
    let (g, s) := nbWrite c a n v s
    match g with
    | .fault code => (.fault code, s)
    | _ =>
      let (r, s) := nbWrites c ws s
      (if g = .later then .later else r, s)

/-- Several reads of one size. -/
def nbReads (c : NbCmd) (n : Nat) : List DWord → State → Except Got (List Nat) × State
  | [], s => (.ok [], s)
  | a :: as, s =>
    let (g, s) := nbRead c a n s
    let (r, s) := nbReads c n as s
    match g, r with
    | .fault code, _ => (.error (.fault code), s)
    | .later, _ => (.error .later, s)
    | .ok v, .ok vs => (.ok (v :: vs), s)
    | .ok _, .error e => (.error e, s)

/-- An address a number of bytes on. -/
def plus (a : DWord) (n : Nat) : DWord := a + BitVec.ofNat 64 n

/-- Words of w bytes of a number. -/
def wordsIn (n w v : Nat) : List Nat := (List.range n).map (fun i => v / 2 ^ (8 * w * i) % 2 ^ (8 * w))
/-- Words of 4 bytes packed into a number. -/
def packNats (ws : List Nat) : Nat := ws.foldr (fun w a => w % 2 ^ 32 + 2 ^ 32 * a) 0

/-- The state after an engine has taken the command at the head of its queue as far as a step goes, if it is of the kind named and its fork lets it act
(R137, R216). A command whose ring's stand has ended stops (R223). -/
def nbStep (q : QuadId) (is : NbCmd → Bool) (k : NbCmd → State → State) (s : State) : State :=
  match quadOf s q with
  | [] => s
  | c :: _ =>
    if !is c then s
    else
      let ring := match c.op with
        | .pair _ _ _ r => some r
        | .cbin _ r => r
        | _ => none
      let gone := match ring with
        | some (cl, i) => (match ringAt (clusterOf s cl) i with
          | some r => r.ended
          | none => true)
        | none => false
      if gone then nbDrop q c s
      else match forkMay c.cord c.stand c.fork c.scope s with
        | (none, s) => s
        | (some s, _) => k c s

/-- The start of a command, which reads its descriptor again: a field that NBCFG would refuse ends it with RANGE (R217). The command goes on with the program fields that it has
checked. -/
def nbGrid (q : QuadId) (c : NbCmd) (k : NbCmd → Grid → State → State) (s : State) : State :=
  nbThen (nbRead c c.desc 128 s) (nbFault q c) (fun v s =>
    if gridOk (gridOf v) then k { c with desc0 := BitVec.ofNat 1024 v } (gridOf v) s else nbEnd q c 6 0 0 0 0 s)

/-- The program fields that a command which has started checked (R217). -/
def startGrid (c : NbCmd) : Grid := gridOf c.desc0.toNat

/-- The EPOCH, and the STATE above it, that a descriptor holds now. -/
def nbEpoch (c : NbCmd) (flt : Nat → State → State) (k : Word → Nat → State → State) (s : State) : State :=
  nbThen (nbRead c (plus c.desc 64) 8 s) flt (fun v s => k (BitVec.ofNat 32 v) (v / 2 ^ 32 % 256) s)

/-- The state after a command's last writes have been made, each once, and k; the values are decided when the first is made, so that no increment in between is lost. -/
def nbFinish (q : QuadId) (c : NbCmd) (ws : List (DWord × Nat × Nat)) (flt : Nat → State → State) (k : State → State) (s : State) : State :=
  nbThen (nbWrites c ws (setQuad s q (fun cs => modifyWhere (fun x => x.id == c.id) (fun _ => c) cs))) flt (fun _ s => k s)

/-- NBCFG_PERFORM (R217): STATE := 1, EPOCH := EPOCH + 2, MAXD2 := +0. -/
def execNbcfgPerform (q : QuadId) (s : State) : Result :=
  .next (nbStep q (fun c => c.op == .cfg) (fun c s =>
    let finish (c : NbCmd) (s : State) : State :=
      nbFinish q c [(plus c.desc 68, 1, 1), (plus c.desc 64, 4, c.epoch.toNat), (plus c.desc 72, 4, 0)] (nbFault q c) (nbEnd q c 0 0 0 0 0) s
    if c.phase = 0 then nbEpoch c (nbFault q c) (fun e _ s => finish { c with phase := 1, epoch := e + 2 } s) s
    else finish c s) s)

/-! ### NBIN (R219) -/

/-- The state with bytes of a command at a virtual address whose contents the manual does not define (R219). -/
def freeVirt (c : NbCmd) (va n : Nat) (s : State) : State := writeVirt (engDie (nbEng c)) c.pasid va n none none s

/-- The state after a fault has stopped an NBIN: STATE stays 1, EPOCH is made even, and then the command ends (R219). -/
def binStop (q : QuadId) (c : NbCmd) (code : Nat) (s : State) : State :=
  let finish (c : NbCmd) (s : State) : State := nbFinish q c [(plus c.desc 64, 4, c.epoch.toNat)] (fun _ => nbFault q c code) (nbFault q c code) s
  if c.phase = 7 then finish c s
  else nbEpoch c (fun _ => nbFault q c code) (fun e _ s => if e.getLsbD 0 then finish { c with phase := 7, epoch := e + 1 } s else nbFault q c code s) s

/-- The state after a fault has met an NBIN that had started: its next steps stop it, and the contents of its arrays are not defined (R219). -/
def binFault (q : QuadId) (c : NbCmd) (code : Nat) (s : State) : State :=
  let g := startGrid c
  nbSet q { c with stop := some code }
    (freeVirt c g.cstart.toNat (4 * (gridCells g + 1)) (freeVirt c g.sorted.toNat (4 * g.npart) (freeVirt c g.refpos.toNat (16 * g.npart) s)))

/-- The number of particles in cells below c. -/
def below (cs : List Nat) (c : Nat) : Nat := (cs.filter (fun x => x < c)).length

/-- The particle indices by cell, ascending within each (R219). -/
def sortedBy (cs : List Nat) : List Nat := (sortList (fun a b => decide (a.1 < b.1) || (a.1 == b.1 && decide (a.2 ≤ b.2))) ((List.range cs.length).map (fun i => (cs.getD i 0, i)))).map (fun p => p.2)

/-- The arrays that an NBIN writes (R219). -/
def binWrites (g : Grid) (ps : List Pos) : List (DWord × Nat × Nat) :=
  let cs := ps.map (cellOf g)
  let n := gridCells g + 1
  let ref := ps.flatMap (fun p => [p.1.toNat, p.2.1.toNat, p.2.2.toNat, 0])
  [(g.cstart, 4 * n, packNats ((List.range n).map (below cs))), (g.sorted, 4 * ps.length, packNats (sortedBy cs)), (g.refpos, 16 * ps.length, packNats ref)]

/-- The lowest particle with a coordinate that is not finite (R219). -/
def firstBad (ps : List Pos) : Nat := ((List.range ps.length).find? (fun i => !posFinite (ps.getD i (0, 0, 0)))).getD 0

/-- The end of an NBIN (R219): phase 5 ends with BADCOORD, phase 6 with the bins, each with the EPOCH then held plus 1. -/
def binEnd (q : QuadId) (c : NbCmd) (s : State) : State :=
  let wr (off n v : Nat) : DWord × Nat × Nat := (plus c.desc off, n, v)
  if c.phase = 5 then nbFinish q c [wr 64 4 c.epoch.toNat] (binFault q c) (nbEnd q c 4 0 0 (firstBad c.parts) 0) s
  else nbFinish q c [wr 72 4 0, wr 68 1 2, wr 64 4 c.epoch.toNat] (binFault q c) (nbEnd q c 0 0 c.parts.length 0 (gridCells (startGrid c))) s

/-- NBIN_RUN (R219): the start, one particle at a time, the arrays, and the end. -/
def execNbinRun (q : QuadId) (s : State) : Result :=
  .next (nbStep q (fun c => c.op == .bin) (fun c s =>
    let g := startGrid c
    let begun (c : NbCmd) (s : State) : State :=
      nbFinish q c [(plus c.desc 64, 4, c.epoch.toNat), (plus c.desc 68, 1, 1)] (binFault q c) (nbSet q { c with phase := 2 }) s
    match c.stop with
    | some code => binStop q c code s
    | none =>
      if c.phase = 0 then nbGrid q c (fun c g s => if g.st = 0 then nbEnd q c 3 0 0 0 0 s else begun { c with phase := 1, epoch := g.epoch + 1 } s) s
      else if c.phase = 1 then begun c s
      else if c.phase = 2 then
        (if g.npart ≤ c.next then nbSet q { c with phase := if c.parts.all posFinite then 3 else 4 } s
         else nbThen (nbRead c (plus g.part (16 * c.next)) 16 s) (binFault q c) (fun v s => nbSet q { c with next := c.next + 1, parts := c.parts ++ [posOf v] } s))
      else if c.phase = 3 then nbThen (nbWrites c (binWrites g c.parts) s) (binFault q c) (fun _ s => nbSet q { c with phase := 8 } s)
      else if c.phase = 4 ∨ c.phase = 8 then nbEpoch c (binFault q c) (fun e _ s => binEnd q { c with phase := if c.phase = 4 then 5 else 6, epoch := e + 1 } s) s
      else binEnd q c s) s)

/-! ### NCHK (R220) -/

/-- The end of an NCHK (R220): phase 2 leaves STATE and EPOCH, phase 3 ends STALE and leaves them, phase 4 marks the grid stale. -/
def chkEnd (q : QuadId) (c : NbCmd) (s : State) : State :=
  let maxd := (roundF32 c.far).toNat
  let mark : List (DWord × Nat × Nat) := if c.phase = 4 then [(plus c.desc 68, 1, 3), (plus c.desc 64, 4, c.epoch.toNat)] else []
  nbFinish q c ((plus c.desc 72, 4, maxd) :: mark) (nbFault q c) (nbEnd q c (if c.phase = 2 then 0 else 1) 0 0 0 maxd) s

/-- NCHK_RUN (R220): the start, one particle at a time, and the end. -/
def execNchkRun (q : QuadId) (s : State) : Result :=
  .next (nbStep q (fun c => c.op == .chk) (fun c s =>
    let g := startGrid c
    if c.phase = 0 then nbGrid q c (fun c g s => if g.st < 2 then nbEnd q c 3 0 0 0 0 s else nbSet q { c with phase := 1 } s) s
    else if 2 ≤ c.phase then chkEnd q c s
    else if c.next < g.npart then
      match nbReads c 16 [plus g.refpos (16 * c.next), plus g.part (16 * c.next)] s with
      | (.ok [r, p], s) =>
        let m := exactSquare g (posOf r) (posOf p)
        nbSet q { c with next := c.next + 1, far := if c.far.lt m then m else c.far } s
      | (.error (.fault code), s) => nbFault q c code s
      | (_, s) => s
    else nbEpoch c (nbFault q c) (fun e st s =>
      let moved := (unitsVal (-298) (fix g.skin * fix g.skin)).lt (mulVals c.far (.ofInt 4)).1
      chkEnd q { c with phase := if st = 3 then 3 else if moved then 4 else 2, epoch := e + 2 } s) s) s)

/-! ### NPAIR (R221) -/

/-- NPAIR_RUN (R221): the checks before the first group. -/
def execNpairRun (q : QuadId) (s : State) : Result :=
  .next (nbStep q (fun c => match c.op with
      | .pair _ _ _ _ => decide (c.phase = 0)
      | _ => false) (fun c s =>
    match c.op with
    | .pair _ first count _ => nbGrid q c (fun c g s =>
        if g.st = 3 then nbEnd q c 1 0 0 0 0 s
        else if g.st < 2 then nbEnd q c 3 0 0 0 0 s
        else if g.epoch.getLsbD 0 then nbEnd q c 5 0 0 0 0 s
        else if count = 0 ∨ 16777216 < count ∨ g.npart < first + count then nbEnd q c 6 0 0 0 0 s
        else nbSet q { c with phase := 1, epoch := g.epoch, next := first } s) s
    | _ => s) s)

/-- The particles listed in a cell (R221). -/
def listed (npart : Nat) (cstart sorted : List Nat) (c : Nat) : List Nat :=
  let lo := cstart.getD c 0
  let hi := min (cstart.getD (c + 1) 0) npart
  ((sorted.drop lo).take (hi - lo)).filter (fun j => j < npart)

/-- The cells around a cell (R221): offsets wrap on a periodic axis and leave the grid on another. -/
def around (g : Grid) (c : Nat) : List Nat :=
  let axis (per : Bool) (n x : Nat) : List Nat :=
    (List.range 3).filterMap (fun o => if per then some ((x + n + o - 1) % n) else if x + o = 0 ∨ n < x + o then none else some (x + o - 1))
  let xs := axis (g.flags.testBit 0) g.nx (c % g.nx)
  let ys := axis (g.flags.testBit 1) g.ny (c / g.nx % g.ny)
  let zs := axis (g.flags.testBit 2) g.nz (c / (g.nx * g.ny))
  zs.flatMap (fun z => ys.flatMap (fun y => xs.map (fun x => x + g.nx * (y + g.ny * z))))

/-- The candidates of a particle, ascending (R221). -/
def candidates (g : Grid) (full : Bool) (cstart sorted : List Nat) (i : Nat) : List Nat :=
  match (List.range (gridCells g)).find? (fun c => (listed g.npart cstart sorted c).contains i) with
  | none => []
  | some c =>
    sortList (fun a b => decide (a ≤ b)) (((around g c).flatMap (listed g.npart cstart sorted)).eraseDups.filter (fun j => if full then j != i else decide (i < j)))

/-- A ring with records written from its TAIL on, unpublished (R109). -/
def writeRecords (rs : List Nat) (r : Ring) : Ring :=
  { r with recs := (rs.zipIdx).foldl (fun m x => memWrite m (16 * ((r.tail.toNat + x.2) % ringSize r)) 16 x.1) r.recs }

/-- The state with a group of records written into a ring and its TAIL advanced in one write (R109, R221). -/
def publishRecords (c : ClusterId) (i : BitVec 6) (rs : List Nat) (s : State) : State :=
  setRing c i (fun r => { writeRecords rs r with tail := r.tail + BitVec.ofNat 32 rs.length }) s

/-- The records that a ring has room for. -/
def ringRoom (s : State) (c : ClusterId) (i : BitVec 6) : Nat := match ringAt (clusterOf s c) i with
  | some r => ringSize r - ringCount r
  | none => 0
/-- The records that a ring holds when it is full. -/
def ringCap (s : State) (c : ClusterId) (i : BitVec 6) : Nat := match ringAt (clusterOf s c) i with
  | some r => ringSize r
  | none => 0

/-- The end of an NPAIR whose particles are all handled (R221). -/
def pairEnd (q : QuadId) (c : NbCmd) (s : State) : State :=
  if c.skipped = 0 then nbEnd q c 0 0 c.pairs 0 0 s else nbEnd q c 2 0 c.pairs c.firstSkip c.skipped s

/-- The records of a particle's group: its pairs and an end record, or one skip record when the group exceeds the ring's size (R221, R222). -/
def groupRecords (cap p : Nat) (rs : List Nat) : List Nat :=
  let n := rs.length / 2
  if cap < 2 * n + 1 then [record (BitVec.ofNat 32 p) (BitVec.ofNat 32 (2 * n + 1)) 0 (4 * 2 ^ 28)] else rs ++ [record (BitVec.ofNat 32 p) (BitVec.ofNat 32 n) 0 (3 * 2 ^ 28)]

/-- Whether a group's only record is a skip record (R222). -/
def skipRecords (out : List Nat) : Bool := match out with
  | [r] => decide (r / 2 ^ 124 = 4)
  | _ => false

/-- The state after the records of a particle's group have been written from TAIL on, once the ring has room for them (R221). -/
def pairGroup (q : QuadId) (c : NbCmd) (cl : ClusterId) (i : BitVec 6) (out : List Nat) (s : State) : State :=
  if ringRoom s cl i < out.length then s else nbSet q { c with phase := 2, recs := out } (setRing cl i (writeRecords out) s)

/-- The state after EPOCH has been read again for a group whose records are written: TAIL advances over it, or it is withheld and the command ends with RACE (R221). -/
def pairPublish (q : QuadId) (c : NbCmd) (cl : ClusterId) (i : BitVec 6) (e : Word) (s : State) : State :=
  if e ≠ c.epoch then nbEnd q c 5 0 c.pairs c.next 0 s
  else
    let on := { c with phase := 1, next := c.next + 1, recs := [] }
    nbSet q (if skipRecords c.recs then { on with skipped := c.skipped + 1, firstSkip := if c.skipped = 0 then c.next else c.firstSkip }
             else { on with pairs := c.pairs + c.recs.length / 2 }) (publishRecords cl i c.recs s)

/-- GROUP_PUBLISH (R221): the next particle's group is written, or the written one is published once EPOCH has been read again; after the last the command ends. -/
def execGroupPublish (q : QuadId) (s : State) : Result :=
  .next (nbStep q (fun c => match c.op with
      | .pair _ _ _ _ => decide (1 ≤ c.phase)
      | _ => false) (fun c s =>
    match c.op with
    | .pair full first count (cl, i) =>
      let g := startGrid c
      if c.phase = 2 then nbEpoch c (nbFault q c) (fun e _ s => pairPublish q c cl i e s) s
      else if first + count ≤ c.next then pairEnd q c s
      else
        nbThen (nbRead c g.cstart (4 * (gridCells g + 1)) s) (nbFault q c) (fun cs s =>
          nbThen (nbRead c g.sorted (4 * g.npart) s) (nbFault q c) (fun ss s =>
            let js := candidates g full (wordsIn (gridCells g + 1) 4 cs) (wordsIn g.npart 4 ss) c.next
            match nbReads c 16 ((c.next :: js).map (fun j => plus g.part (16 * j))) s with
            | (.ok (pi :: ps), s) =>
              let rs := (js.zip ps).flatMap (fun x => (pairRecords g c.next x.1 (posOf pi) (posOf x.2)).getD [])
              pairGroup q c cl i (groupRecords (ringCap s cl i) c.next rs) s
            | (.error (.fault code), s) => nbFault q c code s
            | (_, s) => s))
    | _ => s) s)

/-! ### CBIN (R224, R225) -/

/-- A binning descriptor's fields (R224). -/
structure BinDesc where
  n : Nat
  nclass : Nat
  inp : DWord
  offs : DWord
  perm : DWord
  zero : Bool
  deriving DecidableEq, Repr

/-- The descriptor whose 64 bytes are a number. -/
def binDesc (v : Nat) : BinDesc :=
  let d (o : Nat) : DWord := BitVec.ofNat 64 (v / 2 ^ (8 * o))
  { n := slotField v 0 4, nclass := slotField v 4 4, inp := d 8, offs := d 16, perm := d 24, zero := slotField v 32 32 == 0 }

/-- The classes that a pass uses (R224). -/
def classCount (byLen : Bool) (d : BinDesc) : Nat := if byLen then 33 else d.nclass

/-- Whether every field of a binning descriptor is in range (R224). -/
def binOk (byLen : Bool) (d : BinDesc) : Bool :=
  decide (1 ≤ d.n) && decide (d.n ≤ 16777216) && (if byLen then d.nclass == 0 else decide (1 ≤ d.nclass) && decide (d.nclass ≤ 4095)) &&
    d.inp.toNat % 4 == 0 && d.offs.toNat % 4 == 0 && d.perm.toNat % 4 == 0 && d.zero

/-- The class of an item from its key, or from its two row pointers (R225). -/
def classOf (byLen : Bool) (classes v : Nat) : Option Nat :=
  if byLen then
    let lo := v % 2 ^ 32
    let hi := v / 2 ^ 32
    if hi < lo then none else if hi - lo ≤ 1 then some 0 else some (Nat.log2 (hi - lo - 1) + 1)
  else if v < classes then some v else none

/-- The items of a class. -/
def itemsIn (cs : List (Option Nat)) (x : Option Nat) : List Nat := (List.range cs.length).filter (fun r => cs.getD r none == x)

/-- The class offsets (R225). -/
def classOffs (cs : List (Option Nat)) (k : Nat) : List Nat :=
  (List.range (k + 1)).map (fun c => (cs.filter (fun x => match x with
    | some y => decide (y < c)
    | none => false)).length)

/-- The state after a pass whose items are classed has published its group and ended (R225, R226). -/
def cbinEnd (q : QuadId) (c : NbCmd) (ring : Option (ClusterId × BitVec 6)) (k : Nat) (s : State) : State :=
  let offs := classOffs c.classes k
  let full := (List.range k).filter (fun x => c.classes.contains (some x))
  let rest := itemsIn c.classes none
  let outcome := if rest.isEmpty then 0 else 7
  let done (outcome : Nat) (s : State) : State := nbEnd q c outcome 0 full.length (rest.headD 0) rest.length s
  match ring with
  | none => done outcome s
  | some (cl, i) =>
    let rs := full.map (fun x => record (BitVec.ofNat 32 x) (BitVec.ofNat 32 (offs.getD x 0)) (BitVec.ofNat 32 (offs.getD (x + 1) 0 - offs.getD x 0)) (5 * 2 ^ 28))
    let out := rs ++ [record (BitVec.ofNat 32 k) (BitVec.ofNat 32 full.length) 0 (3 * 2 ^ 28)]
    if ringCap s cl i < out.length then done 2 s
    else if ringRoom s cl i < out.length then s
    else done outcome (publishRecords cl i out s)

/-- CBIN_RUN (R225): one item at a time, the arrays, and the group. -/
def execCbinRun (q : QuadId) (s : State) : Result :=
  .next (nbStep q (fun c => match c.op with
      | .cbin _ _ => true
      | _ => false) (fun c s =>
    match c.op with
    | .cbin byLen ring =>
      let d := binDesc c.desc0.toNat
      let k := classCount byLen d
      if c.phase = 0 then nbThen (nbRead c c.desc 64 s) (nbFault q c) (fun v s =>
        if binOk byLen (binDesc v) then nbSet q { c with phase := 1, desc0 := BitVec.ofNat 1024 v } s else nbEnd q c 6 0 0 0 0 s)
      else if c.phase = 1 then
        (if d.n ≤ c.next then nbSet q { c with phase := 2 } s
         else nbThen (nbRead c (plus d.inp (4 * c.next)) (if byLen then 8 else 4) s) (nbFault q c) (fun x s =>
           nbSet q { c with next := c.next + 1, classes := c.classes ++ [classOf byLen k x] } s))
      else if c.phase = 2 then
        let order := (List.range k).flatMap (fun x => itemsIn c.classes (some x)) ++ itemsIn c.classes none
        nbThen (nbWrites c [(d.offs, 4 * (k + 1), packNats (classOffs c.classes k)), (d.perm, 4 * c.classes.length, packNats order)] s) (nbFault q c)
          (fun _ s => nbSet q { c with phase := 3 } s)
      else cbinEnd q c ring k s
    | _ => s) s)

/-! ### NBST (R216) -/

/-- The state with a value for an access of a cord: its lanes are performed. -/
def answerFlight (cid : CordId) (id : Nat) (v : DWord) (s : State) : State :=
  let put := fun (f : Flight) => if f.id = id then { f with lanes := f.lanes.map (fun l => l.become (.done v)) } else f
  mapCords (fun c => if c.id = cid then { c with flights := c.flights.map put } else c) s

/-- NBST_READ (R216): STATE and MAXD2, once every earlier command has ended. A read that faults gives values the manual does not state (log entry 5). -/
def execNbstRead (q : QuadId) (s : State) : Result :=
  .next (nbStep q (fun c => c.op == .st) (fun c s =>
    match nbRead c c.desc 128 s with
    | (.ok v, s) => answerFlight c.cord c.id (BitVec.ofNat 64 (slotField v 68 1 + 2 ^ 32 * slotField v 72 4)) (nbDrop q c s)
    | (.later, s) => s
    | (.fault _, s) =>
      let v : DWord := Config.freeWord (s.tick + 1) ++ Config.freeWord s.tick
      answerFlight c.cord c.id v (nbDrop q c { s with tick := s.tick + 2 })) s)

end Sys2Proof.Machine
end

