-- ==== Sys2Proof/Machine/Observe.lean ====
section
/-! DEFINITION. Power, errors, and observation: clocks, parking, retention, fibre groups, the PC sampler, the event ring, watchpoints and the stop dump
(05 R118; 12 R265 to R270). -/

namespace Sys2Proof.Machine

/-! ### Power (R265) -/

/-- POWER CLOCK (R265): the change is commanded. -/
def execPowerClock (c : AdminCmd) (s : State) : Result :=
  let v := cmdField c 12 4
  .next (adminNow 0x0C [(8, 1), (9, 1), (12, 4)] (cmdField c 8 1 == 0 && decide (cmdField c 9 1 ≤ 3) && decide (8 ≤ v) && decide (v ≤ 17)) c (fun s =>
    setDie s (BitVec.ofNat 2 (cmdField c 9 1)) (fun d => { d with clockNext := some v })) s)

/-- CLOCK_CHANGE_COMPLETE (R265). -/
def execClockChangeComplete (d : DieId) (s : State) : Result :=
  .next (match (dieOf s d).clockNext with
    | none => s
    | some v => setDie s d (fun x => { x with clock10 := v, clockNext := none }))

/-- The partitions of a cluster that the low 16 bits of a mask name: bit 4c + p for partition p of core c. -/
def maskParts (k : ClusterId) (m : Nat) : List PartId := ((List.range 16).filter (fun i => m.testBit i)).map (fun i => k ++ BitVec.ofNat 4 i)

/-- POWER PARK (R265): a park completes when the resident cords have ended; an unpark is immediate. -/
def execPowerPark (c : AdminCmd) (s : State) : Result :=
  let v := cmdField c 12 4
  let park := v.testBit 16
  .next (adminNow 0x0C [(8, 1), (9, 1), (10, 1), (12, 4)]
    (cmdField c 8 1 == 1 && decide (cmdField c 9 1 ≤ 3) && decide (cmdField c 10 1 ≤ 15) && decide (v < 2 ^ 17)) c (fun s =>
      (maskParts (cmdCluster c 9) v).foldl (fun s p => setPart s p (fun x => { x with parking := park, parked := x.parked && park })) s) s)

/-- Whether a partition has cords that have not ended: resident ones, and those streamed out that come back to it (R63). -/
def partBusy (s : State) (p : PartId) : Bool :=
  let here := fun (c : Cord) => c.id.part == p && !c.id.handler
  (allCords s).any here || (coreOf s p.core).saved.any (fun v => v.cords.any here)

/-- PARK_COMPLETE (R265). -/
def execParkComplete (p : PartId) (s : State) : Result :=
  .next (if (partOf s p).parking && !(partOf s p).parked && !partBusy s p then setPart s p (fun x => { x with parked := true }) else s)

/-- POWER RETAIN (R118, R265). -/
def execPowerRetain (c : AdminCmd) (s : State) : Result :=
  let k := cmdField c 12 4
  .next (adminNow 0x0C [(8, 1), (12, 4)] (cmdField c 8 1 == 2 && (k == 0 || (decide (8 ≤ k) && decide (k ≤ 24)))) c (fun s =>
    { s with mgmt := { s.mgmt with retain := k } }) s)

/-- Whether an access has touched a bank within the retention threshold (R118): a line of it was accessed at its slice fewer clocks ago. -/
def bankTouched (s : State) (b : SliceBank) : Bool :=
  s.mgmt.touched.any (fun x => bankAt s x.1 == some b && decide ((s.mgmt.sliceClocks.getD b.die 0 - x.2).toNat < 2 ^ s.mgmt.retain))

/-- BANK_RETENTION_DROP (R118): a bank that no access has touched for the threshold keeps its contents at retention voltage; its next access wakes it. -/
def execBankRetentionDrop (b : SliceBank) (s : State) : Result :=
  let exists_ := decide (b.die ≤ 4) && decide (b.slice < if b.die = 4 then 32 else 48) && decide (b.bank < 8)
  .next (if s.mgmt.retain = 0 || !exists_ || s.mgmt.drowsy.contains b || bankTouched s b || (s.mgmt.sliceClocks.getD b.die 0).toNat < 2 ^ s.mgmt.retain then s else { s with mgmt := { s.mgmt with drowsy := s.mgmt.drowsy ++ [b] } })

/-- POWER SLEEP (R265): a group that is asleep and no longer named wakes. -/
def execPowerSleep (c : AdminCmd) (s : State) : Result :=
  let v := cmdField c 12 4
  .next (adminNow 0x0C [(8, 1), (12, 4)] (cmdField c 8 1 == 3 && decide (v < 256)) c (fun s =>
    let m : BitVec 8 := BitVec.ofNat 8 v
    { s with mgmt := { s.mgmt with sleepAsked := m, waking := s.mgmt.asleep &&& ~~~m } }) s)

/-- Whether a port is a fibre of a group (R245). -/
def groupPort (g : BitVec 3) : Port → Bool
  | .fibre w => w.toNat / 12 == g.toNat
  | .link _ => false

/-- FIBRE_GROUP_ASLEEP (R265): the unacknowledged flits of the group have been acknowledged. -/
def execFibreGroupAsleep (g : BitVec 3) (s : State) : Result :=
  let clear := s.fabric.peers.all (fun p => p.sent.all (fun y => !groupPort g y.port))
  let bitG : BitVec 8 := 1 <<< g.toNat
  .next (if s.mgmt.sleepAsked.getLsbD g.toNat && !s.mgmt.asleep.getLsbD g.toNat && clear then
      setFabric (fun f => { f with openers := f.openers.filter (fun o => o.1 / 12 != g.toNat) }) { s with mgmt := { s.mgmt with asleep := s.mgmt.asleep ||| bitG } }
    else s)

/-- FIBRE_GROUP_WAKE (R265). -/
def execFibreGroupWake (g : BitVec 3) (s : State) : Result :=
  let bitG : BitVec 8 := 1 <<< g.toNat
  .next (if s.mgmt.waking.getLsbD g.toNat then
      { s with mgmt := { s.mgmt with asleep := s.mgmt.asleep &&& ~~~bitG, waking := s.mgmt.waking &&& ~~~bitG } }
    else s)

/-- TEMPERATURE_CURRENT_LIMIT (R265): an error event with its source and detail. -/
def execTemperatureCurrentLimit (source detail : Nat) (s : State) : Result := .next (eventRecord (.error source detail) (journalEntry 4 0 source detail s))

/-! ### Error counters (R266) -/

/-- ERROR_THRESHOLD_REACHED (R266): once for each time a class reaches its threshold. -/
def execErrorThresholdReached (cls : ErrClass) (s : State) : Result :=
  .next (match s.mgmt.errors.find? (fun e => e.cls == cls) with
    | none => s
    | some e =>
      if e.raised || !e.threshold.any (fun t => decide (t ≤ e.count)) then s
      else
        let s := { s with mgmt := { s.mgmt with errors := modifyWhere (fun e => e.cls == cls) (fun e => { e with raised := true }) s.mgmt.errors } }
        let s := errorEvent s
        match e.vector with
        | some v => raiseMsix v s
        | none => s)

/-! ### The PC sampler and the event ring (R267, R268) -/

/-- OBSERVE sampler (R268): a K of 0 stops it. -/
def execObserveSampler (c : AdminCmd) (s : State) : Result :=
  let k := cmdField c 12 4
  let a := cmdField c 16 8
  let n := cmdField c 24 1
  .next (adminNow 0x0D [(8, 1), (12, 4), (16, 8), (24, 1)]
    (cmdField c 8 1 == 0 && (k == 0 || (decide (8 ≤ k) && decide (k ≤ 24) && a % 32 == 0 && physOk a && decide (6 ≤ n) && decide (n ≤ 20)))) c (fun s =>
      { s with mgmt := { s.mgmt with sampler := if k = 0 then none else some (k, { base := a, log2 := n }), sampleIndex := 0 } }) s)

/-- The stall code of a fragment of a cord (R267); none when it does not stall. A path overflow is held as 16 above its code, since it is no wait instruction (R269). -/
def stallOf (c : Cord) (f : Fragment) : Option Nat :=
  if c.mode != .running || !runsNow c f then some 13
  else match f.status with
    | .waiting k => some (k % 16)
    | .atJoin | .serial => some 11
    | .running => none

/-- PC, slot and FLAGS of the sample of a partition's slot (R268); the stall code of a stream that does not stall is a free value. -/
def sampleOf (s : State) (p : PartId) (slot : Nat) : Word × Nat :=
  match (allCords s).find? (fun c => c.id.part == p && !c.id.handler && c.id.slot.toNat % 16 == slot) with
  | some c => if c.mode = .ended then (if c.exitSeen then (0, 3) else (c.exitPc, 2)) else
    let f := bank0Frag c
    let code := match stallOf c f with
      | some k => k
      | none => (Config.freeWord s.tick).toNat % 16
    (f.pc, (if code = 0 && (stallOf c f).isSome then 1 else 0) + 4 * code)
  | none => match (partOf s p).exits.find? (fun e => e.1 == slot) with
    | some e => (e.2, 2)
    | none => (0, 3)

/-- PC_SAMPLE (R268): the partition's next slot in rotation; a full ring drops the sample. -/
def execPcSample (p : PartId) (s : State) : Result :=
  .next (match s.mgmt.sampler with
    | none => s
    | some (_, r) =>
      let slot := (partOf s p).sampleSlot
      let (pc, flags) := sampleOf s p slot
      let v := pc.toNat + 2 ^ 32 * (slot + 16 * p.toNat) + 2 ^ 48 * flags + 2 ^ 64 * (coreOf s p.core).clock.toNat
      let seen := fun (c : Cord) => if c.id.part == p && !c.id.handler && c.id.slot.toNat % 16 == slot && c.mode == .ended then { c with exitSeen := true } else c
      let s := setPart (mapCords seen { s with tick := s.tick + 1 }) p (fun x => { x with sampleSlot := (slot + 1) % 16, exits := x.exits.filter (fun e => e.1 != slot) })
      if 2 ^ r.log2 ≤ s.mgmt.sampleIndex then { s with mgmt := { s.mgmt with sampleDropped := s.mgmt.sampleDropped + 1 } }
      else putMem (r.base + 16 * s.mgmt.sampleIndex) 16 v { s with mgmt := { s.mgmt with sampleIndex := s.mgmt.sampleIndex + 1 } })

/-- OBSERVE event ring (R262). -/
def execObserveEventRing (c : AdminCmd) (s : State) : Result :=
  let a := cmdField c 16 8
  let n := cmdField c 24 1
  .next (adminNow 0x0D [(8, 1), (16, 8), (24, 1)] (cmdField c 8 1 == 1 && a % 32 == 0 && physOk a && decide (6 ≤ n) && decide (n ≤ 20)) c (fun s =>
    { s with mgmt := { s.mgmt with events := some { base := a, log2 := n }, eventIndex := 0 } }) s)

/-- OBSERVE clear counters (R262). -/
def execObserveClearCounters (c : AdminCmd) (s : State) : Result :=
  let k := cmdField c 12 4
  .next (adminNow 0x0D [(8, 1), (12, 4)] (cmdField c 8 1 == 4 && decide (k < 8)) c (fun s =>
    let s := if k.testBit 0 then { s with parts := s.parts.map (fun p => { p with hist := Vector.replicate 17 0, stalls := Vector.replicate 16 0 }) } else s
    let s := if k.testBit 1 then { s with mgmt := { s.mgmt with errors := s.mgmt.errors.map (fun e => { e with count := 0, raised := false }) } } else s
    if k.testBit 2 then { s with mgmt := { s.mgmt with sampleDropped := 0 } } else s) s)

/-! ### Watchpoints (R270) -/

/-- Whether a slice has a free watchpoint. -/
def watchFree (s : State) (d slice : Nat) : Bool := decide ((s.mgmt.watches.filter (fun w => w.die == d && w.slice == slice)).length < 8)

/-- OBSERVE arm watchpoint (R270): at the line's owning slice. -/
def execObserveArmWatchpoint (c : AdminCmd) (s : State) : Result :=
  let a := cmdField c 16 8
  let home := sliceAt s a
  let w (d sl : Nat) : Watch := { line := a, die := d, slice := sl, mask := BitVec.ofNat 128 (cmdField c 32 16), kinds := BitVec.ofNat 3 (cmdField c 25 1) }
  .next (adminNow 0x0D [(8, 1), (16, 8), (25, 1), (32, 16)]
    (cmdField c 8 1 == 2 && a % 128 == 0 && physOk a && decide (cmdField c 25 1 < 8) && home.any (fun h => watchFree s h.1 h.2)) c (fun s =>
      match home with
      | some (d, sl) => { s with mgmt := { s.mgmt with watches := s.mgmt.watches ++ [w d sl] } }
      | none => s) s)

/-- OBSERVE disarm watchpoint (R270). -/
def execObserveDisarmWatchpoint (c : AdminCmd) (s : State) : Result :=
  let a := cmdField c 16 8
  .next (adminNow 0x0D [(8, 1), (16, 8)] (cmdField c 8 1 == 3 && a % 128 == 0 && s.mgmt.watches.any (fun w => w.line == a)) c (fun s =>
    { s with mgmt := { s.mgmt with watches := s.mgmt.watches.filter (fun w => w.line != a) } }) s)

/-- WATCH_EVENT_WRITE (R270): the oldest hit is written to the event ring; where its fields lie in the 32 bytes is not stated. -/
def execWatchEventWrite (s : State) : Result :=
  .next (match s.mgmt.hits with
    | [] => s
    | h :: rest => eventRecord (.watch h) { s with mgmt := { s.mgmt with hits := rest } })

/-! ### STOP (R269) -/

/-- The partition that STOP names. -/
def stopPart (c : AdminCmd) : PartId :=
  BitVec.ofNat 2 (cmdField c 8 1) ++ BitVec.ofNat 4 (cmdField c 9 1) ++ BitVec.ofNat 2 (cmdField c 10 1) ++ BitVec.ofNat 2 (cmdField c 11 1)

/-- Whether STOP names a partition. -/
def stopOk (c : AdminCmd) (action : Nat) : Bool :=
  decide (cmdField c 8 1 ≤ 3) && decide (cmdField c 9 1 ≤ 15) && decide (cmdField c 10 1 ≤ 3) && decide (cmdField c 11 1 ≤ 3) && cmdField c 12 1 == action

/-- The fragments of a cord in split-table order (R32). -/
def tableOrder (c : Cord) : List Fragment := sortList (fun a b => decide (a.id ≤ b.id)) (allFrags c)

/-- The 32 bytes of a fragment of a stop dump. -/
def fragEntry (f : Fragment) : Nat :=
  let lpc := match f.queue.head? with
    | some b => b.first + b.done
    | none => 0xFFFFFFFF
  let join := match f.arms.head? with
    | some a => a.join.toNat
    | none => 0
  let st := match f.status with
    | .serial => 1
    | .atJoin => 2
    | .waiting k => if 6 ≤ k && k ≤ 10 then 3 else 0
    | .running => 0
  f.pc.toNat + 2 ^ 32 * (lpc % 2 ^ 32) + 2 ^ 64 * f.mask.toNat + 2 ^ 160 * join + 2 ^ 192 * (f.arms.length % 256) + 2 ^ 200 * (if f.bank then 1 else 0) + 2 ^ 208 * st

/-- One scoreboard entry of a stop dump: register, class, bank, fragment index, producer stream, producer's PC. -/
def scoreEntry (reg cls bank frag stream : Nat) (pc : Word) : Nat :=
  reg % 256 + 2 ^ 8 * cls + 2 ^ 11 * bank + 2 ^ 12 * (frag % 8) + 2 ^ 15 * stream + 2 ^ 32 * pc.toNat

/-- The registers a flight is still to write: number, class and bank. -/
def pendingWrites (f : Flight) : List (Nat × Nat × Nat) :=
  if f.lanes.all (fun l => settled l || hasFailed l) then []
  else match f.dest with
    | .none => []
    | .sreg b r => [(r.toNat, 0, if b then 1 else 0)]
    | .spair b r => [(r.toNat, 0, if b then 1 else 0), (r.toNat + 1, 0, if b then 1 else 0)]
    | .vreg r => [(r.toNat, 1, 0)]
    | .vpair r => [(r.toNat, 1, 0), (r.toNat + 1, 1, 0)]

/-- Whether a matrix command writes its tile. -/
def writesTile (m : MatCmd) : Bool := match m.op with
  | .mmst _ _ _ => false
  | _ => true

/-- The scoreboard of a cord: the writes of its accesses, its CORDIC operations and its matrix commands. -/
def scoreboard (s : State) (p : PartId) (c : Cord) : List Nat :=
  let idx (id : Nat) : Nat := ((tableOrder c).findIdx? (fun f => f.id == id)).getD 0
  (c.flights.flatMap (fun f => (pendingWrites f).map (fun w => scoreEntry w.1 w.2.1 w.2.2 (idx f.frag) (if f.stream = .lane then 1 else 0) f.pc)) ++
    ((partOf s p).mq.filter (fun m => m.cord == c.id && m.stand == c.stand && writesTile m)).map (fun m => scoreEntry m.tile 3 0 (idx m.frag) 0 m.pc)).take 64

/-- Numbers packed at a stride of bytes, the first lowest. -/
def packAt (stride : Nat) (ns : List Nat) : Nat := ns.foldr (fun n a => n + 2 ^ (8 * stride) * a) 0

/-- The 1,024 bytes of a cord in a stop dump. -/
def stopRecord (s : State) (p : PartId) (c : Cord) : Nat :=
  let fs := (tableOrder c).take 8
  let score := scoreboard s p c
  c.id.slot.toNat % 16 + 2 ^ 8 * fs.length + 2 ^ 16 * c.queue.toNat + 2 ^ 32 * c.pasid.toNat + 2 ^ 64 * (c.seq % 2 ^ 64) + 2 ^ 128 * c.work.toNat +
    2 ^ 192 * (c.index % 2 ^ 32) + 2 ^ 224 * score.length + 2 ^ 256 * packAt 32 (fs.map fragEntry) + 2 ^ 2304 * packAt 8 score

/-- STOP (R269): every cord of the partition is frozen, and the dump is written. -/
def execStop (c : AdminCmd) (s : State) : Result :=
  let p := stopPart c
  let a := cmdField c 16 8
  .next (adminNow 0x0E [(8, 1), (9, 1), (10, 1), (11, 1), (12, 1), (16, 8), (24, 4)]
    (stopOk c 0 && a % 64 == 0 && physOk a && decide (16416 ≤ cmdField c 24 4)) c (fun s =>
      let s := setPart s p (fun x => { x with stopped := true })
      let cs := sortList (fun x y => decide (x.id.slot ≤ y.id.slot)) ((allCords s).filter (fun c => c.id.part == p && !c.id.handler))
      let head := 16 * p.toNat + 2 ^ 16 * cs.length + 2 ^ 64 * (coreOf s p.core).clock.toNat
      putMem a (32 + 1024 * cs.length) (head + 2 ^ 256 * packAt 1024 (cs.map (stopRecord s p))) s) s)

/-- STOP with ACTION 1 (R269): issue goes on, and stands of suspended queues that the stop kept are pre-empted now. -/
def execStopResume (c : AdminCmd) (s : State) : Result :=
  let p := stopPart c
  .next (adminNow 0x0E [(8, 1), (9, 1), (10, 1), (11, 1), (12, 1)] (stopOk c 1) c (fun s => preemptSuspended (setPart s p (fun x => { x with stopped := false }))) s)

end Sys2Proof.Machine
end

