-- ==== Sys2Proof/Machine/Dispatch.lean ====
section
/-! DEFINITION. What each instruction and event does: one arm per constructor of Instr. -/

namespace Sys2Proof.Machine

/-- The meaning of one step. -/
def exec (i : Instr) (s : State) : Host.Outcome State Fault Refusal :=
  match i with
  | .add d a b => Sys2Proof.Machine.execAdd d a b s
  | .addImm d a m => Sys2Proof.Machine.execAddImm d a m s
  | .sub d a b => Sys2Proof.Machine.execSub d a b s
  | .and d a b => Sys2Proof.Machine.execAnd d a b s
  | .andImm d a m => Sys2Proof.Machine.execAndImm d a m s
  | .or d a b => Sys2Proof.Machine.execOr d a b s
  | .orImm d a m => Sys2Proof.Machine.execOrImm d a m s
  | .xor d a b => Sys2Proof.Machine.execXor d a b s
  | .xorImm d a m => Sys2Proof.Machine.execXorImm d a m s
  | .shl d a b => Sys2Proof.Machine.execShl d a b s
  | .shlImm d a z => Sys2Proof.Machine.execShlImm d a z s
  | .shr d a b => Sys2Proof.Machine.execShr d a b s
  | .shrImm d a z => Sys2Proof.Machine.execShrImm d a z s
  | .sar d a b => Sys2Proof.Machine.execSar d a b s
  | .sarImm d a z => Sys2Proof.Machine.execSarImm d a z s
  | .min d a b => Sys2Proof.Machine.execMin d a b s
  | .max d a b => Sys2Proof.Machine.execMax d a b s
  | .minn d a b => Sys2Proof.Machine.execMinn d a b s
  | .maxn d a b => Sys2Proof.Machine.execMaxn d a b s
  | .slt d a b => Sys2Proof.Machine.execSlt d a b s
  | .sltImm d a m => Sys2Proof.Machine.execSltImm d a m s
  | .sltn d a b => Sys2Proof.Machine.execSltn d a b s
  | .sltnImm d a m => Sys2Proof.Machine.execSltnImm d a m s
  | .seq d a b => Sys2Proof.Machine.execSeq d a b s
  | .seqImm d a m => Sys2Proof.Machine.execSeqImm d a m s
  | .sel d a b => Sys2Proof.Machine.execSel d a b s
  | .mul d a b l => Sys2Proof.Machine.execMul d a b l s
  | .mulh d a b l => Sys2Proof.Machine.execMulh d a b l s
  | .mulhn d a b l => Sys2Proof.Machine.execMulhn d a b l s
  | .clz d a => Sys2Proof.Machine.execClz d a s
  | .popc d a => Sys2Proof.Machine.execPopc d a s
  | .dadd d a b => Sys2Proof.Machine.execDadd d a b s
  | .dsub d a b => Sys2Proof.Machine.execDsub d a b s
  | .bfx d a p n => Sys2Proof.Machine.execBfx d a p n s
  | .bfi d a p n => Sys2Proof.Machine.execBfi d a p n s
  | .li d m => Sys2Proof.Machine.execLi d m s
  | .lih d m => Sys2Proof.Machine.execLih d m s
  | .ldw d a o l => Sys2Proof.Machine.execLdw d a o l s
  | .ldd d a o l => Sys2Proof.Machine.execLdd d a o l s
  | .stw d a o l => Sys2Proof.Machine.execStw d a o l s
  | .std d a o l => Sys2Proof.Machine.execStd d a o l s
  | .stn d a o l => Sys2Proof.Machine.execStn d a o l s
  | .atomClu d a b f l => Sys2Proof.Machine.execAtomClu d a b f l s
  | .atomDie d a b f l => Sys2Proof.Machine.execAtomDie d a b f l s
  | .atomPkg d a b f l => Sys2Proof.Machine.execAtomPkg d a b f l s
  | .atomNode d a b f l => Sys2Proof.Machine.execAtomNode d a b f l s
  | .atomPod d a b f l => Sys2Proof.Machine.execAtomPod d a b f l s
  | .b d => Sys2Proof.Machine.execB d s
  | .call d => Sys2Proof.Machine.execCall d s
  | .bc a c d => Sys2Proof.Machine.execBc a c d s
  | .bd p n d j => Sys2Proof.Machine.execBd p n d j s
  | .bx a => Sys2Proof.Machine.execBx a s
  | .callr a => Sys2Proof.Machine.execCallr a s
  | .fenceAcq z => Sys2Proof.Machine.execFenceAcq z s
  | .fenceRel z => Sys2Proof.Machine.execFenceRel z s
  | .fenceFull z => Sys2Proof.Machine.execFenceFull z s
  | .bari a b => Sys2Proof.Machine.execBari a b s
  | .arv c a b => Sys2Proof.Machine.execArv c a b s
  | .waitb c a b => Sys2Proof.Machine.execWaitb c a b s
  | .wpath n b => Sys2Proof.Machine.execWpath n b s
  | .rngw d a b => Sys2Proof.Machine.execRngw d a b s
  | .lot d => Sys2Proof.Machine.execLot d s
  | .wlot a => Sys2Proof.Machine.execWlot a s
  | .mfs d r => Sys2Proof.Machine.execMfs d r s
  | .mts a r => Sys2Proof.Machine.execMts a r s
  | .lq a b => Sys2Proof.Machine.execLq a b s
  | .gjoin d a => Sys2Proof.Machine.execGjoin d a s
  | .gleave d => Sys2Proof.Machine.execGleave d s
  | .sndm a b => Sys2Proof.Machine.execSndm a b s
  | .pgmv c a b l => Sys2Proof.Machine.execPgmv c a b l s
  | .txb d a n => Sys2Proof.Machine.execTxb d a n s
  | .txbF d a n => Sys2Proof.Machine.execTxbF d a n s
  | .txa c => Sys2Proof.Machine.execTxa c s
  | .txst d => Sys2Proof.Machine.execTxst d s
  | .xrd d a b => Sys2Proof.Machine.execXrd d a b s
  | .xwr v a b => Sys2Proof.Machine.execXwr v a b s
  | .xres a b => Sys2Proof.Machine.execXres a b s
  | .mma a n x y k l => Sys2Proof.Machine.execMma a n x y k l s
  | .mmax a n x y l => Sys2Proof.Machine.execMmax a n x y l s
  | .mmlut a n x y k l => Sys2Proof.Machine.execMmlut a n x y k l s
  | .mmz n l => Sys2Proof.Machine.execMmz n l s
  | .mmld a n l => Sys2Proof.Machine.execMmld a n l s
  | .mmst a n f l => Sys2Proof.Machine.execMmst a n f l s
  | .mmstRelu a n f l => Sys2Proof.Machine.execMmstRelu a n f l s
  | .cpy a z l => Sys2Proof.Machine.execCpy a z l s
  | .lmtst a w l => Sys2Proof.Machine.execLmtst a w l s
  | .lmwt a w => Sys2Proof.Machine.execLmwt a w s
  | .lmclr a w => Sys2Proof.Machine.execLmclr a w s
  | .gth a z m l => Sys2Proof.Machine.execGth a z m l s
  | .sct a c z m l => Sys2Proof.Machine.execSct a c z m l s
  | .rdxt a z l => Sys2Proof.Machine.execRdxt a z l s
  | .rdxa a z l => Sys2Proof.Machine.execRdxa a z l s
  | .nbcfg a r z l => Sys2Proof.Machine.execNbcfg a r z l s
  | .nbin a r z l => Sys2Proof.Machine.execNbin a r z l s
  | .npairH a r z l => Sys2Proof.Machine.execNpairH a r z l s
  | .npairF a r z l => Sys2Proof.Machine.execNpairF a r z l s
  | .nchk a r z l => Sys2Proof.Machine.execNchk a r z l s
  | .nbst a z l => Sys2Proof.Machine.execNbst a z l s
  | .cbinK a r z l => Sys2Proof.Machine.execCbinK a r z l s
  | .cbinL a r z l => Sys2Proof.Machine.execCbinL a r z l s
  | .htxb m d => Sys2Proof.Machine.execHtxb m d s
  | .htxbF d => Sys2Proof.Machine.execHtxbF d s
  | .htxa c => Sys2Proof.Machine.execHtxa c s
  | .htxs d => Sys2Proof.Machine.execHtxs d s
  | .pairWord x y => Sys2Proof.Machine.execPairWord x y s
  | .vabs o => Sys2Proof.Machine.execVabs o s
  | .vadd o => Sys2Proof.Machine.execVadd o s
  | .vand o => Sys2Proof.Machine.execVand o s
  | .vclz o => Sys2Proof.Machine.execVclz o s
  | .vbfx o => Sys2Proof.Machine.execVbfx o s
  | .vcmp o => Sys2Proof.Machine.execVcmp o s
  | .vcmpn o => Sys2Proof.Machine.execVcmpn o s
  | .vfadd o => Sys2Proof.Machine.execVfadd o s
  | .vfsub o => Sys2Proof.Machine.execVfsub o s
  | .vfmul o => Sys2Proof.Machine.execVfmul o s
  | .vfma o => Sys2Proof.Machine.execVfma o s
  | .vhfma o => Sys2Proof.Machine.execVhfma o s
  | .vbfma o => Sys2Proof.Machine.execVbfma o s
  | .vfmin o => Sys2Proof.Machine.execVfmin o s
  | .vfmax o => Sys2Proof.Machine.execVfmax o s
  | .vfsgn o => Sys2Proof.Machine.execVfsgn o s
  | .vfcls o => Sys2Proof.Machine.execVfcls o s
  | .vfcmp o => Sys2Proof.Machine.execVfcmp o s
  | .vcvt o => Sys2Proof.Machine.execVcvt o s
  | .vcvts o => Sys2Proof.Machine.execVcvts o s
  | .vcrsc o => Sys2Proof.Machine.execVcrsc o s
  | .vcrat o => Sys2Proof.Machine.execVcrat o s
  | .vcrhy o => Sys2Proof.Machine.execVcrhy o s
  | .vcrex o => Sys2Proof.Machine.execVcrex o s
  | .vcrlg o => Sys2Proof.Machine.execVcrlg o s
  | .vcrsq o => Sys2Proof.Machine.execVcrsq o s
  | .vcrrs o => Sys2Proof.Machine.execVcrrs o s
  | .vcrdv o => Sys2Proof.Machine.execVcrdv o s
  | .vcrth o => Sys2Proof.Machine.execVcrth o s
  | .vld o => Sys2Proof.Machine.execVld o s
  | .vldc o => Sys2Proof.Machine.execVldc o s
  | .vldm o => Sys2Proof.Machine.execVldm o s
  | .vatom o => Sys2Proof.Machine.execVatom o s
  | .vatomNtf o => Sys2Proof.Machine.execVatomNtf o s
  | .vcas o => Sys2Proof.Machine.execVcas o s
  | .vbcst o => Sys2Proof.Machine.execVbcst o s
  | .vlane o => Sys2Proof.Machine.execVlane o s
  | .vmad o => Sys2Proof.Machine.execVmad o s
  | .vmul o => Sys2Proof.Machine.execVmul o s
  | .vmulh o => Sys2Proof.Machine.execVmulh o s
  | .vmulhn o => Sys2Proof.Machine.execVmulhn o s
  | .vsub o => Sys2Proof.Machine.execVsub o s
  | .vmin o => Sys2Proof.Machine.execVmin o s
  | .vmax o => Sys2Proof.Machine.execVmax o s
  | .vminn o => Sys2Proof.Machine.execVminn o s
  | .vmaxn o => Sys2Proof.Machine.execVmaxn o s
  | .vor o => Sys2Proof.Machine.execVor o s
  | .vxor o => Sys2Proof.Machine.execVxor o s
  | .vpopc o => Sys2Proof.Machine.execVpopc o s
  | .vshl o => Sys2Proof.Machine.execVshl o s
  | .vshr o => Sys2Proof.Machine.execVshr o s
  | .vsar o => Sys2Proof.Machine.execVsar o s
  | .vsel o => Sys2Proof.Machine.execVsel o s
  | .vmov o => Sys2Proof.Machine.execVmov o s
  | .vmovInd o => Sys2Proof.Machine.execVmovInd o s
  | .vmovs o => Sys2Proof.Machine.execVmovs o s
  | .vpack o => Sys2Proof.Machine.execVpack o s
  | .vunpk o => Sys2Proof.Machine.execVunpk o s
  | .vplog o => Sys2Proof.Machine.execVplog o s
  | .vpmovS o => Sys2Proof.Machine.execVpmovS o s
  | .vpmovP o => Sys2Proof.Machine.execVpmovP o s
  | .vrng o => Sys2Proof.Machine.execVrng o s
  | .vprf o => Sys2Proof.Machine.execVprf o s
  | .vst o => Sys2Proof.Machine.execVst o s
  | .vstc o => Sys2Proof.Machine.execVstc o s
  | .vstn o => Sys2Proof.Machine.execVstn o s
  | .vshfl o => Sys2Proof.Machine.execVshfl o s
  | .vrot o => Sys2Proof.Machine.execVrot o s
  | .vred o => Sys2Proof.Machine.execVred o s
  | .vscan o => Sys2Proof.Machine.execVscan o s
  | .vvote o => Sys2Proof.Machine.execVvote o s
  | .bankModeChangeComplete c bank => Sys2Proof.Machine.execBankModeChangeComplete c bank s
  | .launchRecordFetch q => Sys2Proof.Machine.execLaunchRecordFetch q s
  | .rotationStreak p => Sys2Proof.Machine.execRotationStreak p s
  | .quantumExpiry c => Sys2Proof.Machine.execQuantumExpiry c s
  | .idleSwitchCount c => Sys2Proof.Machine.execIdleSwitchCount c s
  | .contextSwitch c => Sys2Proof.Machine.execContextSwitch c s
  | .streamOut c pasid => Sys2Proof.Machine.execStreamOut c pasid s
  | .streamIn c pasid => Sys2Proof.Machine.execStreamIn c pasid s
  | .preemptedStandResume stand => Sys2Proof.Machine.execPreemptedStandResume stand s
  | .fusion c split => Sys2Proof.Machine.execFusion c split s
  | .serialArmStart c split => Sys2Proof.Machine.execSerialArmStart c split s
  | .cordEnd c => Sys2Proof.Machine.execCordEnd c s
  | .levelGroupComplete q seq level group => Sys2Proof.Machine.execLevelGroupComplete q seq level group s
  | .launchComplete q seq => Sys2Proof.Machine.execLaunchComplete q seq s
  | .completionRecordWrite q => Sys2Proof.Machine.execCompletionRecordWrite q s
  | .memoryReply c id ecc => Sys2Proof.Machine.execMemoryReply c id ecc s
  | .cordicBeatWrite p => Sys2Proof.Machine.execCordicBeatWrite p s
  | .trapDelivery c => Sys2Proof.Machine.execTrapDelivery c s
  | .supervisorRequest c => Sys2Proof.Machine.execSupervisorRequest c s
  | .walkFill d pasid page => Sys2Proof.Machine.execWalkFill d pasid page s
  | .inboundBufferAppend c => Sys2Proof.Machine.execInboundBufferAppend c s
  | .sndmRetry c id => Sys2Proof.Machine.execSndmRetry c id s
  | .matrixCommandStart p => Sys2Proof.Machine.execMatrixCommandStart p s
  | .matrixCommandEnd p => Sys2Proof.Machine.execMatrixCommandEnd p s
  | .copyChunkLanding c copy chunk => Sys2Proof.Machine.execCopyChunkLanding c copy chunk s
  | .gatherComplete d id => Sys2Proof.Machine.execGatherComplete d id s
  | .scatterComplete d id => Sys2Proof.Machine.execScatterComplete d id s
  | .reductionContribution d => Sys2Proof.Machine.execReductionContribution d s
  | .nbcfgPerform e => Sys2Proof.Machine.execNbcfgPerform e s
  | .nbinRun e => Sys2Proof.Machine.execNbinRun e s
  | .nchkRun e => Sys2Proof.Machine.execNchkRun e s
  | .npairRun e => Sys2Proof.Machine.execNpairRun e s
  | .groupPublish e => Sys2Proof.Machine.execGroupPublish e s
  | .cbinRun e => Sys2Proof.Machine.execCbinRun e s
  | .nbstRead e => Sys2Proof.Machine.execNbstRead e s
  | .stumpInstall gfn => Sys2Proof.Machine.execStumpInstall gfn s
  | .announcementDrained gfn => Sys2Proof.Machine.execAnnouncementDrained gfn s
  | .linkFailureLimit via => Sys2Proof.Machine.execLinkFailureLimit via s
  | .relayForward dst => Sys2Proof.Machine.execRelayForward dst s
  | .clockChangeComplete d => Sys2Proof.Machine.execClockChangeComplete d s
  | .parkComplete p => Sys2Proof.Machine.execParkComplete p s
  | .fibreGroupAsleep g => Sys2Proof.Machine.execFibreGroupAsleep g s
  | .fibreGroupWake g => Sys2Proof.Machine.execFibreGroupWake g s
  | .pcSample p => Sys2Proof.Machine.execPcSample p s
  | .errorThresholdReached cls => Sys2Proof.Machine.execErrorThresholdReached cls s
  | .illegalInstruction w => Sys2Proof.Machine.execIllegalInstruction w s
  | .ret => Sys2Proof.Machine.execRet s
  | .exit => Sys2Proof.Machine.execExit s
  | .nop => Sys2Proof.Machine.execNop s
  | .trap => Sys2Proof.Machine.execTrap s
  | .tret => Sys2Proof.Machine.execTret s
  | .txc => Sys2Proof.Machine.execTxc s
  | .htxc => Sys2Proof.Machine.execHtxc s
  | .cyclesLoRead d => Sys2Proof.Machine.execCyclesLoRead d s
  | .bankmodeWrite c v => Sys2Proof.Machine.execBankmodeWrite c v s
  | .bankstatWrite c v => Sys2Proof.Machine.execBankstatWrite c v s
  | .fdlrelWrite c v => Sys2Proof.Machine.execFdlrelWrite c v s
  | .ringHeadStore c ring h => Sys2Proof.Machine.execRingHeadStore c ring h s
  | .tailWrite q t => Sys2Proof.Machine.execTailWrite q t s
  | .cheadWrite q h => Sys2Proof.Machine.execCheadWrite q h s
  | .gangPlacement => Sys2Proof.Machine.execGangPlacement s
  | .pageResponseSuccess r => Sys2Proof.Machine.execPageResponseSuccess r s
  | .pageResponseInvalidRequest r => Sys2Proof.Machine.execPageResponseInvalidRequest r s
  | .pageResponseFailure r => Sys2Proof.Machine.execPageResponseFailure r s
  | .pageRequestTimeout r => Sys2Proof.Machine.execPageRequestTimeout r s
  | .invalidation pasid page => Sys2Proof.Machine.execInvalidation pasid page s
  | .fallbackLockTake => Sys2Proof.Machine.execFallbackLockTake s
  | .hostInterruptInBody h => Sys2Proof.Machine.execHostInterruptInBody h s
  | .migrationDequeue => Sys2Proof.Machine.execMigrationDequeue s
  | .flitReceive via bytes => Sys2Proof.Machine.execFlitReceive via bytes s
  | .dwellOpener fibre src => Sys2Proof.Machine.execDwellOpener fibre src s
  | .rotorSlot => Sys2Proof.Machine.execRotorSlot s
  | .resendTimeout peer via => Sys2Proof.Machine.execResendTimeout peer via s
  | .linkRetrainResult link ok => Sys2Proof.Machine.execLinkRetrainResult link ok s
  | .rd r => Sys2Proof.Machine.execRd r s
  | .wr r => Sys2Proof.Machine.execWr r s
  | .wrm r => Sys2Proof.Machine.execWrm r s
  | .atReq r => Sys2Proof.Machine.execAtReq r s
  | .nst r => Sys2Proof.Machine.execNst r s
  | .msg r => Sys2Proof.Machine.execMsg r s
  | .bwr r => Sys2Proof.Machine.execBwr r s
  | .brd r => Sys2Proof.Machine.execBrd r s
  | .reg r => Sys2Proof.Machine.execReg r s
  | .cohFetchShared r => Sys2Proof.Machine.execCohFetchShared r s
  | .cohFetchExclusive r => Sys2Proof.Machine.execCohFetchExclusive r s
  | .cohInvalidate r => Sys2Proof.Machine.execCohInvalidate r s
  | .cohRecall r => Sys2Proof.Machine.execCohRecall r s
  | .migReserve r => Sys2Proof.Machine.execMigReserve r s
  | .migRecordUpdate r => Sys2Proof.Machine.execMigRecordUpdate r s
  | .migAnnounce r => Sys2Proof.Machine.execMigAnnounce r s
  | .migAcknowledge r => Sys2Proof.Machine.execMigAcknowledge r s
  | .migReclaim r => Sys2Proof.Machine.execMigReclaim r s
  | .migOutcome r => Sys2Proof.Machine.execMigOutcome r s
  | .migRequest r => Sys2Proof.Machine.execMigRequest r s
  | .rdxTree r => Sys2Proof.Machine.execRdxTree r s
  | .rdxArrival r => Sys2Proof.Machine.execRdxArrival r s
  | .ack r => Sys2Proof.Machine.execAck r s
  | .data r => Sys2Proof.Machine.execData r s
  | .linkack peer seq => Sys2Proof.Machine.execLinkack peer seq s
  | .linknak peer seq => Sys2Proof.Machine.execLinknak peer seq s
  | .neg n => Sys2Proof.Machine.execNeg n s
  | .redir r => Sys2Proof.Machine.execRedir r s
  | .createq c => Sys2Proof.Machine.execCreateq c s
  | .destroyq c => Sys2Proof.Machine.execDestroyq c s
  | .suspendq c => Sys2Proof.Machine.execSuspendq c s
  | .resumeq c => Sys2Proof.Machine.execResumeq c s
  | .reserve c => Sys2Proof.Machine.execReserve c s
  | .loadhandler c => Sys2Proof.Machine.execLoadhandler c s
  | .setbanks c => Sys2Proof.Machine.execSetbanks c s
  | .setquantum c => Sys2Proof.Machine.execSetquantum c s
  | .pri c => Sys2Proof.Machine.execPri c s
  | .stripe c => Sys2Proof.Machine.execStripe c s
  | .migrate c => Sys2Proof.Machine.execMigrate c s
  | .powerClock c => Sys2Proof.Machine.execPowerClock c s
  | .powerPark c => Sys2Proof.Machine.execPowerPark c s
  | .powerRetain c => Sys2Proof.Machine.execPowerRetain c s
  | .powerSleep c => Sys2Proof.Machine.execPowerSleep c s
  | .observeSampler c => Sys2Proof.Machine.execObserveSampler c s
  | .observeEventRing c => Sys2Proof.Machine.execObserveEventRing c s
  | .observeArmWatchpoint c => Sys2Proof.Machine.execObserveArmWatchpoint c s
  | .observeDisarmWatchpoint c => Sys2Proof.Machine.execObserveDisarmWatchpoint c s
  | .observeClearCounters c => Sys2Proof.Machine.execObserveClearCounters c s
  | .stop c => Sys2Proof.Machine.execStop c s
  | .stopResume c => Sys2Proof.Machine.execStopResume c s
  | .journal c => Sys2Proof.Machine.execJournal c s
  | .bankRetentionDrop z => Sys2Proof.Machine.execBankRetentionDrop z s
  | .watchEventWrite => Sys2Proof.Machine.execWatchEventWrite s
  | .temperatureCurrentLimit source detail => Sys2Proof.Machine.execTemperatureCurrentLimit source detail s
  | .reset => Sys2Proof.Machine.execReset s
  | .firmwareImageLoad image => Sys2Proof.Machine.execFirmwareImageLoad image s
  | .mailboxExposedCounts x => Sys2Proof.Machine.execMailboxExposedCounts x s
  | .mailboxDeckSize units => Sys2Proof.Machine.execMailboxDeckSize units s
  | .mailboxAdminQueue a => Sys2Proof.Machine.execMailboxAdminQueue a s
  | .fabricJoin num members => Sys2Proof.Machine.execFabricJoin num members s
  | .clusterCacheEviction c line writeBack => Sys2Proof.Machine.execClusterCacheEviction c line writeBack s
  | .directoryEntryEviction line => Sys2Proof.Machine.execDirectoryEntryEviction line s
  | .partnerLineEviction line => Sys2Proof.Machine.execPartnerLineEviction line s
  | .hostCoreAccess a => Sys2Proof.Machine.execHostCoreAccess a s
  | .powerRemoval => Sys2Proof.Machine.execPowerRemoval s

end Sys2Proof.Machine
end

