-- ==== Sys2Proof/Machine/Turns.lean ====
section
/-! DEFINITION. What one turn does: an instruction fetched and executed, an event, a message, an admin command, or work that an agent goes on with. -/

namespace Sys2Proof.Machine

/-- The state that a meaning answers; every meaning of this model answers one. -/
def stateOf (s : State) (r : Result) : State := match r with
  | .next t => t
  | _ => s

/-- The state after a request of another package has arrived (R240). -/
def requestTurn (op : Nat) (r : Req) (s : State) : State :=
  match op, r.fn.toNat with
  | 0x01, _ => stateOf s (execRd r s)
  | 0x02, _ => stateOf s (execWr r s)
  | 0x03, _ => stateOf s (execWrm r s)
  | 0x04, _ => stateOf s (execAtReq r s)
  | 0x05, _ => stateOf s (execNst r s)
  | 0x06, _ => stateOf s (execMsg r s)
  | 0x07, _ => stateOf s (execBwr r s)
  | 0x08, _ => stateOf s (execBrd r s)
  | 0x09, _ => stateOf s (execReg r s)
  | 0x0A, 0 => stateOf s (execCohFetchShared r s)
  | 0x0A, 1 => stateOf s (execCohFetchExclusive r s)
  | 0x0A, 2 => stateOf s (execCohInvalidate r s)
  | 0x0A, _ => stateOf s (execCohRecall r s)
  | 0x0B, 0 => stateOf s (execMigReserve r s)
  | 0x0B, 1 => stateOf s (execMigRecordUpdate r s)
  | 0x0B, 2 => stateOf s (execMigAnnounce r s)
  | 0x0B, 3 => stateOf s (execMigAcknowledge r s)
  | 0x0B, 4 => stateOf s (execMigReclaim r s)
  | 0x0B, 5 => stateOf s (execMigOutcome r s)
  | 0x0B, _ => stateOf s (execMigRequest r s)
  | 0x0C, 0 => stateOf s (execRdxTree r s)
  | 0x0C, _ => stateOf s (execRdxArrival r s)
  | _, _ => s

/-- The state after a message has arrived (R237, R238). -/
def messageTurn (m : OutMsg) (s : State) : State :=
  match m with
  | .req op r => requestTurn op r s
  | .resp op r => if op = 0x20 then stateOf s (execAck r s) else stateOf s (execData r s)
  | .neg n => stateOf s (execNeg n s)
  | .redir r => stateOf s (execRedir r s)

/-- The state after a message of a flit has arrived from a package: one for another package waits in the relay deck (R246). -/
def heardTurn (p : PkgNo) (m : OutMsg) (s : State) : State :=
  match messageEnds m with
  | some (_, dst) => if dst = s.fabric.num then messageTurn m s else relayFrom p dst m s
  | none => messageTurn m s

/-- The state after an admin command has been performed, by its OP and its SETTING, FUNCTION or ACTION (R262). -/
def adminTurn (c : AdminCmd) (s : State) : State :=
  match cmdField c 0 2 with
  | 0x01 => stateOf s (execCreateq c s)
  | 0x02 => stateOf s (execDestroyq c s)
  | 0x03 => stateOf s (execSuspendq c s)
  | 0x04 => stateOf s (execResumeq c s)
  | 0x05 => stateOf s (execReserve c s)
  | 0x06 => stateOf s (execLoadhandler c s)
  | 0x07 => stateOf s (execSetbanks c s)
  | 0x08 => stateOf s (execSetquantum c s)
  | 0x09 => stateOf s (execPri c s)
  | 0x0A => stateOf s (execStripe c s)
  | 0x0B => stateOf s (execMigrate c s)
  | 0x0C => (match cmdField c 8 1 with
    | 0 => stateOf s (execPowerClock c s)
    | 1 => stateOf s (execPowerPark c s)
    | 2 => stateOf s (execPowerRetain c s)
    | 3 => stateOf s (execPowerSleep c s)
    | _ => adminInvalid c s)
  | 0x0D => (match cmdField c 8 1 with
    | 0 => stateOf s (execObserveSampler c s)
    | 1 => stateOf s (execObserveEventRing c s)
    | 2 => stateOf s (execObserveArmWatchpoint c s)
    | 3 => stateOf s (execObserveDisarmWatchpoint c s)
    | 4 => stateOf s (execObserveClearCounters c s)
    | _ => adminInvalid c s)
  | 0x0E => (match cmdField c 12 1 with
    | 0 => stateOf s (execStop c s)
    | 1 => stateOf s (execStopResume c s)
    | _ => adminInvalid c s)
  | 0x0F => stateOf s (execJournal c s)
  | _ => adminInvalid c s

/-- Whether the admin queue has a command to fetch (R258), once the steps of bring-up before the driver's are over (R271 step 6). -/
def adminReady (s : State) : Bool := match findQueue s 0 with
  | some q => s.mgmt.step == 6 && !q.errored && q.head != q.tail
  | none => false

/-- The state after the admin queue has gone on: the command under way, or the next one fetched; commands are performed one at a time (R262). -/
def adminGo (s : State) : State :=
  match s.mgmt.adminBusy, findQueue s 0 with
  | some _, _ => adminStep s
  | none, none => s
  | none, some q =>
    if !adminReady s then s
    else match engReadPhys (ringEng q) (q.ring + 64 * (q.head.toNat % 2 ^ q.q)) 64 s with
      | (.ok v, s) =>
        let s := setQueue 0 (fun x => { x with head := x.head + 1 }) (forgetEng (ringEng q).id s)
        { s with agenda := .admin (BitVec.ofNat 512 v) :: s.agenda }
      | (.later, s) => s
      | (.fault _, s) => forgetEng (ringEng q).id s

/-- The state after a turn that executes no instruction of the agenda's own. -/
def workTurn (t : Turn) (s : State) : State :=
  match t with
  | .message m => messageTurn m s
  | .heard p m => heardTurn p m s
  | .link p nak seq => if nak then stateOf s (execLinknak p seq s) else stateOf s (execLinkack p seq s)
  | .admin c => adminTurn c s
  | .hostAccess h => hostAgain h s
  | .replay k => replayAll k (coreOf s k).log.length (translateLog k s)
  | .invalidate d => pushInval d s
  | .move g => pushMove g s
  | .pending n => retryPending n s
  | .adminGo => adminGo s
  | .device id => devAgain id s
  | .evict c line wb => stateOf s (execClusterCacheEviction c line wb s)
  | .dirEvict line => stateOf s (execDirectoryEntryEviction line s)
  | .partnerEvict line => stateOf s (execPartnerLineEviction line s)
  | .retention b => stateOf s (execBankRetentionDrop b s)
  | .resend p => stateOf s (execResendTimeout p (partnerPort s.fabric p) s)
  | .transmit via => transmit via s
  | .train => trainPackage s
  | .ecc p corrected => eccTurn p corrected s
  | .threshold cls limit vector => setThreshold cls limit vector s
  | .scalar _ _ | .lane _ _ | .host _ _ | .event _ => s

/-- What a turn executes, or the state after it. -/
def front (t : Turn) (s : State) : Front :=
  match t with
  | .scalar c f => frontScalar c f s
  | .lane c f => frontLane c f s
  | .host h w => frontHost h w s
  | .event i => .run i s s
  | t => .rest (workTurn t s)

/-- The state after a turn's instruction has executed. -/
def back (t : Turn) (before after : State) : State :=
  match t with
  | .scalar _ _ => endScalar before after
  | .host h w => endHost h w after
  | _ => after

/-- One turn: its instruction is executed by exec. -/
def runTurn (t : Turn) (s : State) : Result :=
  match front t s with
  | .rest s' => .next s'
  | .run i before s' =>
    match exec i s' with
    | .next s'' => .next (back t before s'')
    | .fault f => .fault f
    | .refused r => .refused r

end Sys2Proof.Machine
end

