-- ==== Sys2Proof/Machine/Sched.lean ====
section
/-! DEFINITION. Which turns may come next, and the choice among them. R51 and R52 order the streams of one partition; the order of everything else is open and
a free value chooses (log entry 2). -/

namespace Sys2Proof.Machine

/-! ### Issue of one partition (R51 to R53) -/

/-- An eligible stream: its turn, its cord, whether its word is a scalar one, and the pipes its word needs. -/
structure Ready where
  turn : Turn
  cord : CordId
  scalar : Bool
  pipes : Nat × Nat
  deriving DecidableEq, Repr

/-- The instructions that wait after they have issued (R52: a stream that waits in one is not eligible, and its end takes no issue slot). -/
def waitsIssued : Instr → Bool
  | .fenceAcq _ | .fenceRel _ | .fenceFull _ | .bari _ _ | .arv _ _ _ | .waitb _ _ _ | .wpath _ _ | .rngw _ _ _ | .wlot _ | .lmwt _ _ | .xrd _ _ _ | .xwr _ _ _
  | .txb _ _ _ | .txbF _ _ _ | .txc | .lmtst _ _ _ | .lmclr _ _ => true
  | _ => false

/-- Whether the acting fragment waits in an instruction that has issued. -/
def inWait (i : Instr) (s : State) : Bool :=
  waitsIssued i && (match s.cord.frag.status with
    | .waiting k => !(([0, 1, 2, 3, 14, 25] : List Nat).contains k)
    | _ => false)

/-- A stream as an eligible one: its word is fetched and would issue now (R52); none when it would wait. -/
def readyOf (t : Turn) (c : CordId) (s : State) : Option Ready :=
  match front t s with
  | .rest _ => none
  | .run i before s' =>
    match t with
    | .lane _ _ => some { turn := t, cord := c, scalar := false, pipes := pipesOf i }
    | _ => if inWait i before || scalarWaits before (stateOf s' (exec i s')) then none else some { turn := t, cord := c, scalar := true, pipes := (0, 0) }

/-- The streams of a cord in the order of R52: the bank-0 arm before the other, the scalar stream before the lane stream. The enqueued lane words of a fragment that is stopped at
its join, or waits as a serialised arm, still issue. -/
def streamsOf (c : Cord) : List Turn :=
  (sortList (fun a b => !a.bank || b.bank) (allFrags c)).flatMap (fun f =>
    (if f.status == .atJoin || f.status == .serial then [] else [.scalar c.id f.id]) ++ (if f.queue.isEmpty then [] else [.lane c.id f.id]))

/-- Whether two eligible streams issue together on the pipes that are free (R52, R53). -/
def compatible (free : Nat × Nat) (a b : Ready) : Bool :=
  if a.scalar != b.scalar then true
  else !a.scalar && a.cord != b.cord && pipesFit (a.pipes.1 + b.pipes.1, a.pipes.2 + b.pipes.2) free

/-- The cords of a partition in issue order (R52). -/
def issueOrder (s : State) (p : PartId) : List Cord := rotated (partOf s p).rot (partitionRing s p)

/-- The streams of a partition in issue order. -/
def partStreams (s : State) (p : PartId) : List (CordId × Turn) :=
  (issueOrder s p).flatMap (fun c => (streamsOf c).map (fun t => (c.id, t)))

/-- The turns that a partition issues in one clock (R52): the first eligible stream and the next compatible one. -/
def issuePair (free : Nat × Nat) : List Ready → List Turn
  | [] => []
  | a :: rest => a.turn :: ((rest.find? (compatible free a)).map (fun b => b.turn)).toList

/-- What a partition may do in one clock: issue, and, one at a time, the streams that wait look again at what they wait for. -/
def partTurns (s : State) (ready : List Ready) (p : PartId) : List (List Turn) :=
  let waiting := (partStreams s p).filter (fun x => !ready.any (fun r => r.turn == x.2))
  (if ready.isEmpty then [] else [issuePair (freePipes s p) ready]) ++ waiting.map (fun x => [x.2])

/-- The eligible streams of a partition. -/
def partReady (s : State) (p : PartId) : List Ready := (partStreams s p).filterMap (fun x => readyOf x.2 x.1 s)

/-- The supervisor handlers that run, each by itself (R181). -/
def handlerTurns (s : State) : List (List Turn) :=
  ((allCords s).filter (fun c => c.id.handler && cordIssues s c)).flatMap (fun c => (streamsOf c).map (fun t => [t]))

/-- The streams of shadow contexts, each by itself: they fetch ahead, so that they may become eligible (R52, R59 case 4). -/
def shadowTurns (s : State) : List Turn :=
  ((allCords s).filter (shadowCord s)).flatMap streamsOf

/-! ### The agents (R6 to R15) -/

/-- One free index below a bound. -/
def pickBelow (t n : Nat) : Nat := if n = 0 then 0 else Config.pick t % n

/-- An event as a turn. -/
def ev (i : Instr) : Turn := .event i

/-- Whether a flight can go on, or has ended and is still to be taken note of. -/
def flightMoves (f : Flight) : Bool :=
  f.op != .cordic && (f.lanes.any (fun l => match l.st with
    | .todo | .half | .done _ | .missed _ => true
    | _ => false) || f.lanes.all (fun l => settled l || hasFailed l))

/-- The events of one cord: returns, retries, its trap, its joins, its end. -/
def cordTurns (c : Cord) : List Turn :=
  let splits := ((allFrags c).flatMap (fun f => f.arms.map (fun a => a.split))).eraseDups
  (c.flights.filter flightMoves).map (fun f => ev (.memoryReply c.id f.id .ok)) ++
    (c.flights.filter (fun f => f.op == .sndm && flightMoves f)).map (fun f => ev (.sndmRetry c.id f.id)) ++
    (if c.mode = .draining && drained c then [ev (.trapDelivery c.id)] else []) ++
    splits.flatMap (fun n => [ev (.fusion c.id n), ev (.serialArmStart c.id n)]) ++
    (if c.mode = .ended then [ev (.cordEnd c.id)] else [])

/-- The events of a partition's engines. -/
def engineTurns (s : State) (p : PartId) : List Turn :=
  (if (partOf s p).cordic.isEmpty then [] else [ev (.cordicBeatWrite p)]) ++
    (if (partOf s p).mq.isEmpty then [] else [ev (.matrixCommandStart p), ev (.matrixCommandEnd p)]) ++
    (if (partOf s p).parking && !(partOf s p).parked then [ev (.parkComplete p)] else [])

/-- The events of a core: its contexts, its requests, its log. -/
def coreTurns (s : State) (k : CoreId) : List Turn :=
  let x := coreOf s k
  let ps := ((allCords s).filter (fun c => c.id.core == k && !c.id.handler && phaseOf s c == 1)).map (fun c => c.pasid)
  (if x.ctxs.isEmpty then [] else [ev (.contextSwitch k), ev (.quantumExpiry k)]) ++ ps.eraseDups.map (fun p => ev (.streamOut k p)) ++
    (x.saved.filter (fun v => v.cords.any (fun c => phaseOf s c == 2))).map (fun v => ev (.streamIn k v.pasid)) ++
    (if x.reqs.isEmpty then [] else [ev (.supervisorRequest k)]) ++ (if x.log.isEmpty then [] else [.replay k])

/-- The turns of the engine commands of a quadrant: those of the command at the head of its queue. -/
def quadTurns (s : State) (q : QuadId) : List Turn :=
  match quadOf s q with
  | [] => []
  | c :: _ => match c.op with
    | .cfg => [ev (.nbcfgPerform q)]
    | .bin => [ev (.nbinRun q)]
    | .chk => [ev (.nchkRun q)]
    | .st => [ev (.nbstRead q)]
    | .pair _ _ _ _ => [ev (.npairRun q), ev (.groupPublish q)]
    | .cbin _ _ => [ev (.cbinRun q)]

/-- The chunk that a copy writes next: a free choice among those that have not landed (R201). -/
def nextChunk (t : Nat) (x : Copy) : Nat :=
  match x.chunk with
  | some k => k
  | none => let ks := (copyChunks x).filter (fun k => !x.landed.getLsbD k)
            ks.getD (pickBelow t ks.length) 0

/-- The turns of a cluster: messages for its rings, copies, bank changes, and an eviction of a line that a free choice names (R125). -/
def clusterTurns (s : State) (c : ClusterId) : List Turn :=
  let x := clusterOf s c
  let t := s.tick + c.toNat
  (if x.inbound.isEmpty then [] else [ev (.inboundBufferAppend c)]) ++
    (x.copies.filter (fun y => y.started)).map (fun y => ev (.copyChunkLanding c y.id (BitVec.ofNat 9 (nextChunk t y)))) ++
    x.changing.map (fun b => ev (.bankModeChangeComplete c b.1)) ++
    (match x.lines[pickBelow t x.lines.length]? with
     | some l => [.evict c l.addr (Config.pick (t + 64) % 2 == 0)]
     | none => [])

/-- The turns of a die: walks, gathers, reductions, page requests, invalidations, its clock. -/
def dieTurns (s : State) (d : DieId) : List Turn :=
  let x := dieOf s d
  x.walks.map (fun w => ev (.walkFill d w.pasid w.page)) ++ x.gathers.map (fun g => if g.scatter then ev (.scatterComplete d g.id) else ev (.gatherComplete d g.id)) ++
    (if x.rdx.isEmpty then [] else [ev (.reductionContribution d)]) ++
    (if x.timeout = 0 then [] else x.pageReqs.map (fun r => ev (.pageRequestTimeout { die := d, pasid := r.pasid, page := r.page, write := r.write }))) ++
    (if x.invals.isEmpty then [] else [.invalidate d]) ++ (if x.clockNext.isNone then [] else [ev (.clockChangeComplete d)])

/-- The level groups that some launch's next gang waits for (R46). -/
def groupTurns (s : State) : List Turn :=
  (s.launches.filter (fun l => !l.done)).flatMap (fun l => ((recDeps l.record).filter (fun d => !d.whole)).map (fun d =>
    ev (.levelGroupComplete d.queue d.seq d.level (gangGroup l.record l.nextGang d.level))))

/-- The turns of the dispatcher. -/
def dispatchTurns (s : State) : List Turn :=
  (if s.launches.any (fun l => !l.done) then [ev .gangPlacement] else []) ++
    (s.queues.filter hasRecord).map (fun q => ev (.launchRecordFetch q.num)) ++ groupTurns s ++
    (s.launches.filter (fun l => !l.done && placementOver l)).map (fun l => ev (.launchComplete l.queue l.seq)) ++
    ((s.completions.map (fun c => c.queue)).eraseDups).map (fun q => ev (.completionRecordWrite q)) ++
    (s.stands.filter (fun x => x.phase == 1)).map (fun x => ev (.preemptedStandResume x.key))

/-- The turns of the fabric interface. -/
def fabricTurns (s : State) : List Turn :=
  let f := s.fabric
  let ports : List Port := ((f.peers.flatMap (fun x => x.sent)).map (fun y => y.port)).eraseDups
  f.moves.flatMap (fun m => [.move m.req.gfn, ev (.stumpInstall m.req.gfn)]) ++ (List.range f.pending.length).map (fun n => .pending n) ++
    (if f.waiting.isEmpty then [] else [ev .migrationDequeue]) ++ f.announces.map (fun a => ev (.announcementDrained a.gfn)) ++
    ((f.relay.map (fun x => x.dst)).eraseDups).map (fun p => ev (.relayForward p)) ++ (ports.filter (portWorn f)).map (fun p => ev (.linkFailureLimit p)) ++
    (f.peers.filter (fun p => sameNode p.pkg f.num && !p.sent.isEmpty)).map (fun p => .resend p.pkg) ++ (sendingPorts s).map (fun v => .transmit v) ++ (if f.joined then [ev .rotorSlot] else []) ++
    (if s.mgmt.step = 3 then [.train] else []) ++ f.directory.map (fun e => .dirEvict e.line) ++ f.partner.map (fun x => .partnerEvict x.line)

/-- A slice bank that a free choice names. -/
def someBank (t : Nat) : SliceBank :=
  let d := pickBelow t 5
  { die := d, slice := pickBelow (t + 1) (if d = 4 then 32 else 48), bank := pickBelow (t + 2) 8 }

/-- The turns of the management controller. -/
def mgmtTurns (s : State) : List Turn :=
  let m := s.mgmt
  (if m.adminBusy.isSome || adminReady s then [.adminGo] else []) ++ (if m.hits.isEmpty then [] else [ev .watchEventWrite]) ++
    (m.errors.filter (fun e => !e.raised)).map (fun e => ev (.errorThresholdReached e.cls)) ++
    (if m.sampler.isNone then [] else [ev (.pcSample (BitVec.ofNat 10 (Config.pick s.tick)))]) ++ (if m.retain = 0 then [] else [.retention (someBank s.tick)]) ++
    ((List.range 8).filter (fun g => m.waking.getLsbD g)).map (fun g => ev (.fibreGroupWake (BitVec.ofNat 3 g))) ++
    ((List.range 8).filter (fun g => m.sleepAsked.getLsbD g && !m.asleep.getLsbD g)).map (fun g => ev (.fibreGroupAsleep (BitVec.ofNat 3 g)))

/-- The turns of host cores that wait, and of the fallback lock. -/
def hostTurns (s : State) : List Turn :=
  ((s.hostWait.map accessHost).eraseDups).map (fun h => .hostAccess h) ++ s.hostWords.map (fun x => .host x.1 x.2) ++
    (match s.almanac.lock, s.almanac.waiters with
     | .free, _ :: _ => [ev .fallbackLockTake]
     | _, _ => [])

/-! ### The choice -/

/-- The partitions of the cores with an active context. -/
def busyParts (s : State) : List PartId :=
  ((List.range 256).filter (fun i => ((s.cores[i]?).bind (fun k => k.active)).isSome)).flatMap (fun i => (List.range 4).map (fun j => BitVec.ofNat 10 (4 * i + j)))

/-- The stall code of the scalar stream of a cord's fragment as it looks at its next instruction now (R267). -/
def scalarCode (s : State) (c : Cord) (f : Fragment) : Option Nat :=
  let after := match front (.scalar c.id f.id) s with
    | .rest t => t
    | .run i _ t => stateOf t (exec i t)
  ((allCords after).find? (fun x => x.id == c.id)).bind (fun x => ((allFrags x).find? (fun y => y.id == f.id)).bind (stallOf x))

/-- The code that a partition charges for a cord none of whose streams is eligible (R267): that of its bank-0 fragment's scalar stream. Where its lane queue is full, what holds the lane
stream may be charged as well, by a free choice (log entry 33). -/
def chargeOf (s : State) (c : Cord) : Option Nat :=
  let f := bank0Frag c
  match stallOf c f, scalarCode s c f with
  | some 3, _ | none, some 3 => if Config.pick s.tick % 2 = 0 then some 3 else (laneStall c.id f.id s).orElse (fun _ => some 3)
  | some k, _ => some k
  | none, some k => some k
  | none, none => laneStall c.id f.id s

/-- The histogram and stall counters of a partition after one more clock (R267). -/
def countClock (s : State) (x : PartId × List Ready) : State :=
  let n := ((x.2.map (fun r => r.cord)).eraseDups).length
  let code := if n = 0 then ((partitionRing s x.1).filter (fun c => c.mode != .ended)).head?.bind (chargeOf s) else none
  setPart s x.1 (fun p =>
    { p with hist := p.hist.setIfInBounds n (p.hist.getD n 0 + 1)
             stalls := match code with
               | some k => p.stalls.setIfInBounds k (p.stalls.getD k 0 + 1)
               | none => p.stalls })

/-- The state after one clock: clock counts, quanta and the cycles of resident cords (R59, R63, R328). -/
def tickClocks (s : State) : State :=
  let s := { s with cores := s.cores.map (fun k => { k with clock := k.clock + 1, quantumLeft := k.quantumLeft - 1 })
                    mgmt := { s.mgmt with sliceClocks := s.mgmt.sliceClocks.map (fun n => n + 1) } }
  mapCords (fun c => if c.live then { c with cycles := c.cycles + 1 } else c) s

/-- Every list of turns that may come next. -/
def choices (s : State) (parts : List (PartId × List Ready)) : List (List Turn) :=
  let cores := (((allCords s).map (fun c => c.id.core)) ++ ((List.range 256).map (fun i => BitVec.ofNat 8 i)).filter (fun k =>
    !(coreOf s k).saved.isEmpty || !(coreOf s k).log.isEmpty || !(coreOf s k).reqs.isEmpty)).eraseDups
  parts.flatMap (fun x => partTurns s x.2 x.1) ++ handlerTurns s ++
    (shadowTurns s ++ (allCords s).flatMap cordTurns ++ ((List.range 1024).map (fun i => BitVec.ofNat 10 i)).flatMap (engineTurns s) ++ cores.flatMap (coreTurns s) ++
      ((List.range 16).map (fun i => BitVec.ofNat 4 i)).flatMap (quadTurns s) ++
      ((List.range 64).map (fun i => BitVec.ofNat 6 i)).flatMap (clusterTurns s) ++ allDies.flatMap (dieTurns s) ++ dispatchTurns s ++ fabricTurns s ++ mgmtTurns s ++
      hostTurns s ++ s.devWrites.map (fun w => Turn.device w.id) ++ s.inputs.take 1).map (fun t => [t])

/-- Whether a context of a core would have an eligible stream if it were the active one (R52, R59). -/
def contextReady (s : State) (k : CoreId) (c : Ctx) : Bool :=
  let s := setCore s k (fun x => { x with active := some c.pasid })
  (List.range 4).any (fun i => !(partReady s (k ++ BitVec.ofNat 2 i)).isEmpty)

/-- The state in which a core has noted its eligible streams of this clock (R59): one in the active context starts the count of idle clocks again; without one, its
other contexts are looked at. -/
def noteEligible (parts : List (PartId × List Ready)) (s : State) (k : CoreId) : State :=
  if parts.any (fun x => x.1.core == k && !x.2.isEmpty) then setCore s k (fun x => { x with idle := 0 })
  else setCore s k (fun x => { x with ctxs := x.ctxs.map (fun c => { c with eligible := some c.pasid != x.active && contextReady s k c }) })

/-- The count of this clock for each core whose active context has no eligible stream: every such clock counts (R59 case 4). -/
def idleTurns (s : State) (parts : List (PartId × List Ready)) : List Turn :=
  let cores := (parts.map (fun x => x.1.core)).eraseDups
  (cores.filter (fun k => !parts.any (fun x => x.1.core == k && !x.2.isEmpty) && (coreOf s k).ctxs.any (fun c => some c.pasid != (coreOf s k).active))).map
    (fun k => ev (.idleSwitchCount k))

/-- The state with the next turns chosen, after the clock's idle counts: an input, once chosen, is no longer waiting. -/
def schedule (s : State) : State :=
  let s := tickClocks s
  let s := pointRots (busyParts s) s
  let parts := (busyParts s).map (fun p => (p, partReady s p))
  let s := (((allCords s).map (fun c => c.id.core)).eraseDups).foldl (noteEligible parts) s
  let cs := choices s parts
  let n := pickBelow s.tick cs.length
  let s' := parts.foldl countClock s
  let fromInput := !s.inputs.isEmpty && decide (n + 1 = cs.length)
  { s' with agenda := cs.getD n [] ++ idleTurns s parts, tick := s.tick + 1, inputs := if fromInput then s.inputs.drop 1 else s.inputs }

end Sys2Proof.Machine
end

