-- ==== Sys2Proof/Machine/Step.lean ====
section
/-! DEFINITION. One step of the package, and a state placed so that the next step runs a given word. -/

namespace Sys2Proof.Machine

/-- One step: the turn at the head of the agenda, or, with an empty agenda, the choice of the next turns. -/
def step (s : State) : Host.Outcome State Fault Refusal :=
  match s.agenda with
  | [] => .next (schedule s)
  | t :: rest => runTurn t { s with agenda := rest }

/-- The state with an instruction's bits placed where the next step fetches it: a scalar word, a host core's word, or a lane word (log entry 10). -/
def State.withFetchWord (s : State) (nbits w : Nat) : State := placeBits nbits w s

end Sys2Proof.Machine
end

