-- ==== Sys2Proof/Safety.lean ====
section
/-! DEFINITION. What the statements speak of: the invariants that every step keeps, and what a word may change. -/

namespace Sys2Proof.Machine

/-- Memory has the canonical form: addresses rising, no byte listed that reads as an unlisted one does. -/
def State.memOk (s : State) : Prop := Memory.wf s.mem = true

/-- The one scalar register that a scalar arithmetic word writes (R297); none for the other words. -/
def scalarDest (i : Instr) : Option Reg :=
  match i with
  | .add d _ _ | .addImm d _ _ | .sub d _ _ | .and d _ _ | .andImm d _ _ | .or d _ _ | .orImm d _ _ | .xor d _ _ | .xorImm d _ _
  | .shl d _ _ | .shlImm d _ _ | .shr d _ _ | .shrImm d _ _ | .sar d _ _ | .sarImm d _ _ | .min d _ _ | .max d _ _ | .minn d _ _
  | .maxn d _ _ | .slt d _ _ | .sltImm d _ _ | .sltn d _ _ | .sltnImm d _ _ | .seq d _ _ | .seqImm d _ _ | .sel d _ _
  | .mul d _ _ _ | .mulh d _ _ _ | .mulhn d _ _ _ | .clz d _ | .popc d _ | .bfx d _ _ _ | .bfi d _ _ _ | .li d _ | .lih d _ => some d
  | _ => none

/-- A cord that runs one fragment with nothing in flight, no fault met, no transaction and no handler (R56, R147, R180, R181). -/
def quietCord (c : Cord) : Prop :=
  c.mode = .running ∧ c.frags = [] ∧ c.flights = [] ∧ c.frag.faults = [] ∧ c.frag.tx.lanes = [] ∧ c.handlerFlag = false ∧ c.id.handler = false

/-- A trap of the acting cord goes to the supervisor: STOP has not frozen the cord, its core has an image, the stand stays, and the core's request queue has room (R181, R269). -/
def trapRoom (s : State) : Prop :=
  frozen s = false ∧ (coreOf s s.cord.id.core).handler.isSome ∧ (∀ st, findStand s s.cord.stand = some st → st.phase = 0) ∧ (coreOf s s.cord.id.core).reqs.length < 16

/-- The scalar registers, the lane registers, the predicates and every byte of memory read as before. -/
def sameRegs (s t : State) : Prop :=
  (∀ r : Reg, reg t r = reg s r) ∧ t.cord.vregs = s.cord.vregs ∧ t.cord.preds = s.cord.preds ∧ t.mem = s.mem

/-- What a lane operation does that writes lane registers: in the lanes of a mask each register of a list has its new word, every other lane of every
register is as before, and nothing else changes (R25, R346). -/
def laneWrites (m : Mask) (rs : List (VReg × (Nat → Word))) (s t : State) : Prop :=
  (∀ (r : VReg) l, l < 96 → laneGet (vreg t.cord r) l =
    match rs.find? (fun x => x.1 == r) with
    | some x => if m.getLsbD l then x.2 l else laneGet (vreg s.cord r) l
    | none => laneGet (vreg s.cord r) l) ∧
  { t with cord := { t.cord with vregs := s.cord.vregs } } = s

/-- A value for vd, and for vd + 1 when the type is a pair, in the active lanes. -/
def laneResult (o : LaneOp) (f : Nat → Nat) (s t : State) : Prop :=
  laneWrites (activeMask s.cord o)
    (if o.ty = .i64 then [(o.vd, fun l => BitVec.ofNat 32 (f l)), (o.vd + 1, fun l => BitVec.ofNat 32 (f l / 2 ^ 32))] else [(o.vd, fun l => BitVec.ofNat 32 (f l))]) s t

/-- What a lane operation does that writes a predicate: its bits in the lanes of a mask; p0 keeps every bit set (R346). -/
def predResult (m : Mask) (q : BitVec 3) (p : Nat → Bool) (s t : State) : Prop :=
  (∀ (i : BitVec 3) l, l < 96 → (predOf t.cord i).getLsbD l = if i = q ∧ q ≠ 0 ∧ m.getLsbD l = true then p l else (predOf s.cord i).getLsbD l) ∧
  { t with cord := { t.cord with preds := s.cord.preds } } = s

/-- A message goes to a package: it waits, after the earlier ones, for a flit to that package, or, for this package, it is this package's own next turn (R239, R245). -/
def sends (p : PkgNo) (m : OutMsg) (s t : State) : Prop :=
  t.fabric.peers = (sendMsg p m s).fabric.peers ∧ t.agenda = (sendMsg p m s).agenda

/-- The acknowledgement of a request goes back (R238). -/
def acks (r : Req) (s t : State) : Prop := sends r.src (.resp 0x20 { src := s.fabric.num, dst := r.src, tag := r.tag, size := 0, payload := [] }) s t

/-- n bytes of data go back (R238). -/
def answers (r : Req) (n v : Nat) (s t : State) : Prop :=
  sends r.src (.resp 0x21 { src := s.fabric.num, dst := r.src, tag := r.tag, size := sizeCode n, payload := bytesOfNat n v }) s t

/-- A negative reply goes back (R172, R248). -/
def refuses (r : Req) (code sub : Nat) (s t : State) : Prop :=
  sends r.src (.neg { src := s.fabric.num, requester := r.src, tag := r.tag, code := BitVec.ofNat 8 code, sub := BitVec.ofNat 8 sub }) s t

/-- Nothing holds an access to memory back: the fabric is joined, no copy is out at a partner, no granule moves or arrives or is announced, no request waits, no line has failed (R141, R173,
R234, R250, R271). -/
def calm (s : State) : Prop :=
  s.fabric.joined = true ∧ s.fabric.directory = [] ∧ s.fabric.moves = [] ∧ s.fabric.incoming = [] ∧ s.fabric.announces = [] ∧ s.fabric.pending = [] ∧ s.failed = []

/-- This package owns the granule of an address (R231). -/
def ownsAt (s : State) (pa : Nat) : Prop := (ownedAt s.fabric (gfnOf pa)).isSome = true

/-- A global address of the acting cord that it reaches here: n bytes, aligned, in the global aperture, with a translation at hand for the permissions that the access needs, no pending log entry
of its page, in a granule that this package owns, with nothing that holds the access back (R94, R161, R169, R231). -/
def reachesHere (s : State) (va : DWord) (n need pa : Nat) : Prop :=
  globalRange va n = true ∧ va.toNat % n = 0 ∧ pa % n = 0 ∧ cached s (thisCore s) s.cord.pasid va.toNat need = some pa ∧
    pagePending s (thisCore s) s.cord.pasid (va.toNat % 2 ^ 57 / 4096) = false ∧ calm s ∧ ownsAt s pa

/-- A cluster cache takes an access to a line at once: no copy lies in a departing bank, and it has the line, or is empty (R102, R103). -/
def cacheTakes (cl : Cluster) (line : Nat) : Prop :=
  (∀ l ∈ cl.lines, liveWay cl l.way.toNat = true) ∧ (cl.lines = [] ∨ ∃ l ∈ cl.lines, l.addr = line ∧ l.stack = false)

/-- What one line of the cluster cache holds after n bytes of v have been written to it, dirty, at an offset; its other bytes and every other line are as before (R103, R115). -/
def cacheHolds (cl cl' : Cluster) (line off n v : Nat) : Prop :=
  let old := cacheLine cl line false
  let new := cacheLine cl' line false
  lineBytes new off n = v ∧ (∀ b, off ≤ b → b < off + n → new.valid.getLsbD b = true ∧ new.dirty.getLsbD b = true) ∧
    (∀ b, b < 128 → b < off ∨ off + n ≤ b → new.dirty.getLsbD b = old.dirty.getLsbD b ∧ (old.valid.getLsbD b = true → new.valid.getLsbD b = true ∧ lineBytes new b 1 = lineBytes old b 1)) ∧
    (∀ l : CacheLine, l.addr ≠ line ∨ l.stack = true → (l ∈ cl'.lines ↔ l ∈ cl.lines))

/-- The byte that a load through the cluster cache reads at a physical address: the cluster's copy where it holds the byte, and otherwise memory's (R103, R115). -/
def seenByte (s : State) (pa : Nat) : Nat :=
  let l := cacheLine (clusterOf s (thisCluster s)) (lineOf pa) false
  if l.valid.getLsbD (pa % 128) then lineBytes l (pa % 128) 1 else (memGet s.mem pa).toNat

/-- One journal entry is made, its 32 bytes in the next place of the ring where one is set and lies in memory that this package owns and nothing holds back, and no other byte changes
(R263). -/
def journals (type queue a b : Nat) (s t : State) : Prop :=
  t.mgmt.journalSeq = s.mgmt.journalSeq + 1 ∧
  match s.mgmt.journal with
  | none => t.mem = s.mem
  | some r =>
    let at_ := r.base + 32 * ((s.mgmt.journalSeq - 1) % 2 ^ r.log2)
    calm s → ownsAt s at_ → r.base % 32 = 0 → Memory.wf s.mem = true →
    memRead t.mem at_ 32 = (s.mgmt.journalSeq + 2 ^ 64 * type + 2 ^ 80 * queue + 2 ^ 128 * a + 2 ^ 192 * b) % 2 ^ 256 ∧
      ∀ x, x < at_ ∨ at_ + 32 ≤ x → memGet t.mem x = memGet s.mem x

/-- An admin command completes with a STATUS and with bytes 24 to 27 of its record zero (R261, R262). -/
def adminEnds (c : AdminCmd) (status : Nat) (s t : State) : Prop :=
  t.mgmt.adminBusy = none ∧ ∃ k, t.completions = s.completions ++ [k] ∧ k.queue = 0 ∧ k.tag = cmdTag c ∧ k.status = status ∧ k.code = 0 ∧ k.extra = 0

/-- A command with an OP names its parameters and nothing else (R262). -/
def adminForm (c : AdminCmd) (op : Nat) (names : List (Nat × Nat)) : Prop := cmdField c 0 2 = op ∧ onlyNamed c names = true

end Sys2Proof.Machine
end

