-- ==== Sys2Proof/Certificates/Slice0/Obligations.lean ====
section
/-! DEFINITION. The statements about the EN9240, for the provers. -/

open Sys2Proof Sys2Proof.Machine

/-- Sums, differences and constants: ADD, ADD_IMM, SUB, LI, LIH, DADD and DSUB answer a next state in which the destination, and nothing else but the scalar PC, has the new value, modulo 2^32 or 2^64; the immediate of ADD_IMM and LI is sign-extended and LIH's stands above twelve zero bits. AND, OR, XOR and their immediate forms give the bits of the two operands combined, the immediate zero-extended; SHL multiplies by a power of two modulo 2^32, SHR divides the unsigned value and SAR the signed value by it, rounding down; a register shift count is taken modulo 32 (R281, R300, R314, R322, R326, R389). -/
def Obligations.ScalarSumsLogicAndShiftsComplete : Prop :=
  ∀ (s : State) (d a b : Reg) (i : BitVec 14) (j : BitVec 20) (n : BitVec 5),
    exec (.add d a b) s = .next (result d (BitVec.ofNat 32 ((reg s a).toNat + (reg s b).toNat)) s) ∧
    exec (.addImm d a i) s = .next (result d (BitVec.ofInt 32 ((reg s a).toInt + i.toInt)) s) ∧
    exec (.sub d a b) s = .next (result d (BitVec.ofInt 32 ((reg s a).toInt - (reg s b).toInt)) s) ∧
    exec (.li d j) s = .next (result d (BitVec.ofInt 32 j.toInt) s) ∧
    exec (.lih d j) s = .next (result d (BitVec.ofNat 32 (j.toNat * 4096)) s) ∧
    exec (.dadd d a b) s = .next (resultPair d (BitVec.ofNat 64 ((pair s a).toNat + (pair s b).toNat)) s) ∧
    exec (.dsub d a b) s = .next (resultPair d (BitVec.ofInt 64 ((pair s a).toInt - (pair s b).toInt)) s) ∧
    (∃ v, exec (.and d a b) s = .next (result d v s) ∧ ∀ k, v.getLsbD k = ((reg s a).getLsbD k && (reg s b).getLsbD k)) ∧
    (∃ v, exec (.andImm d a i) s = .next (result d v s) ∧ ∀ k, v.getLsbD k = ((reg s a).getLsbD k && i.getLsbD k)) ∧
    (∃ v, exec (.or d a b) s = .next (result d v s) ∧ ∀ k, v.getLsbD k = ((reg s a).getLsbD k || (reg s b).getLsbD k)) ∧
    (∃ v, exec (.orImm d a i) s = .next (result d v s) ∧ ∀ k, v.getLsbD k = ((reg s a).getLsbD k || i.getLsbD k)) ∧
    (∃ v, exec (.xor d a b) s = .next (result d v s) ∧ ∀ k, v.getLsbD k = ((reg s a).getLsbD k != (reg s b).getLsbD k)) ∧
    (∃ v, exec (.xorImm d a i) s = .next (result d v s) ∧ ∀ k, v.getLsbD k = ((reg s a).getLsbD k != i.getLsbD k)) ∧
    exec (.shl d a b) s = .next (result d (BitVec.ofNat 32 ((reg s a).toNat * 2 ^ ((reg s b).toNat % 32))) s) ∧
    exec (.shlImm d a n) s = .next (result d (BitVec.ofNat 32 ((reg s a).toNat * 2 ^ n.toNat)) s) ∧
    exec (.shr d a b) s = .next (result d (BitVec.ofNat 32 ((reg s a).toNat / 2 ^ ((reg s b).toNat % 32))) s) ∧
    exec (.shrImm d a n) s = .next (result d (BitVec.ofNat 32 ((reg s a).toNat / 2 ^ n.toNat)) s) ∧
    exec (.sar d a b) s = .next (result d (BitVec.ofInt 32 ((reg s a).toInt / (2 : Int) ^ ((reg s b).toNat % 32))) s) ∧
    exec (.sarImm d a n) s = .next (result d (BitVec.ofInt 32 ((reg s a).toInt / (2 : Int) ^ n.toNat)) s)

/-- MIN, MAX, SLT and SEQ compare signed numbers, MINN, MAXN and SLTN unsigned ones; every comparison immediate is sign-extended, for SLTN before the unsigned comparison; SEL keeps s[sa] where the destination's old value is not 0 and s[sb] where it is (R326). -/
def Obligations.ScalarComparisonsComplete : Prop :=
  ∀ (s : State) (d a b : Reg) (i : BitVec 14),
    exec (.min d a b) s = .next (result d (BitVec.ofInt 32 (min (reg s a).toInt (reg s b).toInt)) s) ∧
    exec (.max d a b) s = .next (result d (BitVec.ofInt 32 (max (reg s a).toInt (reg s b).toInt)) s) ∧
    exec (.minn d a b) s = .next (result d (BitVec.ofNat 32 (min (reg s a).toNat (reg s b).toNat)) s) ∧
    exec (.maxn d a b) s = .next (result d (BitVec.ofNat 32 (max (reg s a).toNat (reg s b).toNat)) s) ∧
    exec (.slt d a b) s = .next (result d (if (reg s a).toInt < (reg s b).toInt then 1 else 0) s) ∧
    exec (.sltImm d a i) s = .next (result d (if (reg s a).toInt < i.toInt then 1 else 0) s) ∧
    exec (.sltn d a b) s = .next (result d (if (reg s a).toNat < (reg s b).toNat then 1 else 0) s) ∧
    exec (.sltnImm d a i) s = .next (result d (if (reg s a).toNat < (BitVec.ofInt 32 i.toInt).toNat then 1 else 0) s) ∧
    exec (.seq d a b) s = .next (result d (if reg s a = reg s b then 1 else 0) s) ∧
    exec (.seqImm d a i) s = .next (result d (if (reg s a).toInt = i.toInt then 1 else 0) s) ∧
    exec (.sel d a b) s = .next (result d (if reg s d = 0 then reg s b else reg s a) s)

/-- MUL gives the low half of the product and MULH and MULHN the high half of the signed and the unsigned one, whatever la says; CLZ counts the zero bits above the highest set bit and POPC the set bits; BFX reads and BFI writes the field of n bits at p, cut off at bit 31, a length of 0 standing for 32 (R307, R312, R330, R334). -/
def Obligations.ScalarProductsCountsAndFieldsComplete : Prop :=
  ∀ (s : State) (d a b : Reg) (l : BitVec 4) (p n : BitVec 5),
    exec (.mul d a b l) s = .next (result d (BitVec.ofNat 32 ((reg s a).toNat * (reg s b).toNat)) s) ∧
    exec (.mulh d a b l) s = .next (result d (BitVec.ofInt 32 ((reg s a).toInt * (reg s b).toInt / 4294967296)) s) ∧
    exec (.mulhn d a b l) s = .next (result d (BitVec.ofNat 32 ((reg s a).toNat * (reg s b).toNat / 4294967296)) s) ∧
    exec (.clz d a) s = .next (result d (BitVec.ofNat 32 ((List.range 32).filter (fun k => decide ((reg s a).toNat < 2 ^ k))).length) s) ∧
    exec (.popc d a) s = .next (result d (BitVec.ofNat 32 ((List.range 32).filter (fun k => (reg s a).getLsbD k)).length) s) ∧
    (∃ v, exec (.bfx d a p n) s = .next (result d v s) ∧
      ∀ k, v.getLsbD k = (decide (k < fieldLen n) && (reg s a).getLsbD (p.toNat + k))) ∧
    (∃ v, exec (.bfi d a p n) s = .next (result d v s) ∧
      ∀ k, k < 32 → v.getLsbD k = if p.toNat ≤ k ∧ k < p.toNat + fieldLen n then (reg s a).getLsbD (k - p.toNat) else (reg s d).getLsbD k)

/-- Reading after writing: s0 reads 0 whatever is written to it, s1 to s60 read the value written last, s61 to s63 read the value ANDed with the lanes the fragment owns, and every other register reads as before (R5, R25, R297). -/
def Obligations.RegisterReadAfterWrite : Prop :=
  ∀ (s : State) (d r : Reg) (v : Word),
    reg (setReg s d v) r =
      if r = 0 then 0
      else if r = d then (if r.toNat < 61 then v else v &&& maskWord s.cord.frag.owned (r.toNat - 61))
      else reg s r

/-- The frame of scalar arithmetic: a word with one destination register leaves every other scalar register as it was, DADD and DSUB every one but the two of the destination pair; the next state differs from the one before only in the acting cord, and there every lane register, predicate, tile, special register and access in flight is as before; every byte of memory reads as before (R2, R297, R314). -/
def Obligations.ScalarArithmeticFrame : Prop :=
  let frame (s t : State) : Prop :=
    (∀ a, memGet t.mem a = memGet s.mem a) ∧
    { t with cord := s.cord } = s ∧
    t.cord.vregs = s.cord.vregs ∧ t.cord.preds = s.cord.preds ∧ t.cord.acc = s.cord.acc ∧ t.cord.frags = s.cord.frags ∧
    t.cord.flights = s.cord.flights ∧ t.cord.paths = s.cord.paths ∧ t.cord.trap = s.cord.trap ∧ t.cord.uhandler = s.cord.uhandler ∧
    t.cord.lots = s.cord.lots ∧ t.cord.cycles = s.cord.cycles ∧ t.cord.frag.owned = s.cord.frag.owned ∧ t.cord.frag.queue = s.cord.frag.queue ∧
    t.cord.frag.arms = s.cord.frag.arms ∧ t.cord.frag.tx = s.cord.frag.tx ∧ t.cord.frag.faults = s.cord.frag.faults
  (∀ (i : Instr) (d : Reg) (s t : State), scalarDest i = some d → exec i s = .next t → (∀ r : Reg, r ≠ d → reg t r = reg s r) ∧ frame s t) ∧
  (∀ (s t : State) (d a b : Reg), d.toNat % 2 = 0 → (exec (.dadd d a b) s = .next t ∨ exec (.dsub d a b) s = .next t) →
    (∀ r : Reg, r ≠ d → r ≠ d + 1 → reg t r = reg s r) ∧ frame s t)

/-- The scalar PC: a word that goes on moves the PC to the next word, or to the resume point of a replayed one, which is then used up; a branch moves it to its target; in both cases the fragment stops exactly when its new PC is the join address of its innermost split, and otherwise runs. The whole state but that PC, that status and that resume point of the acting fragment is as before: every register, predicate, accumulator, mask, other fragment, access in flight and path counter of the cord, every other cord, and memory (R36, R56, R298). -/
def Obligations.NextWordAndBranchTarget : Prop :=
  ∀ (s : State) (t : Word),
    let at_ (u : State) (pc : Word) : Prop := ∃ st, (st = .atJoin ∨ st = .running) ∧ (st = .atJoin ↔ ∃ a, s.cord.frag.arms.head? = some a ∧ a.join = pc) ∧
      u = { s with cord := { s.cord with frag := { s.cord.frag with pc := pc, after := none, status := st } } }
    at_ (jump s t) t ∧ at_ (advance s) (s.cord.frag.after.getD (s.cord.frag.pc + 4))

/-- Branches: B and CALL go to pc + 4 x displacement, CALL after writing pc + 4 to s58 and 0 to s59; BC goes there exactly when its condition holds of the signed register; BX, CALLR and RET go to a register that is a multiple of 4, CALLR reading it before it writes the link; NOP goes on (R282, R298, R303 to R310, R332, R336). -/
def Obligations.BranchesComplete : Prop :=
  ∀ (s : State) (a : Reg) (d : BitVec 26) (e : BitVec 16),
    let pc := s.cord.frag.pc
    let linked := setReg (setReg s 58 (pc + 4)) 59 0
    let x := (reg s a).toInt
    let bc (c : BitVec 4) (p : Prop) : Prop :=
      (p → exec (.bc a c e) s = .next (jump s (BitVec.ofInt 32 (pc.toInt + 4 * e.toInt)))) ∧ (¬p → exec (.bc a c e) s = .next (advance s))
    exec (.b d) s = .next (jump s (BitVec.ofInt 32 (pc.toInt + 4 * d.toInt))) ∧
    exec (.call d) s = .next (jump linked (BitVec.ofInt 32 (pc.toInt + 4 * d.toInt))) ∧
    bc 0 (x = 0) ∧ bc 1 (x ≠ 0) ∧ bc 2 (x < 0) ∧ bc 3 (0 ≤ x) ∧ bc 4 (0 < x) ∧ bc 5 (x ≤ 0) ∧
    ((reg s a).toNat % 4 = 0 → exec (.bx a) s = .next (jump s (reg s a)) ∧ exec (.callr a) s = .next (jump linked (reg s a))) ∧
    ((reg s 58).toNat % 4 = 0 → exec .ret s = .next (jump s (reg s 58))) ∧
    exec .nop s = .next (advance s)

/-- R332 whole: the word 0x7C00_0040 is NOP, and NOP has no other word; a word with OP 0x1F and fn 4 that is any other word is an illegal word, which traps with 0x01 a cord at rest whose trap goes to the supervisor's queue; NOP's effect is pc := pc + 4, whatever any operand holds, it changes no register and no memory, and it raises nothing. -/
def Obligations.NopDoesNothing : Prop :=
  decodeScalar 0x7C000040#32 = .ok .nop ∧ (∀ w : BitVec 32, decodeScalar w = .ok .nop → w = 0x7C000040#32) ∧
  (∀ w : BitVec 32, w.extractLsb' 26 6 = 0x1F#6 → w.extractLsb' 4 4 = 4#4 → w ≠ 0x7C000040#32 → scalarWord w = .illegalInstruction (.scalar w) ∧
    ∀ s : State, quietCord s.cord → trapRoom s → ∃ t, exec (scalarWord w) s = .next t ∧ t.cord.mode = .trapped ∧ t.cord.trap.cause = 1 ∧ sameRegs s t) ∧
  ∀ s : State, s.cord.frag.after = none → ∃ t, exec .nop s = .next t ∧ t.cord.frag.pc = s.cord.frag.pc + 4 ∧ sameRegs s t ∧
    { t with cord := s.cord } = s ∧ t.cord.acc = s.cord.acc ∧ t.cord.mode = s.cord.mode ∧ t.cord.frag.faults = s.cord.frag.faults

/-- BX, CALLR and RET of a target that is no multiple of 4 have no effect on any register, the link among them: with nothing in flight and a user handler not concerned by 0x02, the cord's trap record shows code 0x02, the PC of the branch, and no failing lane, and the trap goes to the supervisor's queue when a handler image is loaded and its queue has room (R174, R178, R181, R298). -/
def Obligations.MisalignedBranchTargetTraps : Prop :=
  ∀ (s : State) (a : Reg) (i : Instr), quietCord s.cord → trapRoom s →
    ((i = .bx a ∨ i = .callr a) ∧ (reg s a).toNat % 4 ≠ 0) ∨ (i = .ret ∧ (reg s 58).toNat % 4 ≠ 0) →
    ∃ t, exec i s = .next t ∧ t.cord.mode = .trapped ∧ t.cord.trap.cause = 2 ∧ t.cord.trap.pc = s.cord.frag.pc ∧ t.cord.trap.lanes = 0 ∧
      t.cord.trap.resume = s.cord.frag.after.getD (s.cord.frag.pc + 4) ∧
      (coreOf t s.cord.id.core).reqs = (coreOf s s.cord.id.core).reqs ++ [s.cord.id] ∧ (∀ r : Reg, reg t r = reg s r) ∧ t.mem = s.mem

/-- Taking a trap and returning: with nothing in flight, the cord not frozen by STOP, and a user handler at a multiple of 4 below 2^32, TRAP saves code 0x0E, its own PC and the next word as the resume point, sets the handler flag, sets the lane queue aside and starts the handler; TRET of a scalar-stream trap with a resume point that is a multiple of 4 and nothing pending clears the flag, continues at %trap.resume and puts the set-aside blocks back (R177, R178, R180, R342, R343). -/
def Obligations.TrapEntersHandlerAndTretReturns : Prop :=
  (∀ s : State, quietCord s.cord → frozen s = false → s.cord.uhandler ≠ 0 → (DWord.lo s.cord.uhandler).toNat % 4 = 0 → DWord.hi s.cord.uhandler = 0 →
    ∃ t, exec .trap s = .next t ∧ t.cord.handlerFlag = true ∧ t.cord.mode = .running ∧ t.cord.frag.pc = DWord.lo s.cord.uhandler ∧
      t.cord.trap = { cause := 0x0E, pc := s.cord.frag.pc, resume := s.cord.frag.after.getD (s.cord.frag.pc + 4), lanes := 0, addr := 0, info := 0 } ∧
      t.cord.aside = s.cord.frag.queue ∧ t.cord.frag.queue = [] ∧ t.mem = s.mem ∧ (∀ r : Reg, reg t r = reg s r)) ∧
  (∀ s : State, s.cord.mode = .running → s.cord.frags = [] → s.cord.handlerFlag = true → s.cord.handlerLane = false → s.cord.pend = [] →
    s.cord.trap.resume.toNat % 4 = 0 →
    ∃ t, exec .tret s = .next t ∧ t.cord.handlerFlag = false ∧ t.cord.mode = .running ∧ t.cord.frag.pc = s.cord.trap.resume ∧
      t.cord.frag.queue = s.cord.asideOuter.takeWhile (fun b => decide (b.done < b.count)) ∧ t.mem = s.mem ∧ (∀ r : Reg, reg t r = reg s r))

/-- BD at a fragment whose lane queue is empty: with no active lane whose predicate takes it the fragment goes on, with all of them it branches, and otherwise, with a split-table entry free and the writes pending at a topmost split landed, the fragment becomes two: the not-taken arm goes on at the next word with the other active lanes, the taken arm starts at the target with the lanes that took it, both with the join address given, and no lane is owned by both (R31 to R35). -/
def Obligations.DivergentBranchSplits : Prop :=
  ∀ (s : State) (p : BitVec 3) (n : BitVec 1) (d j : BitVec 11), s.cord.frag.queue = [] →
    let f := s.cord.frag
    let t := f.mask &&& (if n = 1 then ~~~(predOf s.cord p) else predOf s.cord p)
    let target := BitVec.ofInt 32 (f.pc.toInt + 4 * d.toInt)
    let join := BitVec.ofInt 32 (f.pc.toInt + 4 * j.toInt)
    (t = 0 → exec (.bd p n d j) s = .next (advance s)) ∧
    (t ≠ 0 → t = f.mask → exec (.bd p n d j) s = .next (jump s target)) ∧
    (t ≠ 0 → t ≠ f.mask → entriesUsed s.cord < 8 → (f.arms ≠ [] ∨ scalarPending s.cord f.bank = false) →
      ∃ u k, exec (.bd p n d j) s = .next u ∧ u.cord.frags = s.cord.frags ++ [k] ∧ u.cord.frag.pc = f.pc + 4 ∧ k.pc = target ∧
        k.mask = t ∧ k.owned = t ∧ u.cord.frag.mask = f.mask &&& ~~~t ∧ u.cord.frag.owned = f.owned &&& ~~~t ∧
        u.cord.frag.owned &&& k.owned = 0 ∧ (∃ a b, u.cord.frag.arms = a :: f.arms ∧ k.arms = b :: f.arms ∧ a.join = join ∧ b.join = join ∧ a.split = b.split) ∧
        u.cord.vregs = s.cord.vregs ∧ u.cord.preds = s.cord.preds ∧ { u with cord := s.cord } = s)

/-- A BD that would split when all 8 entries of the split table are in use traps with code 0x01 and leaves the table as it was: with one trap handler image, room in its queue and nothing in flight, the cord stands trapped with cause 0x01, the same fragments and the same lanes (R32, R178, R181). -/
def Obligations.NinthSplitTraps : Prop :=
  ∀ (s : State) (p : BitVec 3) (n : BitVec 1) (d j : BitVec 11), s.cord.mode = .running → s.cord.flights = [] → s.cord.frag.queue = [] →
    (∀ f ∈ allFrags s.cord, f.faults = []) → s.cord.handlerFlag = false → s.cord.id.handler = false → trapRoom s →
    (s.cord.frags.all (fun g => g.id != s.cord.frag.id)) = true →
    let t := s.cord.frag.mask &&& (if n = 1 then ~~~(predOf s.cord p) else predOf s.cord p)
    t ≠ 0 → t ≠ s.cord.frag.mask → 8 ≤ entriesUsed s.cord →
    ∃ u, exec (.bd p n d j) s = .next u ∧ u.cord.trap.cause = 1 ∧ u.cord.trap.pc = s.cord.frag.pc ∧ u.cord.mode = .trapped ∧
      u.cord.frag.mask = s.cord.frag.mask ∧ u.cord.frag.owned = s.cord.frag.owned ∧ u.cord.frags.length = s.cord.frags.length

/-- EXIT outside a transaction body and a user handler, with no lane word waiting: the fragment's active lanes leave the set it owns and its mask is 0; with lanes left it goes on at the next word; the last fragment that owns no lane ends the cord (R39, R40). -/
def Obligations.ExitRemovesLanes : Prop :=
  ∀ s : State, anyInBody s.cord.frag = false → s.cord.handlerFlag = false → s.cord.frag.queue = [] →
    (s.cord.frag.owned &&& ~~~s.cord.frag.mask ≠ 0 →
      ∃ t, exec .exit s = .next t ∧ t.cord.frag.owned = s.cord.frag.owned &&& ~~~s.cord.frag.mask ∧ t.cord.frag.mask = 0 ∧
        t.cord.frag.pc = s.cord.frag.after.getD (s.cord.frag.pc + 4) ∧ t.cord.mode = s.cord.mode ∧ t.mem = s.mem) ∧
    (s.cord.frag.owned &&& ~~~s.cord.frag.mask = 0 → s.cord.frags = [] →
      ∃ t, exec .exit s = .next t ∧ t.cord.mode = .ended ∧ t.cord.exitPc = s.cord.frag.pc ∧ t.mem = s.mem)

/-- Fences outside a body with no lane word of the fragment waiting. FENCE.ACQ asks only that the counters of paths 0, 1 and 3 read 0: it then drops the clean bytes of its reach and goes on; while one of them is not 0 it waits at its own PC with stall code 12 and changes nothing else. FENCE.REL and FENCE.FULL wait so while the counter of path 0, 1, 2 or 3 is not 0 or the log holds an entry of the cord; with those clear, no dirty byte of the reach in the cluster cache and no write-back outstanding, FENCE.REL goes on and changes nothing else, and FENCE.FULL goes on after dropping the clean bytes of the reach. The drop: at cord and cluster scope nothing; at die scope and wider no line of the reach keeps a clean byte (its valid bytes are its dirty ones), a line of it with dirty bytes keeps just those, with their data, a line outside the reach that holds a byte stays as it is, no other line is made, and nothing changes but the lines and the drop count of this cluster's cache (R127, R267). -/
def Obligations.FencesGoOnOrWait : Prop :=
  ∀ (s : State) (z : BitVec 6), anyInBody s.cord.frag = false → s.cord.frag.queue = [] →
    let c := thisCluster s
    let reach (l : CacheLine) : Prop := lineInReach s c z.toNat l = true
    let dropped := dropReach c z.toNat s
    let old := clusterOf s c
    let new := clusterOf dropped c
    (pathsZero s.cord [0, 1, 3] = true → exec (.fenceAcq z) s = .next (advance dropped)) ∧
    (pathsZero s.cord [0, 1, 3] = false → exec (.fenceAcq z) s = .next (wait 12 s)) ∧
    (pathsZero s.cord [0, 1, 2, 3] = false ∨ ownPending s = true → exec (.fenceRel z) s = .next (wait 12 s) ∧ exec (.fenceFull z) s = .next (wait 12 s)) ∧
    (pathsZero s.cord [0, 1, 2, 3] = true → ownPending s = false → (∀ l ∈ old.lines, reach l → l.dirty = 0) → (∀ o ∈ s.fabric.outstanding, ∀ x, o.waiter ≠ .writeBack x) →
      exec (.fenceRel z) s = .next (advance s) ∧ exec (.fenceFull z) s = .next (advance dropped)) ∧
    (wait 12 s).cord.frag.pc = s.cord.frag.pc ∧
    (z.toNat < 2 → dropped = s) ∧
    (2 ≤ z.toNat →
      (∀ l ∈ old.lines, reach l → l.dirty ≠ 0 → { l with valid := l.dirty } ∈ new.lines) ∧
      (∀ l ∈ old.lines, ¬reach l → l.valid ≠ 0 → l ∈ new.lines) ∧
      (∀ m ∈ new.lines, m.valid ≠ 0 ∧ ((m ∈ old.lines ∧ ¬reach m) ∨ ∃ l ∈ old.lines, reach l ∧ m = { l with valid := l.dirty })) ∧
      (∀ m ∈ new.lines, reach m → m.valid = m.dirty) ∧
      { new with lines := old.lines, epoch := old.epoch } = old ∧ (∀ x, x ≠ c → clusterOf dropped x = clusterOf s x) ∧ { dropped with clusters := s.clusters } = s)

/-- Barriers in a window where no run has failed, with nothing in flight, no lane word waiting, no pending log entry, at cord or cluster scope: after BARI with e from 1 to 65,535 the eight bytes hold E = REMAINING = e and PHASE 0; ARV with n leaves them as R205 says: unchanged for n = 0, PHASE flipped and REMAINING reloaded from E where REMAINING is at most n, REMAINING lowered by n otherwise; WAITB goes on at once where PHASE differs from bit 0 of its register, and otherwise waits with stall code 6 and its wait is noted (R204, R205). -/
def Obligations.BarriersComplete : Prop :=
  ∀ (s : State) (z a b : Reg) (k : StandKey) (o : Nat),
    anyInBody s.cord.frag = false → s.cord.frag.queue = [] → s.cord.flights = [] → pathsZero s.cord [0, 1, 2, 3] = true → ownPending s = false → z.toNat < 2 →
    barrierPlace s (pair s a) = .ok (k, o) → runFailed s k o = false → s.bwaits = [] → (∀ st, findStand s k = some st → Memory.wf st.window = true) →
    let old := scratchRead (.win k o) 8 s
    let e := old % 65536
    let left := old / 65536 % 65536
    let phase := old / 4294967296 % 2
    let n := (reg s b).toNat
    (0 < n → n < 65536 → ∃ t, exec (.bari a b) s = .next t ∧ scratchRead (.win k o) 8 t = n + 65536 * n ∧ t.mem = s.mem ∧
      t.cord.frag.pc = s.cord.frag.after.getD (s.cord.frag.pc + 4)) ∧
    (n < 65536 → ∃ t, exec (.arv z a b) s = .next t ∧ t.mem = s.mem ∧ t.cord.frag.pc = s.cord.frag.after.getD (s.cord.frag.pc + 4) ∧
      scratchRead (.win k o) 8 t =
        if n = 0 then old
        else if left ≤ n then e + 65536 * e + 4294967296 * (1 - phase)
        else e + 65536 * (left - n) + 4294967296 * phase) ∧
    (phase ≠ n % 2 → exec (.waitb z a b) s = .next (advance s)) ∧
    (phase = n % 2 → ∃ t, exec (.waitb z a b) s = .next t ∧ t.cord.frag.status = .waiting 6 ∧ t.cord.frag.pc = s.cord.frag.pc ∧
      ∃ w, t.bwaits = [w] ∧ w.barrier = k ∧ w.off = o ∧ w.cord = s.cord.id ∧ w.released = false)

/-- A BARI with E = 0, or a BARI or ARV whose register has a bit above 15 set, traps with 0x01 and changes no memory: with nothing in flight, a handler image loaded and room in its queue, the cord stands trapped with cause 1 at that PC (R204). -/
def Obligations.BarrierCountOutOfRangeTraps : Prop :=
  ∀ (s : State) (z a b : Reg) (i : Instr), quietCord s.cord → trapRoom s →
    (i = .bari a b ∧ ((reg s b).toNat = 0 ∨ 65536 ≤ (reg s b).toNat)) ∨ (i = .arv z a b ∧ 65536 ≤ (reg s b).toNat) →
    ∃ t, exec i s = .next t ∧ t.cord.mode = .trapped ∧ t.cord.trap.cause = 1 ∧ t.cord.trap.pc = s.cord.frag.pc ∧ t.mem = s.mem ∧ t.stands = s.stands

/-- WPATH goes on when the path's counter is at most its register and waits with stall code 9 otherwise; RNGW of an allocated ring, with no access of the cord in flight, returns TAIL - HEAD modulo 2^32 as soon as that reaches the smaller of its register and the ring's size, and waits with stall code 10 otherwise; LOT returns the next lot number modulo 256 and counts it; WLOT with no batch of the cord outstanding or flagged goes on when it names a closed lot at most 127 behind (R110, R114, R197). -/
def Obligations.WaitsAndLotsComplete : Prop :=
  ∀ (s : State) (d a b : Reg) (r : Ring),
    let c := (s.cord.paths.getD a.toNat 0).toNat
    let j := (reg s a).toNat
    let count := (r.tail - r.head).toNat
    (c ≤ (reg s b).toNat → exec (.wpath a b) s = .next (advance s)) ∧
    ((reg s b).toNat < c → exec (.wpath a b) s = .next (wait 9 s)) ∧
    (j ≤ 3 → findRing (clusterOf s (thisCluster s)) s.cord.stand j = some r → s.cord.flights = [] →
      (min (reg s b).toNat (2 ^ (r.c + 4)) ≤ count → exec (.rngw d a b) s = .next (result d (r.tail - r.head) s)) ∧
      (count < min (reg s b).toNat (2 ^ (r.c + 4)) → exec (.rngw d a b) s = .next (wait 10 s))) ∧
    (anyInBody s.cord.frag = false →
      (∃ t, exec (.lot d) s = .next (result d (BitVec.ofNat 32 ((s.cord.lots + 1) % 256)) t) ∧ t.cord.lots = s.cord.lots + 1 ∧
        { t with cord := s.cord } = s ∧ (∀ x : Reg, reg t x = reg s x)) ∧
      ((s.cord.lots + 256 - (reg s a).toNat % 256) % 256 ≤ 127 → s.cord.batches = [] → exec (.wlot a) s = .next (advance s)))

/-- MFS by a cord returns the work identifier's halves, the cord's index and the stand's number of cords, its core, cluster, die and package, the clock count (its low half latches the high half for number 9), the six path counters, the lot number, the nine words of the trap record, the user handler's address, and the depth of splits; MTS writes the two halves of %uhandler, and %trap.resume from the user handler only, and is ignored for every other number below 30. The supervisor handler reads 0 from the numbers below 30 but its own core, cluster, die and package, %bankmode and %bankstat of its cluster, %fdlog as the numbers of discarded and of pending entries of its core's log, and 0 from 51 to 63; its MTS of 48, 49 and 51 is the write of %bankmode, %bankstat and %fdlrel that the BANKMODE_WRITE, BANKSTAT_WRITE and FDLREL_WRITE of that value are, and every other MTS of it that is legal is ignored (R101, R171, R327, R328). -/
def Obligations.SpecialRegistersComplete : Prop :=
  ∀ (s : State) (d a : Reg),
    let get (n : Nat) (v : Word) : Prop := exec (.mfs d (BitVec.ofNat 6 n)) s = .next (result d v s)
    let log := (coreOf s (thisCore s)).log
    let wrote (n : Nat) (i : Instr) : Prop := ∃ u, exec i s = .next u ∧ exec (.mts a (BitVec.ofNat 6 n)) s = .next (advance u)
    (s.cord.id.handler = true →
      get 48 (clusterOf s (thisCluster s)).bankmode ∧ get 49 (clusterOf s (thisCluster s)).bankstat ∧
      get 50 (BitVec.ofNat 32 ((log.filter (fun e => e.discarded)).length * 65536 + (log.filter (fun e => !e.discarded)).length)) ∧
      (∀ n, 51 ≤ n → n < 64 → get n 0) ∧ (∀ n, n < 30 → n < 4 ∨ 7 < n → get n 0) ∧
      get 4 (BitVec.ofNat 32 (s.cord.id.core.toNat % 4)) ∧ get 5 (BitVec.ofNat 32 (s.cord.id.core.toNat / 4 % 16)) ∧
      get 6 (BitVec.ofNat 32 (s.cord.id.core.toNat / 64)) ∧ get 7 (s.fabric.num.setWidth 32) ∧
      wrote 48 (.bankmodeWrite (thisCluster s) (reg s a)) ∧ wrote 49 (.bankstatWrite (thisCluster s) (reg s a)) ∧ wrote 51 (.fdlrelWrite (thisCore s) (reg s a)) ∧
      (∀ n, n < 30 ∨ n = 50 ∨ (52 ≤ n ∧ n < 64) → exec (.mts a (BitVec.ofNat 6 n)) s = .next (advance s))) ∧
    (s.cord.id.handler = false →
    get 0 (DWord.lo s.cord.work) ∧ get 1 (DWord.hi s.cord.work) ∧ get 2 (BitVec.ofNat 32 s.cord.index) ∧ get 3 (BitVec.ofNat 32 s.cord.ncords) ∧
    get 4 (BitVec.ofNat 32 (s.cord.id.core.toNat % 4)) ∧ get 5 (BitVec.ofNat 32 (s.cord.id.core.toNat / 4 % 16)) ∧
    get 6 (BitVec.ofNat 32 (s.cord.id.core.toNat / 64)) ∧ get 7 (s.fabric.num.setWidth 32) ∧ get 9 s.cord.frag.cyclesHi ∧
    (∀ n, n < 6 → get (10 + n) ((s.cord.paths.getD n 0).setWidth 32)) ∧ get 16 (BitVec.ofNat 32 (s.cord.lots % 256)) ∧
    get 17 s.cord.trap.cause ∧ get 18 s.cord.trap.pc ∧ get 19 s.cord.trap.resume ∧ (∀ k, k < 3 → get (20 + k) (maskWord s.cord.trap.lanes k)) ∧
    get 23 (DWord.lo s.cord.trap.addr) ∧ get 24 (DWord.hi s.cord.trap.addr) ∧ get 25 s.cord.trap.info ∧
    get 26 (DWord.lo s.cord.uhandler) ∧ get 27 (DWord.hi s.cord.uhandler) ∧ get 29 (BitVec.ofNat 32 s.cord.frag.arms.length) ∧
    (∃ t, exec (.mfs d 8) s = .next (result d (DWord.lo s.cord.cycles) t) ∧ exec (.cyclesLoRead d) s = .next (result d (DWord.lo s.cord.cycles) t) ∧
      t.cord.frag.cyclesHi = DWord.hi s.cord.cycles ∧ (∀ x : Reg, reg t x = reg s x)) ∧
    (∃ t, exec (.mts a 26) s = .next (advance t) ∧ DWord.lo t.cord.uhandler = reg s a ∧ DWord.hi t.cord.uhandler = DWord.hi s.cord.uhandler ∧ { t with cord := s.cord } = s) ∧
    (∃ t, exec (.mts a 27) s = .next (advance t) ∧ DWord.hi t.cord.uhandler = reg s a ∧ DWord.lo t.cord.uhandler = DWord.lo s.cord.uhandler ∧ { t with cord := s.cord } = s) ∧
    (s.cord.handlerFlag = true → ∃ t, exec (.mts a 19) s = .next (advance t) ∧ t.cord.trap = { s.cord.trap with resume := reg s a }) ∧
    (s.cord.handlerFlag = false → exec (.mts a 19) s = .next (advance s)) ∧
    (∀ n, n < 30 → n ≠ 19 → n ≠ 26 → n ≠ 27 → exec (.mts a (BitVec.ofNat 6 n)) s = .next (advance s)))

/-- A word that only the supervisor handler may run: MFS and MTS of numbers 48 to 63, and XRD, XWR and XRES whose operands are in range, by an ordinary cord write no register and trap with code 0x04: with nothing in flight, a handler image loaded and room in its queue, the cord stands trapped with cause 4 and its PC and its id enters the request queue; numbers 30 to 47 trap with 0x01 in the same way, and so, the lower of the two codes being reported, do XRD, XWR and XRES whose selector has a bit above 7 set, XRD and XWR whose register selector names none, and XRES with an action above 1 (R174, R292, R327, R391, R392). -/
def Obligations.PrivilegedWordsTrapOutsideHandler : Prop :=
  ∀ (s : State) (i : Instr) (d a b n : Reg), quietCord s.cord → trapRoom s →
    let trapped (code : Word) : Prop := ∃ t, exec i s = .next t ∧ t.cord.mode = .trapped ∧ t.cord.trap.cause = code ∧ t.cord.trap.pc = s.cord.frag.pc ∧
      (coreOf t s.cord.id.core).reqs = (coreOf s s.cord.id.core).reqs ++ [s.cord.id] ∧ (∀ r : Reg, reg t r = reg s r) ∧ t.mem = s.mem ∧
      t.clusters = s.clusters
    ((((i = .mfs d n ∨ i = .mts a n) ∧ 48 ≤ n.toNat) ∨
      ((reg s a).toNat < 256 ∧ (((i = .xrd d a b ∨ i = .xwr d a b) ∧ regSel 256 (reg s b) ≠ none) ∨ (i = .xres a b ∧ (reg s b).toNat < 2)))) → trapped 4) ∧
    (((i = .xrd d a b ∨ i = .xwr d a b) ∧ (256 ≤ (reg s a).toNat ∨ regSel 256 (reg s b) = none)) ∨
      (i = .xres a b ∧ (256 ≤ (reg s a).toNat ∨ 2 ≤ (reg s b).toNat)) → trapped 1) ∧
    ((i = .mfs d n ∨ i = .mts a n) → 30 ≤ n.toNat → n.toNat < 48 → trapped 1)

/-- LQ with a count from 1 to 4,096 within the lane text and fewer than 8 blocks queued adds one block with that first index and that count after the others and goes on; with 8 blocks queued it waits with stall code 3; a count out of range traps with 0x01 and a block past the lane text with 0x02, for a cord at rest whose trap goes to the supervisor's queue (R27, R325). -/
def Obligations.LaneBlocksAreEnqueued : Prop :=
  ∀ (s : State) (a b : Reg),
    let first := (reg s a).toNat
    let count := (reg s b).toNat
    let trapped (code : Word) : Prop := quietCord s.cord → trapRoom s →
      ∃ t, exec (.lq a b) s = .next t ∧ t.cord.mode = .trapped ∧ t.cord.trap.cause = code ∧ t.cord.aside = s.cord.frag.queue
    (0 < count → count ≤ 4096 → first + count ≤ s.cord.lwords → s.cord.frag.queue.length < 8 →
      ∃ t blk, exec (.lq a b) s = .next (advance t) ∧ t.cord.frag.queue = s.cord.frag.queue ++ [blk] ∧ blk.first = first ∧ blk.count = count ∧ blk.done = 0 ∧
        { t with cord := s.cord } = s ∧ (∀ r : Reg, reg t r = reg s r)) ∧
    (0 < count → count ≤ 4096 → first + count ≤ s.cord.lwords → 8 ≤ s.cord.frag.queue.length → exec (.lq a b) s = .next (wait 3 s)) ∧
    ((count = 0 ∨ 4096 < count) → trapped 1) ∧
    (0 < count → count ≤ 4096 → s.cord.lwords < first + count → trapped 2)

/-- Groves: outside a body, with no stand of the cluster leaving its grove, GJOIN of a stand in no grove starts a grove with index 0 when its key and PASID have none, returns 0xFFFF_FFFF from a grove of eight, and otherwise takes the lowest free index; a member of the grove gets its own index again and a member of another gets 0xFFFF_FFFE; GLEAVE of a stand in no grove returns 0xFFFF_FFFF, and of a member, with no access pending at its window or through its slots, returns 0 and leaves it in no grove (R105, R106). -/
def Obligations.GrovesComplete : Prop :=
  ∀ (s : State) (d a : Reg), anyInBody s.cord.frag = false →
    (∀ g ∈ (clusterOf s (thisCluster s)).groves, g.leaving = []) →
    let c := thisCluster s
    let me := s.cord.stand
    let mine := groveOf (clusterOf s c) me
    let named := (clusterOf s c).groves.find? (fun g => g.key == reg s a && g.pasid == s.cord.pasid)
    (∀ g k, mine = some (g, k) → g.key = reg s a → g.pasid = s.cord.pasid → exec (.gjoin d a) s = .next (result d (BitVec.ofNat 32 k) s)) ∧
    (∀ g k, mine = some (g, k) → g.key ≠ reg s a ∨ g.pasid ≠ s.cord.pasid → exec (.gjoin d a) s = .next (result d 0xFFFFFFFE s)) ∧
    (mine = none → named = none → ∃ t, exec (.gjoin d a) s = .next (result d 0 t) ∧
      (clusterOf t c).groves = (clusterOf s c).groves ++ [{ pasid := s.cord.pasid, key := reg s a, members := [(0, me)], leaving := [] }] ∧ t.cord = s.cord) ∧
    (∀ g, mine = none → named = some g → 8 ≤ g.members.length → exec (.gjoin d a) s = .next (result d 0xFFFFFFFF s)) ∧
    (∀ g k, mine = none → named = some g → g.members.length < 8 → k < 8 → (∀ m ∈ g.members, m.1 ≠ k) → (∀ j, j < k → ∃ m ∈ g.members, m.1 = j) →
      ∃ t, exec (.gjoin d a) s = .next (result d (BitVec.ofNat 32 k) t) ∧ t.cord = s.cord ∧
        ∃ h ∈ (clusterOf t c).groves, h.key = g.key ∧ h.pasid = g.pasid ∧ h.members = g.members ++ [(k, me)]) ∧
    (mine = none → exec (.gleave d) s = .next (result d 0xFFFFFFFF s)) ∧
    (mine.isSome → leaveWaits s me = false → ∃ t, exec (.gleave d) s = .next (result d 0 t) ∧ groveOf (clusterOf t c) me = none ∧ t.cord = s.cord ∧ t.mem = s.mem)

/-- Scalar accesses: outside a transaction body each word goes on to the next word with one access issued from its PC, placed by its address: LDW and LDD of 4 and 8 bytes at d[a] plus the offset times the size, STW and STD of the register or pair at issue, STN at the data address with its flag at d[a + 1], ATOM at its scope with the operand, the second operand of a compare-and-swap and a result register unless it is a non-returning reduction, SNDM with handle and four payload words at the widest scope, PGMV with its address, destination and status operand (R299, R302, R321, R333, R339 to R341). -/
def Obligations.ScalarAccessesIssue : Prop :=
  ∀ (s : State) (d a b c : Reg) (o : BitVec 10) (f l : BitVec 4), anyInBody s.cord.frag = false →
    let at_ (size : Int) : DWord := BitVec.ofInt 64 ((pair s a).toInt + o.toInt * size)
    let acc (op : MemOp) (scope size : Nat) (dest : Dest) (la : Nat) (lane : LaneAcc) : Access :=
      { stream := .scalar, pc := s.cord.frag.pc, isY := false, op := op, scope := scope, size := size, signed := false, dest := dest, la := la
        lanes := [placeAcc s s.cord op none size lane] }
    let atom (scope : Nat) : Access :=
      acc (.atom f.toNat) scope 4 (if d = 0 ∧ (f.toNat ≤ 7 ∨ f.toNat = 10) then .none else .sreg s.cord.frag.bank d) l.toNat
        { newLane 0 (pair s a) ((reg s b).setWidth 64) with data2 := if f.toNat = 9 then (reg s (b + 1)).setWidth 64 else 0 }
    exec (.ldw d a o l) s = .next (issue (acc .load 0 4 (.sreg s.cord.frag.bank d) l.toNat (newLane 0 (at_ 4) 0)) (advance s)) ∧
    exec (.ldd d a o l) s = .next (issue (acc .load 0 8 (.spair s.cord.frag.bank d) l.toNat (newLane 0 (at_ 8) 0)) (advance s)) ∧
    exec (.stw d a o l) s = .next (issue (acc .store 0 4 .none l.toNat (newLane 0 (at_ 4) ((reg s d).setWidth 64))) (advance s)) ∧
    exec (.std d a o l) s = .next (issue (acc .store 0 8 .none l.toNat (newLane 0 (at_ 8) (pair s d))) (advance s)) ∧
    exec (.stn d a o l) s = .next (issue (acc .notify 4 4 .none l.toNat { newLane 0 (at_ 4) ((reg s d).setWidth 64) with fva := pair s (a + 2) }) (advance s)) ∧
    exec (.atomClu d a b f l) s = .next (issue (atom 1) (advance s)) ∧ exec (.atomDie d a b f l) s = .next (issue (atom 2) (advance s)) ∧
    exec (.atomPkg d a b f l) s = .next (issue (atom 3) (advance s)) ∧ exec (.atomNode d a b f l) s = .next (issue (atom 4) (advance s)) ∧
    exec (.atomPod d a b f l) s = .next (issue (atom 5) (advance s)) ∧
    exec (.sndm a b) s = .next (issue (acc .sndm 5 16 .none 0 { newLane 0 0 (pair s b) with data2 := pair s (b + 2), fva := (reg s a).setWidth 64 }) (advance s)) ∧
    ((reg s b).toNat < 2048 → (reg s b).getLsbD 7 = false →
      exec (.pgmv c a b l) s = .next (issue (acc .pgmv 5 1 .none l.toNat { newLane 0 (pair s a) ((reg s b).setWidth 64) with fva := operandAddr (reg s c) }) (advance s)))

/-- The frame of STW and STD, for a cord at rest. At offset o of the window of stand k: the next state holds the register's 4 bytes, or the pair's 8, little-endian there, every other byte of every window and all of global memory read as before. At a global address whose line this package owns and nothing holds back: with a bank in CACHE mode the bytes stand dirty in the cluster's copy of the line, its other bytes and every other line and cluster are as before, and memory is unchanged until they are written back; with none they stand in memory and every other byte of memory is as before (R102, R103). In each case every scalar register is unchanged, and the word completes (R2, R98, R340). That the store acts when it issues is the model's choice of an instant (log entry 2). -/
def Obligations.StoreStoresItsBytesOnly : Prop :=
  ∀ (s : State) (d a : Reg) (o : BitVec 10) (l : BitVec 4) (size : Nat) (i : Instr) (v : Nat), quietCord s.cord →
    (i = .stw d a o l ∧ size = 4 ∧ v = (reg s d).toNat) ∨ (i = .std d a o l ∧ size = 8 ∧ v = (pair s d).toNat) →
    let va := pair s a + o.signExtend 64 * BitVec.ofNat 64 size
    let rest (t : State) : Prop := (∀ r : Reg, reg t r = reg s r) ∧ t.cord.frag.pc = s.cord.frag.after.getD (s.cord.frag.pc + 4) ∧
      t.cord.vregs = s.cord.vregs ∧ t.cord.preds = s.cord.preds
    (∀ (k : StandKey) (off : Nat), steer s s.cord none va size = .ok (.win k off) → (∀ st, findStand s k = some st → Memory.wf st.window = true) →
      ∃ t, exec i s = .next t ∧ scratchRead (.win k off) size t = v ∧
        (∀ k' b, k' ≠ k ∨ b < off ∨ off + size ≤ b → scratchRead (.win k' b) 1 t = scratchRead (.win k' b) 1 s) ∧
        (∀ x, memGet t.mem x = memGet s.mem x) ∧ rest t) ∧
    (∀ pa, reachesHere s va size 2 pa → cacheTakes (clusterOf s (thisCluster s)) (lineOf pa) → Memory.wf s.mem = true →
      ∃ t, exec i s = .next t ∧ rest t ∧ t.stands = s.stands ∧
        if hasWays (clusterOf s (thisCluster s)) then
          cacheHolds (clusterOf s (thisCluster s)) (clusterOf t (thisCluster s)) (lineOf pa) (pa % 128) size v ∧ t.mem = s.mem ∧
            ∀ c, c ≠ thisCluster s → clusterOf t c = clusterOf s c
        else memRead t.mem pa size = v ∧ ∀ x, x < pa ∨ pa + size ≤ x → memGet t.mem x = memGet s.mem x)

/-- For a cord at rest with its counters at 0. LDW from a window of scratch: the next state has one access in flight, counter 1 reads 1, no byte and no register has changed; its reply then writes the 4 bytes to the destination and lowers the counter, and nothing else changes. LDW from a global address whose line this package owns and nothing holds back: counter 0 reads 1, and the reply writes the bytes that the cluster's copy, or memory, holds; no byte of memory has changed (R103, R115, R321). ATOM there: counter 3 reads 1, and when the reply has come the register has the old value and the word the function's result: at die scope and wider in memory, with no other byte changed and with no copy of the line in the cluster, and at cluster scope in the cluster's copy, dirty, with memory unchanged; a compare that fails changes no byte (R132, R302). -/
def Obligations.LoadsAndAtomicsReturnTheBytes : Prop :=
  ∀ (s : State) (d a : Reg) (o : BitVec 10) (l : BitVec 4), quietCord s.cord → s.cord.live = true →
    d.toNat < 61 → (∀ n, n < 6 → s.cord.paths.getD n 0 = 0) → s.cord.pend = [] →
    let va := pair s a + o.signExtend 64 * 4
    let cl (x : State) := clusterOf x (thisCluster s)
    let bytes (pa : Nat) (w : Word) : Prop := ∀ b, b < 4 → w.toNat / 256 ^ b % 256 = seenByte s (pa + b)
    let issued (t : State) (f : Flight) (n : Nat) : Prop := t.cord.flights = [f] ∧ t.cord.paths.getD n 0 = 1 ∧ ∀ r : Reg, reg t r = reg s r
    let back (t u : State) (f : Flight) (n : Nat) : Prop := exec (.memoryReply s.cord.id f.id .ok) t = .next u ∧ u.cord.flights = [] ∧ u.cord.paths.getD n 0 = 0 ∧
      (∀ r : Reg, r ≠ d → reg u r = reg s r) ∧ u.stands = s.stands
    (∀ (k : StandKey) (off : Nat), d.toNat ≠ 0 → runFailed s k off = false → steer s s.cord none va 4 = .ok (.win k off) →
      ∃ t u f, exec (.ldw d a o l) s = .next t ∧ issued t f 1 ∧ t.mem = s.mem ∧ back t u f 1 ∧
        reg u d = BitVec.ofNat 32 (scratchRead (.win k off) 4 s) ∧ u.mem = s.mem) ∧
    (∀ pa, d.toNat ≠ 0 → reachesHere s va 4 1 pa → cacheTakes (cl s) (lineOf pa) → copyBad (cl s) (lineOf pa) false = false →
      ∃ t u f, exec (.ldw d a o l) s = .next t ∧ issued t f 0 ∧ t.mem = s.mem ∧ back t u f 0 ∧ bytes pa (reg u d) ∧ u.mem = s.mem) ∧
    (∀ (b : Reg) (f : BitVec 4) (i : Instr) (scope pa : Nat), f.toNat ≤ 10 → reachesHere s (pair s a) 4 3 pa → Memory.wf s.mem = true →
      (i = .atomClu d a b f l ∧ scope = 1) ∨ (i = .atomDie d a b f l ∧ scope = 2) ∨ (i = .atomPkg d a b f l ∧ scope = 3) ∨
        (i = .atomNode d a b f l ∧ scope = 4) ∨ (i = .atomPod d a b f l ∧ scope = 5) →
      (if scope = 1 then hasWays (cl s) = true ∧ cacheTakes (cl s) (lineOf pa) ∧ copyBad (cl s) (lineOf pa) false = false
       else waiting s (.writeBack (lineOf pa)) = false ∧ ∀ x ∈ (cl s).lines, x.addr = lineOf pa → x.stack = true) →
      ∃ t u g old, exec i s = .next t ∧ issued t g 3 ∧ back t u g 3 ∧ bytes pa old ∧ (d.toNat ≠ 0 → reg u d = old) ∧
        let y := reg s b
        let new : Word := match f.toNat with
          | 0 => old + y | 1 => if old.slt y then old else y | 2 => if old.slt y then y else old
          | 3 => if old < y then old else y | 4 => if old < y then y else old
          | 5 => old &&& y | 6 => old ||| y | 7 => old ^^^ y | 8 => y | 9 => if old = y then reg s (b + 1) else old | _ => addF32 old y
        if f.toNat = 9 ∧ old ≠ y then (∀ x, seenByte u x = seenByte s x) ∧ u.mem = s.mem
        else if scope = 1 then cacheHolds (cl s) (cl u) (lineOf pa) (pa % 128) 4 new.toNat ∧ u.mem = s.mem
        else memRead u.mem pa 4 = new.toNat ∧ ∀ x, x < pa ∨ pa + 4 ≤ x → memGet u.mem x = memGet s.mem x)

/-- Entering and leaving a body: a TXB or TXB.F outside a transaction, with two split-table entries free, an aligned target and a status register within the allocation, goes on with its record kept (restart its own PC, target, budget, F bit, status register, attempt 1) and every active lane in the body with an empty read log and write buffer; TXA with no active transactional lane only goes on, and with some it dooms each with EXPLICIT and its code, discards its writes and clears its mask bit; TXST with no transactional access outstanding returns %txstatus, whose fields are the numbers of lanes in a body and of the doomed ones among them, whether any is, the fallback lock, the retry arm and the attempt, every other bit 0, and which is 0 with no transaction; TXC with no lane in a body has no effect, but that the two entries are freed that a TXB with an all-zero mask reserved (R146, R147, R149, R150, R344). -/
def Obligations.TransactionWordsComplete : Prop :=
  ∀ (s : State) (d a : Reg) (n : BitVec 4) (c : BitVec 6) (fb : Bool) (i : Instr),
    let f := s.cord.frag
    (f.tx = TxRec.idle → entriesUsed s.cord ≤ 6 → (reg s a).toNat % 4 = 0 → (reg s d).toNat % 256 < s.cord.alloc →
      (i = .txb d a n ∧ fb = false) ∨ (i = .txbF d a n ∧ fb = true) →
      ∃ t, exec i s = .next t ∧ t.cord.frag.pc = f.after.getD (f.pc + 4) ∧ t.cord.frag.mask = f.mask ∧ sameRegs s t ∧
        t.cord.frag.tx.restart = f.pc ∧ t.cord.frag.tx.target = reg s a ∧ t.cord.frag.tx.budget = n.toNat ∧ t.cord.frag.tx.fb = fb ∧
        t.cord.frag.tx.vreg = BitVec.ofNat 8 (reg s d).toNat ∧ t.cord.frag.tx.attempt = 1 ∧ t.cord.frag.tx.qarm = false ∧ t.cord.frag.tx.lock = false ∧
        t.cord.frag.tx.lanes = (lanesOf f.mask).map (fun l => { lane := l, doomed := none, reads := [], writes := [] })) ∧
    ((∀ x ∈ f.tx.lanes, f.mask.getLsbD x.lane = false) → exec (.txa c) s = .next (advance s)) ∧
    (f.tx.lock = false → ∃ t, exec (.txa c) s = .next (advance t) ∧ { t with cord := s.cord } = s ∧ t.cord.frag.tx.lanes.length = f.tx.lanes.length ∧
      (∀ x ∈ f.tx.lanes, x.lane < 96 → f.mask.getLsbD x.lane = true → x.doomed = none →
        t.cord.frag.mask.getLsbD x.lane = false ∧ { x with doomed := some (6, c.toNat), writes := [] } ∈ t.cord.frag.tx.lanes)) ∧
    (txPending s.cord f.id = false → ∃ v, exec (.txst d) s = .next (result d v s) ∧ (f.tx = TxRec.idle → v = 0) ∧
      (f.tx.lanes.length ≤ 96 → f.tx.attempt ≤ 15 → f.tx.lanes ≠ [] ∨ f.tx.qarm = true ∨ f.tx.lock = true →
        v.extractLsb' 0 8 = BitVec.ofNat 8 f.tx.lanes.length ∧ v.extractLsb' 8 8 = BitVec.ofNat 8 (f.tx.lanes.filter (fun x => x.doomed.isSome)).length ∧
        v.getLsbD 16 = !f.tx.lanes.isEmpty ∧ v.getLsbD 17 = f.tx.lock ∧ v.getLsbD 18 = f.tx.qarm ∧ v.getLsbD 19 = false ∧ v.extractLsb' 20 12 = BitVec.ofNat 12 f.tx.attempt)) ∧
    (f.tx.lanes = [] → (f.tx.reserved = false → exec .txc s = .next (advance s)) ∧
      (f.tx.reserved = true → s.cord.frags = [] → exec .txc s = .next (advance { s with cord := { s.cord with frag := { f with tx := TxRec.idle } } })))

/-- TXC of a fragment with one transactional lane, alone in its cord, in its first attempt, with nothing in flight, the fallback lock free, nothing of a node partner's in the directory, no move in progress, no host core that waits with a ticket, and nothing dirty to release: where every logged word still holds its logged value, the buffered bytes are in memory, the record is idle and the fragment goes on; where one does not, with attempts left, no byte changes and the lane stands at the restart point as the retry arm, owned by it alone (R149, R151). -/
def Obligations.CommitPublishesOrRetries : Prop :=
  ∀ (s : State) (x : LaneTx), quietCord { s.cord with frag := { s.cord.frag with tx := TxRec.idle } } → s.cord.frag.tx.lanes = [x] → x.doomed = none → x.lane < 96 →
    s.cord.frag.tx.qarm = false → s.cord.frag.tx.lock = false → s.cord.frag.queue = [] → s.cord.frag.arms = [] → s.cord.frag.after = none →
    (∀ n, n < 6 → s.cord.paths.getD n 0 = 0) → ownPending s = false → s.almanac.lock = .free → s.fabric.directory = [] → s.fabric.moves = [] →
    (clusterOf s (thisCluster s)).lines = [] → s.fabric.outstanding = [] → s.mgmt.watches = [] → (∀ h ∈ s.hosts.toList, h.ticket = none) →
    let same := x.reads.all (fun r => memRead s.mem r.1 4 == r.2.toNat)
    (same = true → ∃ t, exec .txc s = .next t ∧ t.mem = x.writes.foldl (fun m w => memWriteMask m w.1 4 w.2.1.toNat w.2.2.toNat) s.mem ∧
      t.cord.frag.tx = TxRec.idle ∧ t.cord.frag.pc = s.cord.frag.pc + 4 ∧ t.cord.frags = [] ∧ t.cord.frag.mask = s.cord.frag.mask ∧ t.almanac.tickets = s.almanac.tickets + 1) ∧
    (same = false → s.cord.frag.tx.attempt < s.cord.frag.tx.budget → ∃ t, exec .txc s = .next t ∧ t.mem = s.mem ∧
      ∃ q ∈ allFrags t.cord, q.pc = s.cord.frag.tx.restart ∧ q.tx.qarm = true ∧ q.mask = (1#96 <<< x.lane) ∧ q.owned = (1#96 <<< x.lane) ∧
        ∀ g ∈ allFrags t.cord, g.id ≠ q.id → g.owned &&& q.owned = 0)

/-- The handler on a cord of the served stand that is stopped and drained: with the selector of its slot and core in s[sa] and the number class + 16 x index + 4,096 x lane in s[sb], XRD returns the bank-0 register (class 0), the lane of an allocated lane register (class 2) or the mask word of a predicate (class 3); XWR writes that bank-0 register or lane and goes on, every other cord as before; XRES with action 0 of a scalar-stream trap whose resume point is a multiple of 4 and which replays nothing lets the cord run on there and ends the request (R390 to R392). -/
def Obligations.HandlerReachesStoppedCords : Prop :=
  ∀ (s : State) (d v a b : Reg) (c : Cord) (k l : Nat), s.cord.id.handler = true → selected s (reg s a) = some c → reachable c = true →
    (∀ x ∈ s.cords, x.id = c.id → x = c) →
    let sel (cls : Nat) : Prop := (reg s b).toNat = cls + 16 * k + 4096 * l
    (sel 0 → 0 < k → k < 61 → l = 0 → exec (.xrd d a b) s = .next (result d (c.bank0.getD k 0) s) ∧
      ∃ t e, exec (.xwr v a b) s = .next (advance t) ∧ e ∈ t.cords ∧ e = { c with bank0 := c.bank0.setIfInBounds k (reg s v) } ∧
        (∀ x ∈ t.cords, x ≠ e → x ∈ s.cords) ∧ { t with cords := s.cords } = s) ∧
    (sel 2 → k < c.alloc → c.alloc ≤ 256 → l < 96 → exec (.xrd d a b) s = .next (result d (laneGet (vreg c (BitVec.ofNat 8 k)) l) s) ∧
      ∃ t e, exec (.xwr v a b) s = .next (advance t) ∧ e ∈ t.cords ∧ e.id = c.id ∧ laneGet (vreg e (BitVec.ofNat 8 k)) l = reg s v ∧
        (∀ r m, r ≠ BitVec.ofNat 8 k ∨ m ≠ l → laneGet (vreg e r) m = laneGet (vreg c r) m)) ∧
    (sel 3 → k < 8 → l < 3 → exec (.xrd d a b) s = .next (result d (maskWord (predOf c (BitVec.ofNat 3 k)) l) s)) ∧
    (reg s b = 0 → c.mode = .trapped → c.trap.info.getLsbD 0 = false → c.trap.resume.toNat % 4 = 0 → c.trapReplay = .none → c.frags = [] → c.frag.faults = [] →
      c.trapFrag = c.frag.id → (coreOf s (thisCore s)).serving = some c.id →
      ∃ t e, exec (.xres a b) s = .next t ∧ e ∈ t.cords ∧ e.id = c.id ∧ e.mode = .running ∧ e.frag.pc = c.trap.resume ∧ e.bank0 = c.bank0 ∧ e.vregs = c.vregs ∧
        (coreOf t (thisCore s)).serving = none ∧ t.mem = s.mem)

/-- The roads into the handler: SUPERVISOR_REQUEST with an image loaded, no request served and a queued cord resident starts the core's handler at the entry with every lane, the cord's selector in s1 and the request as the one served; TRAP_DELIVERY to a draining cord that STOP has not frozen, with nothing in flight and one fault that goes to the supervisor writes the code, the PC and the lanes of the fault into its record and queues its identity; an illegal word of the scalar stream traps with 0x01, its own PC and the next word as resume point, and an illegal lane word or pair traps with 0x01 naming the slots that are illegal, with no register and no memory changed (R56, R178, R181, R291, R390). -/
def Obligations.TrapsReachTheHandler : Prop :=
  (∀ (s : State) (k : CoreId) (i : CordId) (rest : List CordId) (im : HandlerImage) (c : Cord), (coreOf s k).serving = none → (coreOf s k).reqs = i :: rest →
    (coreOf s k).handler = some im → (allCords s).find? (fun x => x.id == i) = some c → i.core = k → i.handler = false →
    ∃ t, exec (.supervisorRequest k) s = .next t ∧ t.cord.id = { core := k, slot := 0, handler := true } ∧ t.cord.mode = .running ∧
      t.cord.frag.pc = BitVec.ofNat 32 im.entry ∧ t.cord.frag.mask = ~~~0 ∧ reg t 1 = BitVec.ofNat 32 (64 * (k.toNat % 4) + i.slot.toNat) ∧
      t.cord.text = BitVec.ofNat 64 im.base ∧ (coreOf t k).serving = some i ∧ (coreOf t k).reqs = rest ++ (coreOf s k).held.take 1 ∧ t.mem = s.mem) ∧
  (∀ (s : State) (p : PendFault), s.cord.live = true → s.cord.mode = .draining → s.cord.flights = [] → s.cord.frags = [] → s.cord.frag.faults = [p] →
    s.cord.handlerFlag = false → s.cord.id.handler = false → p.deferred = false → p.replay = .none → p.code < 64 → userCode p.code = false → trapRoom s →
    ∃ t, exec (.trapDelivery s.cord.id) s = .next t ∧ t.cord.mode = .trapped ∧ t.cord.trap.cause = BitVec.ofNat 32 p.code ∧ t.cord.trap.pc = p.pc ∧
      t.cord.trap.lanes = p.lanes ∧ t.cord.trap.addr = p.addr ∧ t.cord.frag.faults = [] ∧
      (coreOf t s.cord.id.core).reqs = (coreOf s s.cord.id.core).reqs ++ [s.cord.id] ∧ sameRegs s t) ∧
  (∀ (s : State) (w : BitVec 32) (u : BitVec 96) (x y : Bool), quietCord s.cord → trapRoom s →
    (∃ t, exec (.illegalInstruction (.scalar w)) s = .next t ∧ t.cord.mode = .trapped ∧ t.cord.trap.cause = 1 ∧ t.cord.trap.pc = s.cord.frag.pc ∧
      t.cord.trap.resume = s.cord.frag.after.getD (s.cord.frag.pc + 4) ∧ t.cord.trap.info.getLsbD 0 = false ∧ sameRegs s t) ∧
    (∃ t, exec (.illegalInstruction (.pair u x y)) s = .next t ∧ t.cord.mode = .trapped ∧ t.cord.trap.cause = 1 ∧ t.cord.trap.info.getLsbD 0 = true ∧
      t.cord.trap.info.getLsbD 1 = x ∧ t.cord.trap.info.getLsbD 2 = y ∧ sameRegs s t) ∧
    (∃ t, exec (.illegalInstruction (.lane u)) s = .next t ∧ t.cord.mode = .trapped ∧ t.cord.trap.cause = 1 ∧ t.cord.trap.info.getLsbD 0 = true ∧ sameRegs s t))

/-- Host transactions: HTXB outside one starts it (x[rd] = 0, checkpoint of the old registers, target its own address + 2 x displacement, next word), and inside one aborts it with NEST; HTXB.F outside one takes the free lock nobody waits for and writes x[rd] := 0; HTXC in one that holds no ticket yet, with the lock free, no other core with a ticket, nothing of the node partners' in the directory and no move, takes a ticket and publishes the write set, under the lock it releases it, and outside both it only goes on; HTXA in one restores the checkpoint, writes the status word with EXPLICIT and its code and goes to the target, elsewhere it only goes on; HTXS writes the status word (R144, R156, R319, R320). -/
def Obligations.HostTransactionsComplete : Prop :=
  ∀ (s : State) (i : BitVec 12) (d : BitVec 5) (c : BitVec 6),
    let h := s.hosts[s.hostNo.val]'s.hostNo.isLt
    let at_ (t : State) : HostCore := t.hosts[s.hostNo.val]'s.hostNo.isLt
    let same (t : State) : Prop := t.mem = s.mem ∧ t.cord = s.cord ∧ t.cords = s.cords ∧ t.stands = s.stands ∧ t.hostNo = s.hostNo
    (h.active = false → h.lock = false → ∃ t, exec (.htxb i d) s = .next t ∧ same t ∧ t.almanac = s.almanac ∧ (at_ t).active = true ∧ (at_ t).pc = h.pc + 4 ∧
      (at_ t).regs = writeX h.regs d 0 ∧ (at_ t).checkpoint = h.regs ∧ (at_ t).target = h.pc + BitVec.ofInt 64 (2 * i.toInt) ∧ (at_ t).rd = d ∧
      (at_ t).reads = [] ∧ (at_ t).writes = []) ∧
    (h.active = true → ∃ t, exec (.htxb i d) s = .next t ∧ same t ∧ (at_ t).active = false ∧ (at_ t).pc = h.target ∧ (at_ t).regs = writeX h.checkpoint h.rd 0x900 ∧
      (at_ t).writes = []) ∧
    (h.active = false → h.lock = false → s.almanac.lock = .free → s.almanac.waiters = [] → ∃ t, exec (.htxbF d) s = .next t ∧ same t ∧ t.almanac.lock = .host s.hostNo ∧
      (at_ t).lock = true ∧ (at_ t).pc = h.pc + 4 ∧ (at_ t).regs = writeX h.regs d 0) ∧
    (h.active = false → h.lock = false → ∃ t, exec .htxc s = .next t ∧ same t ∧ t.almanac = s.almanac ∧ (at_ t).pc = h.pc + 4 ∧ (at_ t).regs = h.regs) ∧
    (h.lock = true → ∃ t, exec .htxc s = .next t ∧ same t ∧ t.almanac.lock = .free ∧ (at_ t).lock = false ∧ (at_ t).pc = h.pc + 4) ∧
    (h.active = true → h.lock = false → (∀ g ∈ s.hosts.toList, g.ticket = none) → s.almanac.lock = .free → s.fabric.directory = [] → s.fabric.moves = [] →
      ∃ t, exec .htxc s = .next t ∧ t.mem = h.writes.foldl (fun m x => memSet m x.1 x.2) s.mem ∧ (at_ t).active = false ∧ (at_ t).pc = h.pc + 4 ∧ (at_ t).regs = h.regs ∧
        (at_ t).last = 0 ∧ t.almanac.tickets = s.almanac.tickets + 1 ∧ t.cord = s.cord ∧ t.cords = s.cords) ∧
    (h.active = true → ∃ t, exec (.htxa c) s = .next t ∧ same t ∧ (at_ t).active = false ∧ (at_ t).pc = h.target ∧ (at_ t).writes = [] ∧
      (at_ t).regs = writeX h.checkpoint h.rd (BitVec.ofNat 64 (c.toNat * 2 ^ 24 + 0x600))) ∧
    (h.active = false → ∃ t, exec (.htxa c) s = .next t ∧ same t ∧ (at_ t).pc = h.pc + 4 ∧ (at_ t).regs = h.regs) ∧
    (∃ t, exec (.htxs d) s = .next t ∧ same t ∧ (at_ t).pc = h.pc + 4 ∧ (at_ t).regs = writeX h.regs d (if h.active then 1 else h.last.setWidth 64))

/-- Matrix commands: outside a body, with the tile among the cord's and fewer than 16 commands queued at the partition, a command whose operands pass the checks of R189 (stride a multiple of 16 and long enough, every range in one window and aligned) and whose formats are a valid pair is the last of the queue with its operation, tile, operands and strides, counts in the batch of the next LOT, and leaves registers and memory as they were; with 16 commands queued MMZ waits with stall code 5 (R185 to R194). -/
def Obligations.MatrixCommandsAreQueued : Prop :=
  ∀ (s : State) (a : Reg) (n x y k l : BitVec 4) (wa wb wsa wsb : WinPos), anyInBody s.cord.frag = false → n.toNat < s.cord.tiles →
    let mq := (partOf s (thisPart s)).mq
    let queued (i : Instr) (op : MatOp) (pa pb psa psb : WinPos) (sa sb : Nat) : Prop := mq.length < 16 →
      ∃ t, exec i s = .next t ∧ (partOf t (thisPart s)).mq = mq ++ [{ cord := s.cord.id, pc := s.cord.frag.pc, frag := s.cord.frag.id, stand := s.cord.stand, op := op, tile := n.toNat, a := pa, b := pb, sa := psa, sb := psb, strideA := sa, strideB := sb, batch := s.cord.lots, fork := s.nextId, running := false, snap := [] }] ∧
        t.cord.frag.pc = s.cord.frag.after.getD (s.cord.frag.pc + 4) ∧ sameRegs s t ∧ (∃ b ∈ t.cord.batches, b.n = s.cord.lots ∧ 0 < b.left)
    let none_ := noWin s
    let strideA := (blockReg s a 4).toNat % 65536
    let strideB := (blockReg s a 4).toNat / 65536
    let stride := (blockReg s a 1).toNat
    let kk := 32 * (k.toNat + 1)
    let z := (blockReg s a 0).toNat
    let product : Prop := rowsWin s (blockReg s a 0) strideA (kk * matWidth x.toNat / 8) = some wa ∧ rowsWin s (blockReg s a 1) strideB (kk * matWidth y.toNat / 8) = some wb ∧
      scaleWin s (blockReg s a 2) x.toNat kk = some wsa ∧ scaleWin s (blockReg s a 3) y.toNat kk = some wsb
    let rows (len : Nat) : Prop := stride % 16 = 0 ∧ len ≤ stride ∧ winRange s z (63 * stride + len) 16 = some wa
    (pairValid x.toNat y.toNat = true → product → queued (.mma a n x y k l) (.mma x.toNat y.toNat kk) wa wb wsa wsb strideA strideB) ∧
    (lutValid x.toNat y.toNat = true → product → queued (.mmlut a n x y k l) (.mmlut x.toNat y.toNat kk) wa wb wsa wsb strideA strideB) ∧
    (pairValid x.toNat y.toNat = true → x.toNat < 8 → z < 32 → z % 16 ≠ n.toNat → z % 16 < s.cord.tiles → rowsWin s (blockReg s a 1) strideB (64 * matWidth y.toNat / 8) = some wb →
      scaleWin s (blockReg s a 3) y.toNat 64 = some wsb →
      queued (.mmax a n x y l) (.mmax x.toNat y.toNat (z % 16) (decide (16 ≤ z)) (blockReg s a 2)) none_ wb none_ wsb 0 strideB) ∧
    queued (.mmz n l) .mmz none_ none_ none_ none_ 0 0 ∧
    (rows 256 → queued (.mmld a n l) .mmld wa none_ none_ none_ stride 0) ∧
    (rows (64 * matWidth x.toNat / 8) → queued (.mmst a n x l) (.mmst x.toNat false (blockReg s a 2)) wa none_ none_ none_ stride 0 ∧
      queued (.mmstRelu a n x l) (.mmst x.toNat true (blockReg s a 2)) wa none_ none_ none_ stride 0) ∧
    (16 ≤ mq.length → exec (.mmz n l) s = .next (wait 5 s))

/-- The matrix engine: MATRIX_COMMAND_START marks the oldest command, once the cord's older accesses are done and none is pending in the fault-deferral log, and keeps the windows as they are; MATRIX_COMMAND_END of a running command of the acting cord removes it and writes its tile: zeros for MMZ, the words of the 64 rows for MMLD, the old words plus the signed products summed for an MMA of INT8 operands, modulo 2^32; MMST in FP32 stores the 64 words of each row at its stride and no other byte of any window; no byte of global memory changes (R83, R189, R194, R195, R198). -/
def Obligations.MatrixCommandsTakeEffect : Prop :=
  ∀ (s : State) (p : PartId) (m : MatCmd) (rest : List MatCmd), (partOf s p).mq = m :: rest → s.cord.live = true → s.cord.id = m.cord → s.cord.stand = m.stand →
    (m.running = false → s.cord.flights = [] → ownPending s = false → ∃ t n, exec (.matrixCommandStart p) s = .next t ∧ (partOf t p).mq = n :: rest ∧ n.running = true ∧
      n.op = m.op ∧ n.tile = m.tile ∧ n.a = m.a ∧ n.b = m.b ∧ t.mem = s.mem ∧ t.cord = s.cord ∧
      (∀ x ∈ n.snap, ∃ st ∈ s.stands, st.key = x.1 ∧ st.window = x.2)) ∧
    (m.running = true → m.cord.part = p → m.tile < 16 → (partOf s p).dead = [] → (∀ c : ClusterId, (clusterOf s c).failed = []) →
      let reach (w : WinPos) : Prop := winReach s m.cord.core.cluster m.stand w.key = true ∧ ∀ st, findStand s w.key = some st → Memory.wf st.window = true ∧
        m.snap.find? (fun x => x.1 == w.key) = some (w.key, st.window)
      let byte (w : WinPos) (o : Nat) : Nat := scratchRead (.win w.key (w.off + o)) 1 s
      let word (u : State) (i j : Nat) : Word := tileWord (u.cord.acc.getD m.tile (Vector.replicate 4096 0)) i j
      let ends (q : State → Prop) : Prop := ∃ t, exec (.matrixCommandEnd p) s = .next t ∧ (partOf t p).mq = rest ∧ t.mem = s.mem ∧ q t
      (m.op = .mmz → ends (fun t => ∀ i j, i < 64 → j < 64 → word t i j = 0)) ∧
      (m.op = .mmld → reach m.a → ends (fun t => ∀ i j, i < 64 → j < 64 →
        word t i j = BitVec.ofNat 32 (scratchRead (.win m.a.key (m.a.off + m.strideA * i + 4 * j)) 4 s))) ∧
      (∀ k, m.op = .mma 8 8 k → reach m.a → reach m.b → ends (fun t => ∀ i j, i < 64 → j < 64 →
        word t i j = BitVec.ofInt 32 ((word s i j).toInt + (List.range k).foldl (fun z x =>
          z + signedOf 8 (byte m.a (m.strideA * i + x)) * signedOf 8 (byte m.b (m.strideB * j + x))) 0))) ∧
      (∀ r sc, m.op = .mmst 0 r sc → winReach s m.cord.core.cluster m.stand m.a.key = true → (∀ st, findStand s m.a.key = some st → Memory.wf st.window = true) → 256 ≤ m.strideA →
        ends (fun t => t.cord.acc = s.cord.acc ∧ (∀ i j, i < 64 → j < 64 → scratchRead (.win m.a.key (m.a.off + m.strideA * i + 4 * j)) 4 t = (word s i j).toNat) ∧
          (∀ key o, (key ≠ m.a.key ∨ ∀ i, i < 64 → o < m.a.off + m.strideA * i ∨ m.a.off + m.strideA * i + 256 ≤ o) →
            scratchRead (.win key o) 1 t = scratchRead (.win key o) 1 s))))

/-- Landing maps and copies: with its map in a window at a multiple of 64, LMTST, with nothing in flight, issues the test of one map word at its bank; LMWT goes on at once when its mask is empty, and, with nothing in flight, once every bit of its mask is set there, and waits with stall code 8 while one is not; LMCLR, with nothing in flight, clears the bits of its mask in that word and changes no other byte; a CPY that passes its checks, with nothing in flight, opens an assembly of its descriptor, or adds to the open one, its slice, starts it with the slice that completes EXPECT, and leaves the number of slices in the descriptor's ARRIVED (R199 to R202, R313, R323). -/
def Obligations.CopiesAndLandingMapsComplete : Prop :=
  ∀ (s : State) (a : Reg) (w z : BitVec 3) (l : BitVec 4), anyInBody s.cord.frag = false →
    (∀ p, mapWord s a w = some p → (∀ st, findStand s p.key = some st → Memory.wf st.window = true) →
      let v : DWord := BitVec.ofNat 64 (scratchRead (.win p.key p.off) 8 s)
      let mask := blockPair s a 1
      (s.cord.flights = [] → exec (.lmtst a w l) s = .next (issue { stream := .scalar, pc := s.cord.frag.pc, isY := false, op := .lmtst, scope := 1, size := 8, signed := false, dest := .spair s.cord.frag.bank (a + 1), la := l.toNat, lanes := [{ newLane 0 (winAddr p 0) mask with tgt := .win p.key p.off }] } (advance s))) ∧
      (mask = 0 → exec (.lmwt a w) s = .next (advance s)) ∧
      (v &&& mask = mask → s.cord.flights = [] → exec (.lmwt a w) s = .next (advance s)) ∧
      (v &&& mask ≠ mask → exec (.lmwt a w) s = .next (wait 8 s)) ∧
      (s.cord.flights = [] → ∃ t, exec (.lmclr a w) s = .next t ∧ t.cord.frag.pc = s.cord.frag.after.getD (s.cord.frag.pc + 4) ∧ sameRegs s t ∧
        scratchRead (.win p.key p.off) 8 t = (v &&& ~~~mask).toNat ∧
        (∀ k o, k ≠ p.key ∨ o < p.off ∨ p.off + 8 ≤ o → scratchRead (.win k o) 1 t = scratchRead (.win k o) 1 s))) ∧
    (∀ q, copyCheck s a = some q → s.cord.flights = [] → (∀ st, findStand s q.desc.key = some st → Memory.wf st.window = true) →
      let cl := clusterOf s (thisCluster s)
      let slice (sl : Slice) : Prop := sl.src = blockPair s a 1 ∧ sl.off = (blockReg s a 3).toNat ∧ sl.count = (blockReg s a 4).toNat ∧ sl.cord = s.cord.id ∧ sl.scope = z.toNat
      let goes (t : State) : Prop := t.cord.frag.pc = s.cord.frag.after.getD (s.cord.frag.pc + 4) ∧ sameRegs s t
      (openCopy cl q.desc = none → (cl.copies.filter (fun c => !c.started)).length < 32 →
        ∃ t c sl, exec (.cpy a z l) s = .next t ∧ goes t ∧ (clusterOf t (thisCluster s)).copies = cl.copies ++ [c] ∧ c.desc = q.desc ∧ c.slices = [sl] ∧ slice sl ∧
          c.expect = q.d.expect ∧ c.started = decide (q.d.expect ≤ 1) ∧ scratchRead (.win q.desc.key (q.desc.off + 24)) 2 t = 1) ∧
      (∀ c, openCopy cl q.desc = some c → c.slices.length < 1024 →
        ∃ t d sl, exec (.cpy a z l) s = .next t ∧ goes t ∧ d ∈ (clusterOf t (thisCluster s)).copies ∧ d.id = c.id ∧ d.slices = c.slices ++ [sl] ∧ slice sl ∧
          d.started = decide (c.expect ≤ c.slices.length + 1) ∧ scratchRead (.win q.desc.key (q.desc.off + 24)) 2 t = c.slices.length + 1))

/-- COPY_CHUNK_LANDING of a started copy with one slice of 16 bytes between two windows that may be reached, the destination by the opener's stand or by another that still takes part, and hold no failed run: the destination then holds the 16 bytes the source held and all 512 bits of the map are set; once the map is full, the next landing writes STATUS 0xFF, without a barrier ends the copy, and with one arrives there by ARVN next and then ends it (R200 to R202). That the last chunk sets all 512 bits, those of chunks that are not written among them, and that the destination, the map, STATUS and the barrier are reached through the opener's stand, or another's once that has ended, are the model's choices (log entry 27). -/
def Obligations.CopyLandsItsBytes : Prop :=
  ∀ (s : State) (c : ClusterId) (x : Copy), x.started = true → (clusterOf s c).copies.find? (fun y => y.id == x.id && y.started) = some x → x.fail = none →
    (∀ k : ClusterId, (clusterOf s k).failed = []) → (∀ st ∈ s.stands, Memory.wf st.window = true) →
    let gone (t : State) : Prop := ∀ y ∈ (clusterOf t c).copies, y.id ≠ x.id
    let by_ := copyStand s x
    (∀ sl ws wd, x.step = 0 → x.chunk = none → x.landed = 0 → x.slices = [sl] → sl.off = 0 → sl.count = 16 → sl.scope < 2 → sl.win = some ws → x.win = some wd →
      (∀ d ∈ allCords s, d.flights = []) → (∀ k : CoreId, (coreOf s k).log = []) → winReach s c sl.stand ws.key = true → winReach s c by_ wd.key = true → winReach s c by_ x.map.key = true →
      (wd.key ≠ x.map.key ∨ wd.off + 16 ≤ x.map.off ∨ x.map.off + 64 ≤ wd.off) →
      ∃ t, exec (.copyChunkLanding c x.id 0) s = .next t ∧ scratchRead (.win wd.key wd.off) 16 t = scratchRead (.win ws.key ws.off) 16 s ∧
        scratchRead (.win x.map.key x.map.off) 64 t = 2 ^ 512 - 1 ∧ (∃ y ∈ (clusterOf t c).copies, y.id = x.id ∧ y.step = 1) ∧ t.mem = s.mem) ∧
    (∀ ch, x.step = 1 → winReach s c by_ x.desc.key = true →
      ∃ t, exec (.copyChunkLanding c x.id ch) s = .next t ∧ scratchRead (.win x.desc.key (x.desc.off + 26)) 1 t = 255 ∧ t.mem = s.mem ∧
        (x.barrier = none → gone t) ∧ (x.barrier.isSome → ∃ y ∈ (clusterOf t c).copies, y.id = x.id ∧ y.step = 2)) ∧
    (∀ ch w, x.step = 2 → x.barrier = some w → winReach s c by_ w.key = true →
      ∃ t, exec (.copyChunkLanding c x.id ch) s = .next t ∧ gone t ∧ t.mem = s.mem ∧
        scratchRead (.win w.key w.off) 8 t = arrive x.arvn (scratchRead (.win w.key w.off) 8 s))

/-- Acceptance by the gather and the reduction unit: GTH and SCT whose operand block passes the checks of R207, with nothing in flight and fewer than 64 commands at the die, add a command with their list, count, table and element size, GTH after clearing its landing map; a count of 0 traps precisely with 0x10 and is replayed; with 64 commands they wait with stall code 5; RDXT and RDXA with a slot at a multiple of 64 in the global aperture issue one access with index and value, and wait with stall code 5 while the queue of their slot's unit in this package is full (R185, R186, R207, R208, R211). -/
def Obligations.GathersAndReductionsAreAccepted : Prop :=
  ∀ (s : State) (a : Reg) (c : BitVec 2) (z : BitVec 3) (x : BitVec 1) (l : BitVec 4), anyInBody s.cord.frag = false →
    let gs := (dieOf s (thisDie s)).gathers
    let accepted (i : Instr) (scatter : Bool) (q : State → GatherCmd → Prop) : Prop := ∃ t g, exec i s = .next t ∧ (dieOf t (thisDie s)).gathers = gs ++ [g] ∧
      g.scatter = scatter ∧ g.list = blockPair s a 0 ∧ g.count = (blockReg s a 2).toNat ∧ g.table = blockPair s a 3 ∧ g.size = (blockReg s a 5).toNat ∧
      g.scope = z.toNat ∧ g.idx64 = decide (x = 1) ∧ g.next = 0 ∧ g.first = none ∧ g.cord = s.cord.id ∧ q t g ∧
      t.cord.frag.pc = s.cord.frag.after.getD (s.cord.frag.pc + 4) ∧ sameRegs s t
    let issues (i : Instr) (stage : Nat) : Prop := exec i s = .next (issue { stream := .scalar, pc := s.cord.frag.pc, isY := false, op := .rdx, scope := z.toNat, size := 64, signed := false, dest := .none, la := l.toNat, lanes := [{ newLane 0 (blockPair s a 0) (blockPair s a 3) with data2 := (blockReg s a 2).setWidth 64, stage := stage }] } (advance s))
    (gs.length < 64 → s.cord.flights = [] →
      (∀ b, buildGather false (x == 1) 0 z.toNat a s = some b → (∀ st, findStand s b.map.key = some st → Memory.wf st.window = true) →
        accepted (.gth a z x l) false (fun t g => g.map = b.map ∧ scratchRead (.win g.map.key g.map.off) 64 t = 0)) ∧
      (∀ b, buildGather true (x == 1) c.toNat z.toNat a s = some b → accepted (.sct a c z x l) true (fun t g => g.combine = c.toNat ∧ t.stands = s.stands))) ∧
    (gs.length < 64 → blockReg s a 2 = 0 → quietCord s.cord → trapRoom s →
      (∃ t, exec (.gth a z x l) s = .next t ∧ t.cord.mode = .trapped ∧ t.cord.trap.cause = 0x10 ∧ t.cord.trap.pc = s.cord.frag.pc ∧ t.cord.trapReplay = .reissue ∧ sameRegs s t) ∧
      (∃ t, exec (.sct a c z x l) s = .next t ∧ t.cord.mode = .trapped ∧ t.cord.trap.cause = 0x10 ∧ t.cord.trap.pc = s.cord.frag.pc ∧ t.cord.trapReplay = .reissue ∧ sameRegs s t)) ∧
    (64 ≤ gs.length → exec (.gth a z x l) s = .next (wait 5 s) ∧ exec (.sct a c z x l) s = .next (wait 5 s)) ∧
    ((blockPair s a 0).toNat % 64 = 0 → globalRange (blockPair s a 0) 64 = true →
      (unitFull s (blockPair s a 0).toNat = false → issues (.rdxt a z l) 0 ∧ issues (.rdxa a z l) 1) ∧
      (unitFull s (blockPair s a 0).toNat = true → exec (.rdxt a z l) s = .next (wait 5 s) ∧ exec (.rdxa a z l) s = .next (wait 5 s)))

/-- GATHER_COMPLETE and SCATTER_COMPLETE of a command at the end of its list write its status word, 0x8000_0000 plus code and position of the earliest failure, and remove it; at an element whose index lies in a reachable window, a gather leaves in its place the bytes read at table + index x size and goes to the next position, a scatter without combining writes its data at the element's place, where its translation is at hand and nothing holds the access back: into its cluster's copy of the line, which memory does not see yet, or, with no way in that cluster cache, into memory, in both cases no other byte. REDUCTION_CONTRIBUTION in arrival order to an open slot of kind i32 owned here adds the value to RESULT modulo 2^32, raises ARRIVED by 1 and, at EXPECT, sets DONE (R208 to R213). That the unit takes the elements in ascending position, which R208 does not force, is the model's choice (log entry 26). -/
def Obligations.GatherAndReductionUnitsTakeEffect : Prop :=
  (∀ (s : State) (d : DieId) (g : GatherCmd), (dieOf s d).gathers.find? (fun x => x.id == g.id && x.scatter == g.scatter) = some g →
    (∀ x ∈ (dieOf s d).gathers, x.id = g.id → x = g) → g.scope < 2 → (∀ c ∈ allCords s, c.flights = []) → (∀ k : CoreId, (coreOf s k).log = []) → (∀ k : ClusterId, (clusterOf s k).failed = []) →
    (∀ st ∈ s.stands, Memory.wf st.window = true) →
    let i : Instr := if g.scatter then .scatterComplete d g.id else .gatherComplete d g.id
    let reach (w : WinPos) : Prop := winReach s g.cord.core.cluster g.stand w.key = true
    (g.count ≤ g.next → (∀ f, g.first = some f → f.1 < 2 ^ 24) → reach g.status → ∃ t, exec i s = .next t ∧ (∀ x ∈ (dieOf t d).gathers, x.id ≠ g.id) ∧ t.mem = s.mem ∧
      scratchRead (.win g.status.key g.status.off) 4 t = 2 ^ 31 + (match g.first with | some (pos, code) => code % 128 * 2 ^ 24 + pos | none => 0)) ∧
    (∀ w, g.next < g.count → g.listWin = some w → reach w → reach g.data →
      let n := if g.idx64 then 8 else 4
      let e := g.table + BitVec.ofNat 64 (scratchRead (.win w.key (w.off + g.next * n)) n s * g.size)
      globalRange e g.size = true →
      (g.scatter = false → ∀ v, engRead (gatherEng g) e g.size s = (.ok v, s) → v < 2 ^ (8 * g.size) → g.map.key ≠ g.data.key → ∃ t, exec i s = .next t ∧ t.mem = s.mem ∧
        scratchRead (.win g.data.key (g.data.off + g.next * g.size)) g.size t = v ∧ ∃ x ∈ (dieOf t d).gathers, x = { g with next := g.next + 1 }) ∧
      (∀ te, g.scatter = true → g.combine = 0 → 0 < g.size → tlbFind (dieOf s g.cord.core.cluster.die).ats g.pasid e.toNat 2 = some te →
        let pa := tlbPhys te e.toNat
        let k := g.cord.core.cluster
        let cl := clusterOf s k
        let data := scratchRead (.win g.data.key (g.data.off + g.next * g.size)) g.size s
        e.toNat % 128 + g.size ≤ 128 → pa % 128 + g.size ≤ 128 → calm s → ownsAt s pa → s.englines = [] → Memory.wf s.mem = true → cacheTakes cl (lineOf pa) →
        ∃ t, exec i s = .next t ∧ (∃ x ∈ (dieOf t d).gathers, x = { g with next := g.next + 1 }) ∧ t.stands = s.stands ∧
          (hasWays cl = true → t.mem = s.mem ∧ cacheHolds cl (clusterOf t k) (lineOf pa) (pa % 128) g.size data) ∧
          (hasWays cl = false → memRead t.mem pa g.size = data ∧ ∀ x, x < pa ∨ pa + g.size ≤ x → memGet t.mem x = memGet s.mem x)))) ∧
  (∀ (s : State) (d : DieId) (k : Contribution) (rest : List Contribution) (lt : Latch), (dieOf s d).rdx = k :: rest → k.tree = false → k.reply = none → Memory.wf s.mem = true →
    s.fabric.directory = [] → s.fabric.moves = [] → s.failed = [] → s.leaves = [] → s.latches.find? (fun l => l.slot == k.slot) = some lt → lt.slot = k.slot → lt.kind = 2 →
    let get (t : State) (o : Nat) : Nat := memRead t.mem (k.slot + o) 4
    get s 20 < 2 ^ 31 → 0 < get s 16 → get s 16 < 65536 →
    ∃ t, exec (.reductionContribution d) s = .next t ∧ (dieOf t d).rdx = rest ∧ get t 24 = (get s 24 + k.value.toNat) % 2 ^ 32 ∧ get t 28 = get s 28 ∧ get t 16 = get s 16 + 1 ∧
      get t 20 = (if get s 16 + 1 = lt.expect then 2 ^ 31 else get s 20) ∧ (∀ x, x < k.slot + 16 ∨ k.slot + 32 ≤ x → memGet t.mem x = memGet s.mem x))

/-- Neighbour-engine words: outside a body, with nothing in flight and fewer than 16 commands at the quadrant's engine, NBIN, NCHK, NPAIR.H, NPAIR.F, CBIN.K and CBIN.L whose operands pass their checks add a command with their descriptor, scope and status place and go on; NBCFG does so when no page it reads has pending log entries and the 128 bytes it reads form a descriptor in range; NBST of an aligned global descriptor issues an access that returns to s[sa+2] and s[sa+3]; with 16 commands queued each waits with stall code 5 (R185, R186, R214 to R217). -/
def Obligations.NeighbourCommandsAreQueued : Prop :=
  ∀ (s : State) (a : Reg) (r : BitVec 1) (z : BitVec 3) (l : BitVec 4), anyInBody s.cord.frag = false →
    let q := (thisCluster s).quad
    let cs := quadOf s q
    let accepted (i : Instr) (b : Option NbCmd) : Prop := ∀ c, b = some c → cs.length < 16 → s.cord.flights = [] →
      ∃ t n, exec i s = .next t ∧ quadOf t q = cs ++ [{ c with id := n }] ∧ c.desc = blockPair s a 0 ∧ c.scope = z.toNat ∧ c.phase = 0 ∧ c.cord = s.cord.id ∧
        t.cord.frag.pc = s.cord.frag.after.getD (s.cord.frag.pc + 4) ∧ sameRegs s t ∧ t.stands = s.stands
    accepted (.nbin a r z l) (nbBuild s .bin z.toNat (r == 1) 128 a) ∧ accepted (.nchk a r z l) (nbBuild s .chk z.toNat (r == 1) 128 a) ∧
    accepted (.npairH a r z l) (buildPair false z.toNat (r == 1) a s) ∧ accepted (.npairF a r z l) (buildPair true z.toNat (r == 1) a s) ∧
    accepted (.cbinK a r z l) (buildCbin false z.toNat (r == 1) a s) ∧ accepted (.cbinL a r z l) (buildCbin true z.toNat (r == 1) a s) ∧
    (∀ v, z.toNat < 2 → s.cord.live = true → ownPending s = false → pagePending s (thisCore s) s.cord.pasid ((blockPair s a 0).toNat % 2 ^ 57 / 4096) = false → engRead { id := acceptId s, cluster := thisCluster s, pasid := s.cord.pasid, scope := z.toNat, stand := s.cord.stand } (blockPair s a 0) 128 s = (.ok v, s) →
      gridOk (gridOf v) = true → accepted (.nbcfg a r z l) (nbBuild s .cfg z.toNat (r == 1) 128 a)) ∧
    (cs.length < 16 → (blockPair s a 0).toNat % 128 = 0 → globalRange (blockPair s a 0) 128 = true →
      exec (.nbst a z l) s = .next (issue { stream := .scalar, pc := s.cord.frag.pc, isY := false, op := .nbst, scope := z.toNat, size := 8, signed := false, dest := .spair s.cord.frag.bank (a + 2), la := l.toNat, lanes := [newLane 0 (blockPair s a 0) 0] } (countPath 5 (advance s)))) ∧
    (16 ≤ cs.length → ∀ i ∈ [Instr.nbcfg a r z l, .nbin a r z l, .npairH a r z l, .npairF a r z l, .nchk a r z l, .nbst a z l, .cbinK a r z l, .cbinL a r z l],
      exec i s = .next (wait 5 s))

/-- Neighbour-engine steps of the command at the head of its queue, its fork ready, its ring present, its status place reachable, with the reads and writes of each step granted: NBCFG writes STATE 1, EPOCH + 2 and MAXD2 0 and ends with OK; NBIN of state 0 ends with UNBINNED, else writes EPOCH + 1 and STATE 1 and goes on, and after its arrays writes MAXD2, STATE 2 and the EPOCH then held + 1 and reports particles and cells; NCHK ends with UNBINNED below state 2, and at its end reports MAXD2 with OK, or with STALE in a state 3 or where a particle moved too far; NPAIR ends with STALE, UNBINNED, RACE or RANGE as R221 says or starts at its first particle; GROUP_PUBLISH writes the records of a particle's group, unpublished, when the ring has room, then with EPOCH unchanged moves TAIL over them and goes to the next particle, with another EPOCH ends with RACE, and after the last particle ends with the number of pairs; CBIN out of range ends with RANGE, else starts, and at its end reports its classes; NBST answers STATE and MAXD2. A step writes memory only as its listed writes of the descriptor leave it, and otherwise changes none (R216 to R226). That a fork may leave the cord's stores in the cluster cache (log entry 29), and that a group's reads stand for one instant (log entry 30), are the model's choices. -/
def Obligations.NeighbourStepsTakeEffect : Prop :=
  ∀ (s u : State) (q : QuadId) (c : NbCmd) (rest : List NbCmd) (v e : Nat), quadOf s q = c :: rest → (∀ x ∈ rest, x.id ≠ c.id) → c.barrier = none →
    forkMay c.cord c.stand c.fork c.scope s = (some s, s) → (∀ ring, ring ∈ (match c.op with | .pair _ _ _ r => [r] | .cbin _ r => r.toList | _ => []) →
      ∃ k, ringAt (clusterOf s ring.1) ring.2 = some k ∧ k.ended = false) →
    (∀ st ∈ s.stands, Memory.wf st.window = true) → winReach s c.cord.core.cluster c.stand c.status.key = true → u.stands = s.stands → u.clusters = s.clusters →
    let g := gridOf v
    let g0 := startGrid c
    let begun : NbCmd := { c with desc0 := BitVec.ofNat 1024 v }
    let epoch : Word := BitVec.ofNat 32 e
    let got (a : DWord) (n w : Nat) : Prop := nbRead c a n s = (.ok w, s)
    let reads : Prop := got c.desc 128 v
    let readsEpoch : Prop := got (c.desc + 64) 8 e
    let ended (m : Memory) (i : Instr) (outcome count first extra : Nat) : Prop := count < 2 ^ 32 → first < 2 ^ 32 → extra < 2 ^ 32 →
      ∃ t, exec i s = .next t ∧ (∀ x ∈ quadOf t q, x.id ≠ c.id) ∧ t.mem = m ∧
        scratchRead (.win c.status.key c.status.off) 16 t = 2 ^ 31 + outcome * 65536 + 2 ^ 32 * count + 2 ^ 64 * first + 2 ^ 96 * extra
    let kept (i : Instr) (n : NbCmd) : Prop := ∃ t, exec i s = .next t ∧ quadOf t q = n :: rest ∧ t.mem = s.mem ∧ t.stands = s.stands
    let done (n : NbCmd) (ws : List (Nat × Nat × Nat)) : Prop := nbWrites n (ws.map (fun w => (c.desc + BitVec.ofNat 64 w.1, w.2.1, w.2.2)))
      (setQuad s q (fun cs => modifyWhere (fun x => x.id == c.id) (fun _ => n) cs)) = (.ok 0, u)
    (c.op = .cfg → let ws (x : Word) : List (Nat × Nat × Nat) := [(68, 1, 1), (64, 4, x.toNat), (72, 4, 0)]
      (c.phase = 0 → readsEpoch → done { c with phase := 1, epoch := epoch + 2 } (ws (epoch + 2)) → ended u.mem (.nbcfgPerform q) 0 0 0 0) ∧
      (c.phase = 1 → done c (ws c.epoch) → ended u.mem (.nbcfgPerform q) 0 0 0 0)) ∧
    (c.op = .bin → c.stop = none → (c.phase = 0 → reads → gridOk g = true → (g.st = 0 → ended s.mem (.nbinRun q) 3 0 0 0) ∧
        (let n := { begun with phase := 1, epoch := g.epoch + 1 }
         g.st ≠ 0 → done n [(64, 4, (g.epoch + 1).toNat), (68, 1, 1)] → quadOf u q = n :: rest →
          ∃ t, exec (.nbinRun q) s = .next t ∧ quadOf t q = { n with phase := 2 } :: rest ∧ t.mem = u.mem)) ∧
      (c.phase = 8 → readsEpoch → done { c with phase := 6, epoch := epoch + 1 } [(72, 4, 0), (68, 1, 2), (64, 4, (epoch + 1).toNat)] →
        ended u.mem (.nbinRun q) 0 c.parts.length 0 (gridCells g0))) ∧
    (c.op = .chk → (c.phase = 0 → reads → gridOk g = true → (g.st < 2 → ended s.mem (.nchkRun q) 3 0 0 0) ∧ (2 ≤ g.st → kept (.nchkRun q) { begun with phase := 1 })) ∧
      (let moved := (unitsVal (-298) (fix g0.skin * fix g0.skin)).lt (mulVals c.far (.ofInt 4)).1
       let maxd := (roundF32 c.far).toNat
       let st := e / 2 ^ 32 % 256
       let past (n : Nat) : NbCmd := { c with phase := n, epoch := epoch + 2 }
       c.phase = 1 → g0.npart ≤ c.next → readsEpoch →
        (st = 3 → done (past 3) [(72, 4, maxd)] → ended u.mem (.nchkRun q) 1 0 0 maxd) ∧
        (st ≠ 3 → moved = false → done (past 2) [(72, 4, maxd)] → ended u.mem (.nchkRun q) 0 0 0 maxd) ∧
        (st ≠ 3 → moved = true → done (past 4) [(72, 4, maxd), (68, 1, 3), (64, 4, (epoch + 2).toNat)] → ended u.mem (.nchkRun q) 1 0 0 maxd))) ∧
    (∀ full first count ring, c.op = .pair full first count ring →
      (c.phase = 0 → reads → gridOk g = true → (g.st = 3 → ended s.mem (.npairRun q) 1 0 0 0) ∧ (g.st < 2 → ended s.mem (.npairRun q) 3 0 0 0) ∧
        (g.st = 2 → g.epoch.toNat % 2 = 1 → ended s.mem (.npairRun q) 5 0 0 0) ∧
        (g.st = 2 → g.epoch.toNat % 2 = 0 → count = 0 ∨ 16777216 < count ∨ g.npart < first + count → ended s.mem (.npairRun q) 6 0 0 0) ∧
        (g.st = 2 → g.epoch.toNat % 2 = 0 → 0 < count → count ≤ 16777216 → first + count ≤ g.npart → kept (.npairRun q) { begun with phase := 1, epoch := g.epoch, next := first })) ∧
      (c.phase = 1 → first + count ≤ c.next → c.skipped = 0 → ended s.mem (.groupPublish q) 0 c.pairs 0 0) ∧
      (∀ k cs ss pi ps, ringAt (clusterOf s ring.1) ring.2 = some k →
        let js := candidates g0 full (wordsIn (gridCells g0 + 1) 4 cs) (wordsIn g0.npart 4 ss) c.next
        let out := groupRecords (ringSize k) c.next ((js.zip ps).flatMap (fun x => (pairRecords g0 c.next x.1 (posOf pi) (posOf x.2)).getD []))
        c.phase = 1 → c.next < first + count → got g0.cstart (4 * (gridCells g0 + 1)) cs → got g0.sorted (4 * g0.npart) ss →
        nbReads c 16 ((c.next :: js).map (fun j => plus g0.part (16 * j))) s = (.ok (pi :: ps), s) → out.length + ringCount k ≤ ringSize k →
        ∃ t, exec (.groupPublish q) s = .next t ∧ quadOf t q = { c with phase := 2, recs := out } :: rest ∧ t.mem = s.mem ∧ t.stands = s.stands ∧
          ∃ m, ringAt (clusterOf t ring.1) ring.2 = some m ∧ m.tail = k.tail ∧ m.head = k.head) ∧
      (∀ k, ringAt (clusterOf s ring.1) ring.2 = some k → c.phase = 2 → readsEpoch →
        (epoch = c.epoch → ∃ t n, exec (.groupPublish q) s = .next t ∧ quadOf t q = n :: rest ∧ n.phase = 1 ∧ n.next = c.next + 1 ∧ n.recs = [] ∧ t.mem = s.mem ∧
          n.pairs = (if skipRecords c.recs then c.pairs else c.pairs + c.recs.length / 2) ∧ n.skipped = (if skipRecords c.recs then c.skipped + 1 else c.skipped) ∧
          ∃ m, ringAt (clusterOf t ring.1) ring.2 = some m ∧ m.head = k.head ∧ m.tail = k.tail + BitVec.ofNat 32 c.recs.length) ∧
        (epoch ≠ c.epoch → ended s.mem (.groupPublish q) 5 c.pairs c.next 0))) ∧
    (∀ byLen ring, c.op = .cbin byLen ring →
      (c.phase = 0 → got c.desc 64 v → (binOk byLen (binDesc v) = false → ended s.mem (.cbinRun q) 6 0 0 0) ∧ (binOk byLen (binDesc v) = true → kept (.cbinRun q) { begun with phase := 1 })) ∧
      (c.phase = 3 → ring = none → none ∉ c.classes →
        let full := (List.range (classCount byLen (binDesc c.desc0.toNat))).filter (fun x => c.classes.contains (some x))
        ended s.mem (.cbinRun q) 0 full.length 0 0)) ∧
    (c.op = .st → s.cord.id = c.cord → reads → ∃ t, exec (.nbstRead q) s = .next t ∧ (∀ x ∈ quadOf t q, x.id ≠ c.id) ∧ t.mem = s.mem ∧
      (∀ f ∈ t.cord.flights, f.id = c.id → ∀ l ∈ f.lanes, l.st = .done (BitVec.ofNat 64 (g.st + 2 ^ 32 * (v / 2 ^ 576 % 2 ^ 32)))))

/-- Lane integers: an operation whose registers lie in the allocation answers a next state in which, in every active lane, each element of vd (and of vd + 1 for a pair) is the exact result of its operands' elements, wrapped or under .SAT clamped: |a|, a + b, a - b, a x b, a x b + c, floor(a x b / 2^w), the signed or unsigned smaller or larger, the bitwise combinations, leading zeros, set bits, the shifts by b modulo the width, the bit field, and for VCMP and VCMPN the predicate bits of the comparison; every inactive lane and everything else is unchanged (R346, R348 to R350, R370, R371). -/
def Obligations.LaneIntegersComplete : Prop :=
  ∀ (s : State) (o : LaneOp),
    let w := tyBits o.ty
    let num := elemInt o.ty
    let sg := signedOf w
    let fits := elemResult o.ty o.var
    let does (k : LaneKind) (i : Instr) (f : Nat → Nat → Nat → Nat) : Prop := regsOk s.cord k o = true → ∃ t, exec i s = .next t ∧
      laneResult o (fun l => mapElems o.ty f (valA s.cord o l) (valB s.cord o l) (valC s.cord o l)) s t
    let cmp (k : LaneKind) (i : Instr) (v : Nat → Int) : Prop := regsOk s.cord k o = true → ∃ t, exec i s = .next t ∧
      predResult (activeMask s.cord o) (o.vd.setWidth 3) (fun l => compareInt (ccOf o) (v (valA s.cord o l)) (v (valB s.cord o l))) s t
    does .vabs (.vabs o) (fun a _ _ => fits ((num a).natAbs : Int)) ∧
    does .vadd (.vadd o) (fun a b _ => fits (num a + num b)) ∧
    does .vsub (.vsub o) (fun a b _ => fits (num a - num b)) ∧
    does .vmul (.vmul o) (fun a b _ => fits (num a * num b)) ∧
    does .vmad (.vmad o) (fun a b c => fits (num a * num b + num c)) ∧
    does .vmulh (.vmulh o) (fun a b _ => fits (num a * num b / (2 : Int) ^ w)) ∧
    does .vmulhn (.vmulhn o) (fun a b _ => fits (num a * num b / (2 : Int) ^ w)) ∧
    does .vmin (.vmin o) (fun a b _ => if sg b < sg a then b else a) ∧
    does .vmax (.vmax o) (fun a b _ => if sg a < sg b then b else a) ∧
    does .vminn (.vminn o) (fun a b _ => if b < a then b else a) ∧
    does .vmaxn (.vmaxn o) (fun a b _ => if a < b then b else a) ∧
    does .vand (.vand o) (fun a b _ => a &&& b) ∧ does .vor (.vor o) (fun a b _ => a ||| b) ∧ does .vxor (.vxor o) (fun a b _ => a ^^^ b) ∧
    does .vclz (.vclz o) (fun a _ _ => ((List.range w).filter (fun k => decide (a < 2 ^ k))).length) ∧
    does .vpopc (.vpopc o) (fun a _ _ => ((List.range w).filter (fun k => a.testBit k)).length) ∧
    does .vshl (.vshl o) (fun a b _ => a * 2 ^ (b % w) % 2 ^ w) ∧
    does .vshr (.vshr o) (fun a b _ => a / 2 ^ (b % w)) ∧
    does .vsar (.vsar o) (fun a b _ => wrapNat w (sg a / (2 : Int) ^ (b % w))) ∧
    (regsOk s.cord .vbfx o = true → ∃ t, exec (.vbfx o) s = .next t ∧
      laneResult o (fun l => fieldOf (decide (o.ty = .i32)) (if o.ss = 0 then o.imm.toNat else (reg s o.ss).toNat) (valA s.cord o l)) s t) ∧
    cmp .vcmp (.vcmp o) sg ∧ cmp .vcmpn (.vcmpn o) (fun x => (x : Int))

/-- Lane moves: VLANE gives the lane number plus its constant modulo 2^32, VSEL operand A where vd is not 0 and B where it is, VMOV operand B, VMOVS the immediate (sign-extended for a pair), VMOV.ind operand A in the register that s[ss] names within the allocation, VPACK two converted elements, VUNPK both elements widened into vd and vd + 1, VPLOG the truth-table bit 2a + b of two predicates, VPMOV.S a beat of a predicate in s[ss], VPMOV.P a scalar register in the active lanes of a beat of a predicate, VRNG the four-round hash of counter, key and stream; nothing else changes (R368, R372 to R379). -/
def Obligations.LaneMovesComplete : Prop :=
  ∀ (s : State) (o : LaneOp),
    let c := s.cord
    let does (k : LaneKind) (i : Instr) (f : Nat → Nat) : Prop := regsOk c k o = true → ∃ t, exec i s = .next t ∧ laneResult o f s t
    let half (x : Nat) : Nat := match o.ty with
      | .f16x2 => (NumFmt.convert .fp16 o.var (NumFmt.value .fp32 x)).1
      | .bf16x2 => (NumFmt.convert .bf16 o.var (NumFmt.value .fp32 x)).1
      | .i16x2 => elemResult .i16x2 o.var (signedOf 32 x)
      | _ => elemResult .n16x2 o.var (x : Int)
    let word (v : Nat → Nat) : Nat → Word := fun l => BitVec.ofNat 32 (v l)
    let ind : VReg := BitVec.ofNat 8 (reg s o.ss).toNat
    let bits (x : BitVec 8) (l : Nat) : Nat := if (predOf c (x.setWidth 3)).getLsbD l then 1 else 0
    let beat := o.imm.toNat / 2 % 4
    let hash := rngWord
    does .vlane (.vlane o) (fun l => (l + o.imm.toNat) % 2 ^ 32) ∧
    does .vsel (.vsel o) (fun l => if valD c o l = 0 then valB c o l else valA c o l) ∧
    does .vmov (.vmov o) (valB c o) ∧
    does .vmovs (.vmovs o) (fun _ => if o.ty = .i64 then (BitVec.ofInt 64 o.imm.toInt).toNat else o.imm.toNat) ∧
    does .vpack (.vpack o) (fun l => half (valA c o l) + 65536 * half (valB c o l)) ∧
    does .vrng (.vrng o) (fun l => let x := hash (BitVec.ofNat 32 (valA c o l)) (reg s o.ss) o.imm
      if o.ty = .f32 then (roundF32 (.num false (x.toNat / 256) (-24))).toNat else x.toNat) ∧
    (regsOk c .vmovInd o = true → ind.toNat < c.alloc → ∃ t, exec (.vmovInd o) s = .next t ∧ laneWrites (activeMask c o) [(ind, word (valA c o))] s t) ∧
    (regsOk c .vunpk o = true → ∃ t, exec (.vunpk o) s = .next t ∧
      laneWrites (activeMask c o) [(o.vd, word (fun l => widen o.ty (valA c o l % 65536))), (o.vd + 1, word (fun l => widen o.ty (valA c o l / 65536)))] s t) ∧
    (regsOk c .vplog o = true → ∃ t, exec (.vplog o) s = .next t ∧
      predResult (activeMask c o) (o.vd.setWidth 3) (fun l => o.imm.toNat.testBit (2 * bits o.va l + bits o.vb l)) s t) ∧
    (regsOk c .vpmovS o = true → exec (.vpmovS o) s = .next (setReg s o.ss (maskWord (predOf c (o.va.setWidth 3)) beat))) ∧
    (regsOk c .vpmovP o = true → beat < 3 → ∃ t, exec (.vpmovP o) s = .next t ∧
      predResult (activeMask c o &&& (0xFFFFFFFF#96 <<< (32 * beat))) (o.vd.setWidth 3) (fun l => (reg s o.ss).getLsbD (l - 32 * beat)) s t)

/-- Lane floating point: each element of vd is the exact result of its operands' elements rounded once (a + b, a - b, a x b, a x b + c, the packed dot product into FP32, the smaller, the larger, the sign injected, the class mask, the converted element), and VFCMP's predicate bit is its comparison; under .X, when active lanes raise the invalid condition, they keep vd, the other active lanes complete, and a cord at rest with no user handler stands trapped with 0x0C and those lanes in %trap.lanes (R72 to R79, R351 to R358). -/
def Obligations.LaneFloatsComplete : Prop :=
  ∀ (s : State) (o : LaneOp),
    let c := s.cord
    let fm := tyFmt o.ty
    let val := fm.value
    let act (l : Nat) : Bool := (activeMask c o).getLsbD l
    let does (k : LaneKind) (i : Instr) (f : Nat → Nat) (inv : Nat → Bool) : Prop := regsOk c k o = true →
      let bad (l : Nat) : Bool := decide (o.var = .x) && act l && inv l
      ((∀ l, l < 96 → bad l = false) → ∃ t, exec i s = .next t ∧ laneResult o f s t) ∧
      (o.ty ≠ .i64 → (∃ l, l < 96 ∧ bad l = true) → quietCord c → trapRoom s → c.uhandler = 0 → ∃ t, exec i s = .next t ∧ t.cord.mode = .trapped ∧ t.cord.trap.cause = 0x0C ∧
        (∀ l, l < 96 → t.cord.trap.lanes.getLsbD l = bad l ∧
          laneGet (vreg t.cord o.vd) l = if act l && !bad l then BitVec.ofNat 32 (f l) else laneGet (vreg c o.vd) l) ∧ t.mem = s.mem)
    let elem (f : Nat → Nat → Nat → FVal × Bool) (k : LaneKind) (i : Instr) : Prop :=
      does k i (fun l => mapElems o.ty (fun a b d => fm.round (f a b d).1) (valA c o l) (valB c o l) (valC c o l))
        (fun l => ((elems o.ty (valA c o l)).zip ((elems o.ty (valB c o l)).zip (elems o.ty (valC c o l)))).any (fun p => (f p.1 p.2.1 p.2.2).2))
    let plain (k : LaneKind) (i : Instr) (f : Nat → Nat → Nat) : Prop := regsOk c k o = true → ∃ t, exec i s = .next t ∧
      laneResult o (fun l => mapElems o.ty (fun a b _ => f a b) (valA c o l) (valB c o l) 0) s t
    let dot (l : Nat) : FVal × Bool :=
      let ms := ((elems o.ty (valA c o l)).zip (elems o.ty (valB c o l))).map (fun p => mulVals (val p.1) (val p.2))
      let r := sumVals (ms.map (fun m => m.1) ++ [NumFmt.value .fp32 (valC c o l)])
      (r.1, r.2 || ms.any (fun m => m.2))
    let conv (scale : Nat → Option Int) (l : Nat) : Nat × Bool :=
      let r := convertElem (cvtSrc o) (cvtDst o) o.var (scale l) (elemGet (cvtSrc o) (o.imm.toNat / 16 % 16) (valA c o l))
      (elemPut (cvtDst o) (o.imm.toNat / 4096 % 16) (valD c o l) r.1, r.2)
    elem (fun a b _ => sumVals [val a, val b]) .vfadd (.vfadd o) ∧
    elem (fun a b _ => sumVals [val a, (val b).negate]) .vfsub (.vfsub o) ∧
    elem (fun a b _ => mulVals (val a) (val b)) .vfmul (.vfmul o) ∧
    elem (fun a b d => let m := mulVals (val a) (val b); let r := sumVals [m.1, val d]; (r.1, r.2 || m.2)) .vfma (.vfma o) ∧
    does .vhfma (.vhfma o) (fun l => NumFmt.round .fp32 (dot l).1) (fun l => (dot l).2) ∧
    does .vbfma (.vbfma o) (fun l => NumFmt.round .fp32 (dot l).1) (fun l => (dot l).2) ∧
    plain .vfmin (.vfmin o) (fun a b => fm.round (fminVal (val a) (val b))) ∧
    plain .vfmax (.vfmax o) (fun a b => fm.round (fmaxVal (val a) (val b))) ∧
    plain .vfsgn (.vfsgn o) (signElem fm o.var) ∧ plain .vfcls (.vfcls o) (fun a _ => classMask fm a) ∧
    does .vcvt (.vcvt o) (fun l => (conv (fun _ => none) l).1) (fun l => (conv (fun _ => none) l).2) ∧
    does .vcvts (.vcvts o) (fun l => (conv (fun l => some (signedOf 32 (valB c o l))) l).1) (fun l => (conv (fun l => some (signedOf 32 (valB c o l))) l).2) ∧
    (regsOk c .vfcmp o = true → ∃ t, exec (.vfcmp o) s = .next t ∧ predResult (activeMask c o) (o.vd.setWidth 3)
      (fun l => compareFloat (ccOf o) (NumFmt.value .fp32 (valA c o l)) (NumFmt.value .fp32 (valB c o l))) s t)

/-- CORDIC: each of the nine operations whose registers lie in the allocation adds to its partition's queue an entry with its results for every lane, to be written in the active lanes that raise no condition under .X, and stays incomplete; any NaN operand, of VCRAT and VCRDV either one, gives the canonical NaN in both results; +infinity gives +infinity for VCREX, VCRLG and VCRSQ, +0 for VCRRS, 1.0 for VCRTH and the NaN for VCRSC and VCRHY; a beat of the head entry of the acting cord writes the results of its 32 lanes and no other lane of vd, and beat 2 of an entry without a condition completes it (R91 to R93, R359, R360). -/
def Obligations.CordicOperationsComplete : Prop :=
  (∀ (s : State) (o : LaneOp) (k : LaneKind) (i : Instr) (fn : CordicFn),
    let nan (x : Word) : Prop := x.extractLsb' 23 8 = 0xFF#8 ∧ x.extractLsb' 0 23 ≠ 0#23
    (k, i, fn) ∈ [(LaneKind.vcrsc, Instr.vcrsc o, CordicFn.sc), (.vcrat, .vcrat o, .rat), (.vcrhy, .vcrhy o, .hy), (.vcrex, .vcrex o, .ex), (.vcrlg, .vcrlg o, .lg),
      (.vcrsq, .vcrsq o, .sq), (.vcrrs, .vcrrs o, .rs), (.vcrdv, .vcrdv o, .dv), (.vcrth, .vcrth o, .th)] → regsOk s.cord k o = true → o.ty = .f32 →
    ∃ t e f, exec i s = .next t ∧ (partOf t (thisPart s)).cordic = (partOf s (thisPart s)).cordic ++ [e] ∧ t.cord.flights = s.cord.flights ++ [f] ∧ e.flight = f.id ∧
      flightComplete f = false ∧ sameRegs s t ∧ e.cord = s.cord.id ∧ e.vd = o.vd ∧ e.beat = 0 ∧ e.two = decide (fn = .sc ∨ fn = .hy) ∧
      (o.var ≠ .x → e.writes = activeMask s.cord o ∧ e.inv = 0 ∧ e.dz = 0) ∧ e.writes &&& (e.inv ||| e.dz) = 0 ∧ (e.writes ||| e.inv ||| e.dz) = activeMask s.cord o ∧
      (∀ l, l < 96 →
        (laneGet e.r0 l, laneGet e.r1 l) = ((cordicLane fn (2 * (o.imm.toNat % 16) + 8) (laneGet (vreg s.cord o.va) l) (laneGet (vreg s.cord o.vb) l)).1,
          (cordicLane fn (2 * (o.imm.toNat % 16) + 8) (laneGet (vreg s.cord o.va) l) (laneGet (vreg s.cord o.vb) l)).2.1) ∧
        (nan (laneGet (vreg s.cord o.va) l) ∨ ((fn = .rat ∨ fn = .dv) ∧ nan (laneGet (vreg s.cord o.vb) l)) → laneGet e.r0 l = 0x7FC00000 ∧ laneGet e.r1 l = 0x7FC00000) ∧
        (laneGet (vreg s.cord o.va) l = 0x7F800000 → (fn = .ex ∨ fn = .lg ∨ fn = .sq → laneGet e.r0 l = 0x7F800000) ∧ (fn = .rs → laneGet e.r0 l = 0) ∧
          (fn = .th → laneGet e.r0 l = 0x3F800000) ∧ (fn = .sc ∨ fn = .hy → laneGet e.r0 l = 0x7FC00000 ∧ laneGet e.r1 l = 0x7FC00000)))) ∧
  (∀ (s : State) (p : PartId) (e : CordicOp) (es : List CordicOp), (partOf s p).cordic = e :: es → s.cord.live = true → s.cord.id = e.cord → e.beat ≤ 2 →
    ∃ t, exec (.cordicBeatWrite p) s = .next t ∧
      (e.inv ||| e.dz = 0 → s.cord.mode = .running → (∀ l, l < 96 → laneGet (vreg t.cord e.vd) l =
        if e.writes.getLsbD l = true ∧ 32 * e.beat ≤ l ∧ l < 32 * e.beat + 32 then laneGet e.r0 l else laneGet (vreg s.cord e.vd) l) ∧
        (e.beat < 2 → (partOf t p).cordic = { e with beat := e.beat + 1 } :: es ∧ t.cord.flights = s.cord.flights) ∧
        (e.beat = 2 → (partOf t p).cordic = es ∧ ∀ f ∈ s.cord.flights, s.cord.flights.find? (fun g => g.id == e.flight) = some f → ∀ g ∈ t.cord.flights, g.id ≠ f.id) ∧
        t.mem = s.mem))

/-- Cross-lane operations: VBCST gives every active lane operand A of one lane (0 for a lane number of 96 or more), VSHFL that of the lane its operand B names modulo 128, VROT that of the lane n further on modulo 96; VRED leaves in s[ss], or the pair, the values of the active lanes combined in the tree of R87, and writes nothing with no active lane; for AND, OR, XOR and integer sums of 32 bits that is the plain combination of them all; VSCAN gives each active lane the combination of the active lanes up to it; VVOTE writes any, all, the count, the first lane or the three mask words of the predicate's active lanes; nothing else changes (R86, R87, R367, R383 to R385). -/
def Obligations.CrossLaneOperationsComplete : Prop :=
  ∀ (s : State) (o : LaneOp),
    let c := s.cord
    let act := activeMask c o
    let src (j : Nat) : Nat := if j < 96 then valA c o j else 0
    let n := if o.ss = 0 then o.imm.toNat else (reg s o.ss).toNat
    let does (k : LaneKind) (i : Instr) (f : Nat → Nat) : Prop := regsOk c k o = true → ∃ t, exec i s = .next t ∧ laneResult o f s t
    let p := predOf c (o.va.setWidth 3)
    let q := act &&& (if o.va.getLsbD 3 then ~~~p else p)
    let upTo (k : Nat) : Option Nat := tree (combine o.ty o.imm.toNat) 7 (((lanesOf act).filter (fun l => decide (l ≤ k))).map (fun l => (l, valA c o l)))
    let vote (k : Nat) (v : Nat) : Prop := o.imm.toNat = k → exec (.vvote o) s = .next (setReg s o.ss (BitVec.ofNat 32 v))
    does .vbcst (.vbcst o) (fun _ => src (n % 128)) ∧ does .vshfl (.vshfl o) (fun l => src (valB c o l % 128)) ∧ does .vrot (.vrot o) (fun l => src ((l + n) % 96)) ∧
    does .vscan (.vscan o) (fun l => (upTo l).getD 0) ∧
    (regsOk c .vred o = true → (lanesOf act = [] → exec (.vred o) s = .next s) ∧
      (∀ v, upTo 95 = some v → exec (.vred o) s = .next (if o.ty = .i64 then setReg (setReg s o.ss (BitVec.ofNat 32 v)) (o.ss + 1) (BitVec.ofNat 32 (v / 2 ^ 32)) else setReg s o.ss (BitVec.ofNat 32 v))) ∧
      (lanesOf act ≠ [] → o.ty = .i32 ∨ o.ty = .n32 → ∃ v, upTo 95 = some v ∧
        (o.imm = 0 → BitVec.ofNat 32 v = (lanesOf act).foldl (fun (a : Word) l => a + laneGet (vreg c o.va) l) 0) ∧
        (o.imm = 3 → BitVec.ofNat 32 v = (lanesOf act).foldl (fun (a : Word) l => a &&& laneGet (vreg c o.va) l) (~~~0)) ∧
        (o.imm = 4 → BitVec.ofNat 32 v = (lanesOf act).foldl (fun (a : Word) l => a ||| laneGet (vreg c o.va) l) 0) ∧
        (o.imm = 5 → BitVec.ofNat 32 v = (lanesOf act).foldl (fun (a : Word) l => a ^^^ laneGet (vreg c o.va) l) 0))) ∧
    (regsOk c .vvote o = true → vote 0 (if q = 0 then 0 else 1) ∧ vote 1 (if q = act then 1 else 0) ∧ vote 2 (lanesOf q).length ∧ vote 3 ((lanesOf q).headD 96) ∧
      (o.imm.toNat = 4 → exec (.vvote o) s = .next (setReg (setReg (setReg s o.ss (maskWord q 0)) (o.ss + 1) (maskWord q 1)) (o.ss + 2) (maskWord q 2))))

/-- Lane accesses outside a transaction: VLD and VLDM of the address pair plus the immediate, VLDC of the contiguous scratch addresses, VPRF, VST, VSTC, VSTN with its flag at the pair of vb, VATOM and VCAS at their scope with operand B (and C), VATOM.NTF with its flag in scratch: each whose registers lie in the allocation answers the issue of one access at its lane word with an entry for every active lane, placed by its address, with its data; stores of one instruction to one location carry the highest lane's data (R121, R361 to R366, R380 to R382). -/
def Obligations.LaneAccessesIssue : Prop :=
  ∀ (s : State) (o : LaneOp), s.cord.frag.tx = TxRec.idle →
    let c := s.cord
    let size := accessSize o
    let run (l : Nat) : DWord := BitVec.ofNat 64 (2 ^ 63 + (reg s o.ss + o.imm + BitVec.ofNat 32 (size * l)).toNat)
    let off (l : Nat) : DWord := BitVec.ofInt 64 ((pairAddr c o.va l).toInt + o.imm.toInt)
    let at_ (l : Nat) : DWord := pairAddr c o.va l
    let data (f : Nat → Nat) (l : Nat) : DWord := BitVec.ofNat 64 (f l)
    let none_ (_ : Nat) : DWord := 0
    let lanes (op : MemOp) (n : Nat) (va dat dat2 flag : Nat → DWord) : List LaneAcc :=
      (lanesOf (activeMask c o)).map (fun l => placeAcc s c op (some l) n { newLane l (va l) (dat l) with data2 := dat2 l, fva := flag l })
    let acc (op : MemOp) (scope n : Nat) (signed : Bool) (dest : Dest) (ls : List LaneAcc) : Access :=
      { stream := .lane, pc := lanePc s, isY := false, op := op, scope := scope, size := n, signed := signed, dest := dest, la := o.la.toNat, lanes := ls }
    let does (k : LaneKind) (i : Instr) (a : Access) : Prop := regsOk c k o = true → exec i s = .next (issue a s)
    let dest : Dest := if o.ty = .i64 then .vpair o.vd else .vreg o.vd
    let load (op : MemOp) (va : Nat → DWord) : Access := acc op 0 size (decide (o.ty = .i32)) dest (lanes op size va none_ none_ none_)
    let store (va : Nat → DWord) : Access := acc .store 0 size false .none (keepHighest (lanes .store size va (data (valD c o)) none_ none_))
    let fn := o.imm.toNat % 16
    let scope := o.imm.toNat / 16 % 8
    does .vld (.vld o) (load .load off) ∧ does .vldc (.vldc o) (load .load run) ∧ does .vldm (.vldm o) (load .loadM off) ∧
    does .vprf (.vprf o) (acc .prefetch 0 1 false .none (lanes .prefetch 1 off none_ none_ none_)) ∧
    does .vst (.vst o) (store off) ∧ does .vstc (.vstc o) (store run) ∧
    does .vstn (.vstn o) (acc .notify 4 size false .none (keepHighest (lanes .notify size off (data (valD c o)) none_ (pairAddr c o.vb)))) ∧
    does .vatom (.vatom o) (acc (.atom fn) scope 4 false (.vreg o.vd) (lanes (.atom fn) 4 at_ (data (valB c o)) none_ none_)) ∧
    does .vatomNtf (.vatomNtf o) (acc (.ntf fn) scope 4 false .none (lanes (.ntf fn) 4 at_ (data (laneValue c o.vb false)) none_ (fun _ => operandAddr (reg s o.ss)))) ∧
    does .vcas (.vcas o) (acc .cas scope 4 false (.vreg o.vd) (lanes .cas 4 at_ (data (valB c o)) (data (valC c o)) none_))

/-- Lane frames: VSTC of 4-byte elements into a window, for a cord at rest with every active lane placed at 4 L past one offset, leaves lane L's word of vd there, every other byte of every window and all of memory as before, and every register unchanged; a pair word of two register operations not under .X answers a state in which the registers and predicates that X or Y writes hold what X or Y alone, run from the same state, would leave there, and nothing else has changed, and one whose Y is VLD or VST issues the access of its active lanes after X's effect (R57, R287, R361, R381). -/
def Obligations.LaneStoreFrameAndPairWord : Prop :=
  (∀ (s : State) (o : LaneOp) (k : StandKey) (off : Nat), quietCord s.cord → s.cord.frag.tx = TxRec.idle → regsOk s.cord .vstc o = true → accessSize o = 4 →
    (∀ l ∈ lanesOf (activeMask s.cord o), steer s s.cord (some l) (addrRun s.cord o 4 l) 4 = .ok (.win k (off + 4 * l))) →
    (∀ st, findStand s k = some st → Memory.wf st.window = true) →
    ∃ t, exec (.vstc o) s = .next t ∧
      (∀ l ∈ lanesOf (activeMask s.cord o), scratchRead (.win k (off + 4 * l)) 4 t = (laneGet (vreg s.cord o.vd) l).toNat) ∧
      (∀ k' b, (k' ≠ k ∨ ∀ l ∈ lanesOf (activeMask s.cord o), b < off + 4 * l ∨ off + 4 * l + 4 ≤ b) → scratchRead (.win k' b) 1 t = scratchRead (.win k' b) 1 s) ∧
      sameRegs s t ∧ t.cord.frag.pc = s.cord.frag.pc) ∧
  (∀ (s : State) (x y : CompactOp), wellFormed (.pairWord x y) = true → s.cord.mode = .running → regsOk s.cord x.kind.full x.toLane = true → regsOk s.cord y.kind.full y.toLane = true →
    x.var ≠ .x → y.var ≠ .x → y.kind ≠ .vld → y.kind ≠ .vst →
    ∃ t tx ty, exec (.pairWord x y) s = .next t ∧ exec (x.kind.full.instr x.toLane) s = .next tx ∧ exec (y.kind.full.instr y.toLane) s = .next ty ∧
      (∀ (r : VReg) l, l < 96 → laneGet (vreg t.cord r) l = laneGet (vreg (if r.toNat ∈ y.kind.full.writes y.toLane then ty else if r.toNat ∈ x.kind.full.writes x.toLane then tx else s).cord r) l) ∧
      (∀ i : BitVec 3, predOf t.cord i = predOf (if y.kind = .vcmp ∧ i = y.vd.setWidth 3 then ty else if x.kind = .vcmp ∧ i = x.vd.setWidth 3 then tx else s).cord i) ∧
      { t with cord := { t.cord with vregs := s.cord.vregs, preds := s.cord.preds } } = s) ∧
  (∀ (s : State) (x y : CompactOp), wellFormed (.pairWord x y) = true → s.cord.mode = .running → s.cord.frag.tx = TxRec.idle → regsOk s.cord x.kind.full x.toLane = true →
    regsOk s.cord y.kind.full y.toLane = true → x.var ≠ .x → y.kind = .vld ∨ y.kind = .vst →
    let oy := y.toLane
    let size := accessSize oy
    let op : MemOp := if y.kind = .vld then .load else .store
    let lanes := (lanesOf (activeMask s.cord oy)).map (fun l =>
      placeAcc s s.cord op (some l) size (newLane l (pairAddr s.cord y.va l) (if y.kind = .vld then 0 else BitVec.ofNat 64 (valD s.cord oy l))))
    ∃ tx, exec (x.kind.full.instr x.toLane) s = .next tx ∧ exec (.pairWord x y) s = .next (deliverTrap (issue
      { stream := .lane, pc := lanePc s, isY := true, op := op, scope := 0, size := size, signed := decide (y.kind = .vld ∧ oy.ty = .i32), dest := if y.kind = .vld then loadDest oy else .none, la := y.la.toNat, lanes := if y.kind = .vld then lanes else keepHighest lanes } tx)))

/-- BANKMODE_WRITE that asks one bank for another mode marks it BUSY and lists the change, or sets its REFUSED bit while it is busy or holds a page or a ring; BANKSTAT_WRITE clears the REFUSED bits written as 1; BANK_MODE_CHANGE_COMPLETE gives the bank its mode and clears its BUSY bit; FDLREL_WRITE frees the oldest discarded entries of the log; RING_HEAD_STORE moves HEAD unless it would pass TAIL; INBOUND_BUFFER_APPEND and SNDM_RETRY append a message whose ring has room; TAIL_WRITE and CHEAD_WRITE set the index in range, and one out of range makes a journal entry, TAIL with the queue in the error state (R101, R102, R108, R111, R171, R258). That %bankmode reads the old mode while the bank is BUSY (log entry 24), and that a pre-empted stand's pages and rings count as held (log entry 63), are the model's choices. -/
def Obligations.BanksRingsAndQueuesTakeEffect : Prop :=
  ∀ (s : State) (c : ClusterId) (v : Word), Memory.wf s.mem = true →
    let cl := clusterOf s c
    let onlyCluster (t : State) : Prop := { t with clusters := s.clusters } = s ∧ ∀ k, k ≠ c → clusterOf t k = clusterOf s k
    (∀ k m, k < 16 → m < 3 → modeField v k = m → modeField cl.bankmode k ≠ m → (∀ j, j < 16 → j ≠ k → modeField v j = 3 ∨ modeField v j = modeField cl.bankmode j) →
      ∃ t, exec (.bankmodeWrite c v) s = .next t ∧ onlyCluster t ∧
        (bankBusy cl k = false → bankHeld s c k = false →
          clusterOf t c = { cl with bankstat := cl.bankstat ||| (1#32 <<< k), changing := cl.changing ++ [(BitVec.ofNat 4 k, BitVec.ofNat 2 m)] }) ∧
        (bankBusy cl k = true ∨ bankHeld s c k = true → clusterOf t c = { cl with bankstat := cl.bankstat ||| (1#32 <<< (16 + k)) })) ∧
    (∃ t, exec (.bankstatWrite c v) s = .next t ∧ onlyCluster t ∧ ∃ w, clusterOf t c = { cl with bankstat := w } ∧
      ∀ k, w.getLsbD k = (cl.bankstat.getLsbD k && !(decide (16 ≤ k) && v.getLsbD k))) ∧
    (∀ (b : BitVec 4) (m : BitVec 2), cl.changing.find? (fun x => x.1 == b) = some (b, m) → (∀ l ∈ cl.lines, l.way ≠ b) →
      ∃ t, exec (.bankModeChangeComplete c b) s = .next t ∧ t.mem = s.mem ∧ t.cord = s.cord ∧ t.cords = s.cords ∧ t.stands = s.stands ∧
        (clusterOf t c).changing = cl.changing.filter (fun x => x.1 != b) ∧
        (∀ k, k < 16 → modeField (clusterOf t c).bankmode k = if k = b.toNat then m.toNat else modeField cl.bankmode k) ∧
        (∀ k, (clusterOf t c).bankstat.getLsbD k = (cl.bankstat.getLsbD k && decide (k ≠ b.toNat)))) ∧
    (∀ k : CoreId,
      let gone := (discardedLog (coreOf s k)).take (v.toNat % 512)
      ∃ t, exec (.fdlrelWrite k v) s = .next t ∧ (coreOf t k).log = (coreOf s k).log.filter (fun x => !gone.any (fun e => e.index == x.index)) ∧
        t.cord = s.cord ∧ t.cords = s.cords ∧ (∀ j, j ≠ k → coreOf t j = coreOf s j) ∧
        (∀ x, (∀ r ∈ (coreOf s k).resv, ∀ e ∈ gone, x < r.base + 800 * e.index ∨ r.base + 800 * e.index + 32 + 8 * e.recs.length ≤ x) → memGet t.mem x = memGet s.mem x)) ∧
    (∀ (i : BitVec 6) r, ringAt cl i = some r →
      ∃ t, exec (.ringHeadStore c i v) s = .next t ∧ onlyCluster t ∧
        ringAt (clusterOf t c) i = some (if (v - r.head).toNat ≤ (r.tail - r.head).toNat then { r with head := v } else r)) ∧
    (∀ (m : RingMsg) r k n, cl.inbound = [m] → m.fromCord = some (k, n) → ringAt cl m.ring = some r → ringCount r < ringSize r →
      ∃ t, exec (.inboundBufferAppend c) s = .next t ∧ (clusterOf t c).inbound = [] ∧ t.mem = s.mem ∧
        ringAt (clusterOf t c) m.ring = some { r with recs := memWrite r.recs (16 * (r.tail.toNat % ringSize r)) 16 m.payload.toNat, tail := r.tail + 1 } ∧
        (∀ x ∈ allCords t, x.id = k → ∀ f ∈ x.flights, f.id = n → ∀ l ∈ f.lanes, l.st = .done 0)) ∧
    (∀ (f : Flight) (l : LaneAcc), s.cord.live = true → s.cord.flights = [f] → f.op = .sndm → f.lanes = [l] → l.st = .todo →
      let h : Word := DWord.lo l.fva
      let k : ClusterId := h.extractLsb' 19 6
      h.extractLsb' 25 7 = s.fabric.num → ringRefusal (clusterOf s k) h s.cord.pasid = none → ∀ r, ringAt (clusterOf s k) (h.extractLsb' 13 6) = some r →
        (ringCount r < ringSize r → (clusterOf s k).inbound = [] →
          ∃ t, exec (.sndmRetry s.cord.id f.id) s = .next t ∧ t.cord.flights = [{ f with lanes := [{ l with st := .done 0 }] }] ∧ t.mem = s.mem ∧
            ringAt (clusterOf t k) (h.extractLsb' 13 6) = some { r with recs := memWrite r.recs (16 * (r.tail.toNat % ringSize r)) 16 (l.data2 ++ l.data).toNat, tail := r.tail + 1 }) ∧
        (ringSize r ≤ ringCount r → 64 ≤ (clusterOf s k).inbound.length → exec (.sndmRetry s.cord.id f.id) s = .next s)) ∧
    (∀ (q : QueueNo) x, findQueue s q = some x →
      let others (t : State) : Prop := ∀ p, p ≠ q → findQueue t p = findQueue s p
      ((v - x.head).toNat ≤ 2 ^ x.q → (x.tail - x.head).toNat ≤ (v - x.head).toNat →
        ∃ t, exec (.tailWrite q v) s = .next t ∧ findQueue t q = some { x with tail := v } ∧ others t ∧ { t with queues := s.queues } = s) ∧
      (2 ^ x.q < (v - x.head).toNat ∨ (v - x.head).toNat < (x.tail - x.head).toNat →
        ∃ t, exec (.tailWrite q v) s = .next t ∧ findQueue t q = some { x with state := 2, errored := true } ∧ others t ∧ journals 6 q.toNat v.toNat 1 s t) ∧
      ((v - x.chead).toNat ≤ (x.written - x.chead).toNat →
        ∃ t, exec (.cheadWrite q v) s = .next t ∧ findQueue t q = some { x with chead := v } ∧ others t ∧ { t with queues := s.queues } = s) ∧
      ((x.written - x.chead).toNat < (v - x.chead).toNat →
        ∃ t, exec (.cheadWrite q v) s = .next t ∧ t.queues = s.queues ∧ journals 6 q.toNat v.toNat 2 s t))

/-- HOST_CORE_ACCESS outside a transaction, to memory that this package owns and nothing holds back, with no access of that core waiting: a load puts the bytes in x[rd], a store writes its bytes and no other, an atomic add of 8 bytes returns the old value and stores the sum; HOST_INTERRUPT_IN_BODY of a host core in a transaction restores the checkpoint, goes to the target with status 0x802 in rd and drops its writes and its waiting accesses, and outside one does nothing; FALLBACK_LOCK_TAKE gives the free lock to the first that waits and aborts the host transactions that hold a ticket to commit (R131, R152, R155, R156). That a host core's accesses come as inputs with physical addresses, a load's value zero-extended, is the model's choice (log entry 34). -/
def Obligations.HostEventsTakeEffect : Prop :=
  (∀ (s : State) (n : HostNo) (d : BitVec 5) (a z : Nat) (v w : DWord) (aq rl : Bool), calm s → ownsAt s a → s.hostWait = [] → s.fabric.outstanding = [] →
    let h := s.hosts[n.val]'n.isLt
    let at_ (t : State) : HostCore := t.hosts[n.val]'n.isLt
    h.active = false →
      (∃ t, exec (.hostCoreAccess (.load n d a z)) s = .next t ∧ t.mem = s.mem ∧ (at_ t).regs = writeX h.regs d (BitVec.ofNat 64 (memRead s.mem a z)) ∧
        (at_ t).pc = h.pc ∧ t.cord = s.cord ∧ t.cords = s.cords ∧ t.hostWait = []) ∧
      (∃ t, exec (.hostCoreAccess (.store n a z v)) s = .next t ∧ t.mem = memWrite s.mem a z v.toNat ∧ at_ t = h ∧ t.cord = s.cord ∧ t.cords = s.cords ∧ t.hostWait = []) ∧
      (∃ t, exec (.hostCoreAccess (.atomic n d 0 a 8 v w aq rl)) s = .next t ∧ t.mem = memWrite s.mem a 8 ((memRead s.mem a 8 + v.toNat) % 2 ^ 64) ∧
        (at_ t).regs = writeX h.regs d (BitVec.ofNat 64 (memRead s.mem a 8)) ∧ t.cord = s.cord ∧ t.cords = s.cords)) ∧
  (∀ (s : State) (n : HostNo),
    let h := s.hosts[n.val]'n.isLt
    (h.active = true → (∀ m : HostNo, (s.hosts[m.val]'m.isLt).flush = false) → ∃ t, exec (.hostInterruptInBody n) s = .next t ∧
      { t with hosts := s.hosts, hostNo := s.hostNo, hostWait := s.hostWait, hostWords := s.hostWords } = s ∧
      t.hostWait = s.hostWait.filter (fun x => accessHost x != n) ∧ t.hostWords = s.hostWords.filter (fun x => x.1 != n) ∧
      t.hosts[n.val]'n.isLt = { h with regs := writeX h.checkpoint h.rd 0x802, pc := h.target, active := false, reads := [], writes := [], wlines := [], last := 0x802, waiting := false, ticket := none } ∧
      (∀ m : HostNo, m ≠ n → t.hosts[m.val]'m.isLt = s.hosts[m.val]'m.isLt)) ∧
    (h.active = false → exec (.hostInterruptInBody n) s = .next { s with hostNo := n })) ∧
  (∀ (s : State) (w : LockHolder) (ws : List LockHolder), s.almanac.lock = .free → s.almanac.waiters = w :: ws → (∀ m : HostNo, (s.hosts[m.val]'m.isLt).flush = false) →
    ∃ t, exec .fallbackLockTake s = .next t ∧ t.almanac.lock = w ∧ w ∉ t.almanac.waiters ∧ (∀ x ∈ ws, x ≠ w → x ∈ t.almanac.waiters) ∧ t.almanac.tickets = s.almanac.tickets ∧
      t.mem = s.mem ∧ t.cord = s.cord ∧ t.cords = s.cords ∧
      (∀ n : HostNo, let h := s.hosts[n.val]'n.isLt; t.hosts[n.val]'n.isLt = if h.active && h.ticket.isSome then { abortedHost 10 0 h with flush := false } else h))

/-- ROTATION_STREAK with 64 counted moves the offset to the next cord of the ring; CONTEXT_SWITCH, QUANTUM_EXPIRY and the 512th IDLE_SWITCH_COUNT make the other context active when its priority is higher, equal after the quantum, or equal with work to issue; STREAM_OUT saves a drained cord with its registers and frees its slot; PREEMPTED_STAND_RESUME lets a stand that is out stream back where nothing is reserved, and not one whose die a gang of a higher priority has reserved; STREAM_IN returns its cord, but for a suspended queue's, and makes its context active where no context of the core is and no other is resident; FUSION of two arms at their join leaves the not-taken one with the lanes of both; SERIAL_ARM_START starts the taken arm; CORD_END frees the slot, lowers the stand's count, and ends the stand with its last cord, when no other cord's access is in flight (R35, R36, R40, R49, R52, R59 to R63). That the quantum starts anew at every switch (log entry 58), that the bank that goes on after a fusion is bank 0 (log entry 14), and how idle clocks and a streak are counted (log entry 40), are the model's choices. -/
def Obligations.CordEventsTakeEffect : Prop :=
  ∀ (s : State),
    (∀ (p : PartId) h n rest, rotated (partOf s p).rot (partitionRing s p) = h :: n :: rest → 64 ≤ (partOf s p).streak →
      ∃ t, exec (.rotationStreak p) s = .next t ∧ partOf t p = { partOf s p with rot := some (ageOf n), streak := 0, streakAt := none } ∧ { t with parts := s.parts } = s) ∧
    (∀ (k : CoreId) (a b : Ctx), (coreOf s k).ctxs = [a, b] → (coreOf s k).active = some a.pasid → a.pasid ≠ b.pasid →
      let switched (i : Instr) : Prop := ∃ t, exec i s = .next t ∧ (coreOf t k).active = some b.pasid ∧ (coreOf t k).idle = 0 ∧
        (coreOf t k).quantumLeft = (if s.mgmt.quantum = 0 then 0 else 2 ^ s.mgmt.quantum) ∧ (coreOf t k).ctxs = [{ a with inactive := (coreOf s k).clock.toNat }, b] ∧
        t.cord = s.cord ∧ t.cords = s.cords ∧ t.mem = s.mem
      let pa := contextPriority s k a.pasid
      let pb := contextPriority s k b.pasid
      (pa < pb → switched (.contextSwitch k)) ∧ (pb ≤ pa → exec (.contextSwitch k) s = .next s) ∧
      (s.mgmt.quantum ≠ 0 → (coreOf s k).quantumLeft = 0 → pa = pb → switched (.quantumExpiry k)) ∧
      (511 ≤ (coreOf s k).idle → pa = pb → b.eligible = true → switched (.idleSwitchCount k)) ∧
      ((coreOf s k).idle < 511 → exec (.idleSwitchCount k) s = .next (setCore s k (fun x => { x with idle := x.idle + 1 })))) ∧
    (∀ st : Stand, s.cord.live = true → s.cords = [] → s.cord.id.handler = false → s.cord.mode = .running → s.cord.flights = [] → s.cord.frags = [] → s.cord.frag.tx.lanes = [] →
      s.cord.alloc ≤ 256 → s.cord.tiles ≤ 16 → findStand s s.cord.stand = some st → st.phase = 1 → s.almanac.lock = .free → (partOf s s.cord.id.part).stopped = false →
      (partOf s s.cord.id.part).cordic = [] → (partOf s s.cord.id.part).mq = [] → (coreOf s s.cord.id.core).saved = [] → Memory.wf s.mem = true →
      ∃ t v c, exec (.streamOut s.cord.id.core s.cord.pasid) s = .next t ∧ allCords t = [] ∧ (coreOf t s.cord.id.core).saved = [v] ∧ v.pasid = s.cord.pasid ∧ v.cords = [c] ∧
        c.id = s.cord.id ∧ c.bank0 = s.cord.bank0 ∧ c.bank1 = s.cord.bank1 ∧ c.vregs = s.cord.vregs ∧ c.preds = s.cord.preds ∧ c.acc = s.cord.acc ∧ c.frag.pc = s.cord.frag.pc ∧
        c.frag.mask = s.cord.frag.mask ∧ (coreOf t s.cord.id.core).active = none ∧
        (∀ x, (∀ r ∈ (coreOf s s.cord.id.core).resv, x < r.base ∨ r.base + 2162688 ≤ x) → memGet t.mem x = memGet s.mem x)) ∧
    (∀ (k : CoreId) (c : Cord) (st : Stand), (coreOf s k).saved = [{ pasid := c.pasid, cords := [c] }] → (∀ j, j ≠ k → (coreOf s j).saved = []) → findStand s c.stand = some st →
      (st.phase = 2 → suspended s st.key.queue = true → exec (.streamIn k c.pasid) s = .next s) ∧
      (st.phase = 2 → suspended s st.key.queue = false → ∃ t, exec (.streamIn k c.pasid) s = .next t ∧ t.cord = s.cord ∧ t.cords = s.cords ++ [c] ∧ (coreOf t k).saved = [] ∧ t.mem = s.mem ∧
        findStand t c.stand = some { st with phase := 0, together := [] } ∧
        (coreOf t k).active = if (coreOf s k).active = none ∧ ∀ x ∈ (coreOf s k).ctxs, x.pasid = c.pasid then some c.pasid else (coreOf s k).active) ∧
      (st.phase = 1 → heldAbove s st = true → exec (.preemptedStandResume c.stand) s = .next s) ∧
      (st.phase = 1 → st.together = [] → suspended s st.key.queue = false → (∀ x ∈ allCords s, x.id.handler = false → x.stand ≠ c.stand) → slotsFree s [c] = true →
        (∀ d : DieId, (dieOf s d).reserved = none) → s.disp.reserved = none →
        ∃ t, exec (.preemptedStandResume c.stand) s = .next t ∧ findStand t c.stand = some { st with phase := 2 } ∧ { t with stands := s.stands } = s)) ∧
    (∀ (n : Nat) (a b : Arm) (g : Fragment), s.cord.live = true → s.cord.frags = [g] → a.split = n → b.split = n → a.side = 0 → b.side = 1 → g.id ≠ s.cord.frag.id → (partOf s s.cord.id.part).stopped = false →
      let f := s.cord.frag
      (s.cord.mode = .running → s.cord.flights = [] → f.arms = [a] → g.arms = [b] → a.trans = false → a.top = true → f.status = .atJoin → g.status = .atJoin → f.queue = [] → g.queue = [] →
        f.faults = [] → g.faults = [] → f.after = none →
        ∃ t, exec (.fusion s.cord.id n) s = .next t ∧ t.cord.frags = [] ∧ t.cord.frag.pc = f.pc ∧ t.cord.frag.owned = f.owned ||| g.owned ∧ t.cord.frag.mask = f.mask ||| g.mask ∧
          t.cord.frag.arms = [] ∧ t.cord.frag.status = .running ∧ t.cord.frag.bank = false ∧ t.cord.bank0 = bankOf s.cord f.bank ∧ t.cord.vregs = s.cord.vregs ∧ { t with cord := s.cord } = s) ∧
      (∀ as bs, f.arms = a :: as → g.arms = b :: bs → f.status = .atJoin → g.status = .serial →
        exec (.serialArmStart s.cord.id n) s = .next { s with cord := { s.cord with frags := [atPc g.pc g] } })) ∧
    (∀ st : Stand, s.cord.live = true → s.cord.mode = .ended → s.cord.flights = [] → s.cord.id.handler = false → s.cord.batches = [] → (partOf s s.cord.id.part).stopped = false → findStand s s.cord.stand = some st →
      s.cord.exitSeen = false → 2 ≤ st.cordsLeft ∨ (∀ c ∈ s.cords, c.flights = []) →
      ∃ t, exec (.cordEnd s.cord.id) s = .next t ∧ t.cord = Cord.blank ∧ t.mem = s.mem ∧ ((s.cord.id.slot.toNat % 16, s.cord.exitPc) ∈ (partOf t s.cord.id.part).exits) ∧
        (2 ≤ st.cordsLeft → t.cords = s.cords ∧ findStand t s.cord.stand = some { st with cordsLeft := st.cordsLeft - 1 }) ∧
        (st.cordsLeft = 1 → findStand t s.cord.stand = none ∧
          ∀ l, findLaunch s s.cord.stand.queue s.cord.stand.seq = some l → findLaunch t s.cord.stand.queue s.cord.stand.seq = some { l with ended := l.ended + 1 }))

/-- LAUNCH_RECORD_FETCH of a queue whose next record is translated and at hand enters the launch with the 128 bytes of the record, moves HEAD and makes a journal entry; a record out of range completes at once with STATUS 1; GANG_PLACEMENT of a launch with one stand per gang that fits on die 0 places that stand with its cords running at the entry, ARGS in d1 (scalar registers 2 and 3); LEVEL_GROUP_COMPLETE and LAUNCH_COMPLETE, with nothing left of the group or launch and nothing dirty, mark it, the launch with a completion of STATUS 0, or 3 after a failed dependence; COMPLETION_RECORD_WRITE writes the 32 bytes of the record, and a full ring withholds it (R40, R45, R46, R48, R258 to R261). Which of a queue's launches is next (log entry 55) and the partitions, banks and die that a gang takes (log entry 38) are the model's choices. -/
def Obligations.DispatcherTakesEffect : Prop :=
  ∀ (s : State) (q : QueueNo) (x : Queue), findQueue s q = some x → q ≠ 0 →
    (∀ e : TlbEntry, hasRecord x = true → calm s → s.englines = [] →
      let a := x.ring + 128 * (x.head.toNat % 2 ^ x.q)
      a < 2 ^ 56 → a % 128 = 0 → tlbFind (dieOf s 0).ats x.pasid a 1 = some e → ownsAt s (tlbPhys e a) → tlbPhys e a % 128 = 0 →
      let r : BitVec 1024 := BitVec.ofNat 1024 (memRead s.mem (tlbPhys e a) 128)
      let fetched (n : Nat) (p : State → Launch → Prop) : Prop := ∃ t l, exec (.launchRecordFetch q) s = .next t ∧ t.launches = s.launches ++ [l] ∧ l.queue = q ∧ l.seq = x.nextSeq ∧
        l.record = r ∧ l.placed = 0 ∧ findQueue t q = some { x with head := x.head + 1, nextSeq := x.nextSeq + 1 } ∧ t.mgmt.journalSeq = s.mgmt.journalSeq + n ∧ p t l
      findLaunch s q x.nextSeq = none → (∀ l ∈ s.launches, recDeps l.record = []) → recDeps r = [] →
      (recordOk r = true → fitsEmpty s x r = true → fetched 1 (fun t l => l.done = false ∧ l.outcome = none ∧ t.completions = s.completions)) ∧
      (recordOk r = false → fetched 2 (fun t l => l.done = true ∧ l.outcome = some (1, 0) ∧
        ∃ k, t.completions = s.completions ++ [k] ∧ k.queue = q ∧ k.seq = x.nextSeq ∧ k.tag = recTag r ∧ k.status = 1 ∧ k.code = 0))) ∧
    (∀ (l : Launch) qs xs rs, servingOrder s = x :: qs → nextLaunch s x = some l → findLaunch s l.queue l.seq = some l → recTogether l.record = false → recExtent l.record 1 = 1 →
      packageHeld s l x.priority = false → dieHeld s l x.priority 0 = false →
      fitDie (bankOrder s.tick) (needOfRecord x l.record) 1 ((dieClusters 0).map (roomOf s [] (needOfRecord x l.record))) = some (xs, rs) →
      ∃ t st, exec .gangPlacement s = .next t ∧ t.stands = s.stands ++ [st] ∧ st.key.queue = l.queue ∧ st.key.seq = l.seq ∧ st.key.num = gangNumber l.record l.nextGang * 2 ^ recWidth l.record 1 ∧
        st.window = [] ∧ st.phase = 0 ∧ st.cluster.die = 0 ∧ st.cordsLeft = recCords l.record ∧ t.mem = s.mem ∧ t.cord = s.cord ∧
        t.cords.take s.cords.length = s.cords ∧ t.cords.length = s.cords.length + recCords l.record ∧
        (∀ i c, t.cords[s.cords.length + i]? = some c → c.stand = st.key ∧ c.index = i ∧ c.mode = .running ∧ c.frag.pc = BitVec.ofNat 32 (recField l.record 44 4) ∧
          c.frag.mask = cordLanes l.record i ∧ (c.bank0.getD 3 0 ++ c.bank0.getD 2 0 : DWord) = BitVec.ofNat 64 (recField l.record 56 8)) ∧
        ∃ m, findLaunch t l.queue l.seq = some m ∧ m.nextGang = l.nextGang + 1 ∧ m.placed = l.placed + 1) ∧
    (∀ (l : Launch), findLaunch s q l.seq = some l → (∀ k : ClusterId, (clusterOf s k).lines = []) → s.fabric.outstanding = [] → contributionsBusy q l.seq s = false → dumpOut q l.seq s = false →
      (∀ lv g, 2 ≤ lv → lv ≤ 5 → hasGroup l.record lv g = true → l.groups.contains (lv, g) = false → groupPlaced l lv g = true →
        (∀ st ∈ s.stands, (ofLaunch q l.seq st.key && inGroup l.record lv g st.key) = false) → enginesBusy (fun k => ofLaunch q l.seq k && inGroup l.record lv g k) s = false →
        ∃ t, exec (.levelGroupComplete q l.seq lv g) s = .next t ∧ findLaunch t q l.seq = some { l with groups := l.groups ++ [(lv, g)] } ∧ { t with launches := s.launches } = s) ∧
      (l.done = false → placementOver l = true → l.ended = l.placed → enginesBusy (ofLaunch q l.seq) s = false → (∀ m ∈ s.launches, recDeps m.record = []) →
        let ends (status code : Nat) : Prop := ∃ t k, exec (.launchComplete q l.seq) s = .next t ∧ findLaunch t q l.seq = some { l with done := true, outcome := some (status, code) } ∧
          t.completions = s.completions ++ [k] ∧ k.queue = q ∧ k.seq = l.seq ∧ k.tag = recTag l.record ∧ k.status = status ∧ k.code = code ∧ k.jseq = s.mgmt.journalSeq ∧
          k.cint = recFlag l.record 3 ∧ t.mgmt.journalSeq = s.mgmt.journalSeq + 1
        (l.outcome = none → l.depFailed = false → ends 0 0) ∧ (l.outcome = none → l.depFailed = true → ends 3 0) ∧ (∀ z w, l.outcome = some (z, w) → ends z w))) ∧
    (∀ (k : Completion), s.completions.find? (fun c => c.queue == q) = some k →
      ((x.written - x.chead).toNat = 2 ^ x.c → exec (.completionRecordWrite q) s = .next s) ∧
      (∀ e : TlbEntry, (x.written - x.chead).toNat ≠ 2 ^ x.c → calm s → s.englines = [] → Memory.wf s.mem = true →
        let a := x.comp + 32 * (x.written.toNat % 2 ^ x.c)
        a < 2 ^ 56 → a % 32 = 0 → tlbFind (dieOf s 0).ats x.pasid a 2 = some e → ownsAt s (tlbPhys e a) →
        ∃ t, exec (.completionRecordWrite q) s = .next t ∧ t.completions = s.completions.erase k ∧ findQueue t q = some { x with written := x.written + 1 } ∧
          memRead t.mem (tlbPhys e a) 32 = k.seq % 2 ^ 64 + 2 ^ 64 * k.tag.toNat + 2 ^ 96 * (k.status % 256) + 2 ^ 104 * (k.code % 256) +
            2 ^ 112 * (if x.written.toNat / 2 ^ x.c % 2 = 0 then 1 else 0) + 2 ^ 128 * (k.jseq % 2 ^ 64) + 2 ^ 192 * k.extra.toNat ∧
          (∀ y, y < tlbPhys e a ∨ tlbPhys e a + 32 ≤ y → memGet t.mem y = memGet s.mem y)))

/-- WALK_FILL of a current walk: a leaf that permits the access is cached for the waiting core with A set in its entry, and the lane goes on; no mapping and a denied permission give the lane 0x07 and 0x08 to ask a page request for, a table that cannot be read its own fault; a walk that still waits for a table changes no lane; one stamped before an invalidation starts again. PAGE_RESPONSE_SUCCESS lets the lanes parked on the page try again, PAGE_RESPONSE_INVALID_REQUEST fails them with the code that their walk found, PAGE_RESPONSE_FAILURE and a PAGE_REQUEST_TIMEOUT with a timeout set also stop the die's page requests, and without a timeout the last does nothing. INVALIDATION with nothing in flight raises every die's sequence number, drops the entries it names at every level, and is complete; it waits at the IOMMU behind others, or while a die has 32 under way (R160 to R162, R166, R257). The model's choices: the layout of an entry, its A bit of value 64 among it (log entry 6), and the order of the fills and answers (log entry 36). -/
def Obligations.TranslationEventsTakeEffect : Prop :=
  (∀ (s : State) (d : DieId) (p : Pasid) (page : Nat) (w : Walk) (f : Flight) (l : LaneAcc), (dieOf s d).walks.find? (fun w => w.pasid == p && w.page == page) = some w →
    s.cord.live = true → s.cord.flights = [f] → f.lanes = [l] → l.st = .walking → lanePage f l = page → laneNeed f l = 1 → underPasid d p s.cord = true → w.need = [1] → w.engines = [] →
    let e := walkEng d p page
    let found (t : State) : Option Walk := (dieOf t d).walks.find? (fun w => w.pasid == p && w.page == page)
    let walkless (t : State) : Prop := (dieOf t d).walks = (dieOf s d).walks.filter (fun w => !(w.pasid == p && w.page == page))
    let lane (t : State) (st : AccState) : Prop := t.cord.flights = [{ f with lanes := [{ l with st := st }] }] ∧ walkless t
    (w.stamp < (dieOf s d).isn → engOut s e.id = false → ∃ t, exec (.walkFill d p page) s = .next t ∧ { t with dies := s.dies, englines := s.englines, answers := s.answers } = s ∧
      found t = some { w with stamp := (dieOf s d).isn }) ∧
    ((dieOf s d).isn ≤ w.stamp → ∀ (res : WalkResult) (m : State), walkNow e p (page * 4096) 1 s = (res, m) →
      (∀ shift frame r wr x dd a te, res = .leaf shift frame r wr x dd a → walkEntry p (page * 4096) 1 res = some te → calm s → ownsAt s a → s.englines = [] →
        ∃ t, exec (.walkFill d p page) s = .next t ∧ lane t .todo ∧ te ∈ (dieOf t d).ats ∧ te ∈ (coreOf t s.cord.id.core).tlb ∧ te ∈ (clusterOf t s.cord.id.core.cluster).tlb ∧
          t.mem = memWrite s.mem a 4 (memRead s.mem a 4 ||| 64)) ∧
      (res = .absent → ∃ t, exec (.walkFill d p page) s = .next t ∧ lane t (.missed 7) ∧ t.mem = s.mem) ∧
      (res = .denied → ∃ t, exec (.walkFill d p page) s = .next t ∧ lane t (.missed 8) ∧ t.mem = s.mem) ∧
      (∀ code, res = .refused code → ∃ t, exec (.walkFill d p page) s = .next t ∧ lane t (.missed (256 + code)) ∧ t.mem = s.mem) ∧
      (res = .later → ∃ t, exec (.walkFill d p page) s = .next t ∧ t.cord.flights = s.cord.flights ∧ found t = some w ∧ t.mem = s.mem))) ∧
  (∀ (s : State) (r : PageRef) (q : PageReq) (f : Flight) (l : LaneAcc) (k : Nat), findRequest s r = some q → s.cord.live = true → s.cord.flights = [f] → f.lanes = [l] → l.st = .parked k →
    parkedOn r f l = true → underPasid r.die r.pasid s.cord = true → (∀ k : CoreId, (coreOf s k).log = []) →
    let lane (t : State) (m : LaneAcc) (c : Nat × Nat → Nat) : Prop := t.cord.flights = [{ f with lanes := [m] }] ∧ findRequest t r = none ∧ t.mem = s.mem ∧
      t.answers = s.answers ++ q.engines.map (fun e => { id := e.1, page := r.page, write := r.write, code := c e })
    let failed (t : State) : Prop := lane t { l with st := .failed k 0 } (fun e => e.2)
    (∃ t, exec (.pageResponseSuccess r) s = .next t ∧ lane t { l with st := .todo, tries := l.tries + 1 } (fun _ => 0) ∧ (dieOf t r.die).requestsOff = (dieOf s r.die).requestsOff) ∧
    (∃ t, exec (.pageResponseInvalidRequest r) s = .next t ∧ failed t ∧ (dieOf t r.die).requestsOff = (dieOf s r.die).requestsOff) ∧
    (∃ t, exec (.pageResponseFailure r) s = .next t ∧ failed t ∧ (dieOf t r.die).requestsOff = true) ∧
    ((dieOf s r.die).timeout ≠ 0 → ∃ t, exec (.pageRequestTimeout r) s = .next t ∧ failed t ∧ (dieOf t r.die).requestsOff = true) ∧
    ((dieOf s r.die).timeout = 0 → exec (.pageRequestTimeout r) s = .next s)) ∧
  (∀ (s : State) (p : Option Pasid) (g : Option Nat),
    (s.iommu.queue ≠ [] ∨ (∃ d : DieId, 32 ≤ (dieOf s d).invals.length) → exec (.invalidation p g) s = .next { s with iommu := { s.iommu with queue := s.iommu.queue ++ [(p, g)] } }) ∧
    (s.iommu.queue = [] → (∀ d : DieId, (dieOf s d).walks = [] ∧ (dieOf s d).invals = []) → (∀ c ∈ allCords s, c.flights = []) → s.fabric.outstanding = [] →
      (∀ c : ClusterId, (clusterOf s c).lines = []) → (∀ k : CoreId, (coreOf s k).log = []) →
      let keep (es : List TlbEntry) : List TlbEntry := es.filter (fun e => !invMatches p g e)
      ∃ t, exec (.invalidation p g) s = .next t ∧ t.mem = s.mem ∧ t.cord = s.cord ∧ t.cords = s.cords ∧
        (∀ d : DieId, dieOf t d = { dieOf s d with isn := (dieOf s d).isn + 1, ats := keep (dieOf s d).ats, invDone := (dieOf s d).invDone + 1 }) ∧
        (∀ c : ClusterId, clusterOf t c = { clusterOf s c with tlb := keep (clusterOf s c).tlb }) ∧
        (∀ k : CoreId, coreOf t k = { coreOf s k with tlb := keep (coreOf s k).tlb })))

/-- Requests at the package that owns what they address, with nothing held back: RD and BRD return the bytes of memory, WR, BWR and WRM store theirs (WRM those its mask names), an AT of fn 0 returns the old value and stores the sum, a WRM whose mask is empty marks the line failed (the model's form of an eviction of a line whose copy has failed, log entry 9), NST stores its data and then raises its flag by one, MSG appends to its ring or is refused, REG returns the owner record or refuses, RDX joins the queue of the slot's unit, and COH fetches enter a node partner in the directory, shared or exclusive; COH invalidate and recall, of a line that another package owns or any other, give up this package's copy, recall with its dirty bytes; MSG needs no granule of this package. Each but RDX is answered with the bytes, those of BRD as bulk traffic, or with an acknowledgement (R111, R231, R234, R238, R240, R247). -/
def Obligations.OwnerAnswersRequests : Prop :=
  ∀ (s : State) (r : Req), r.dst = s.fabric.num →
    let a := reqAddr r
    let n := sizeBytes r.size
    let line := lineOf a
    let old := memRead s.mem a n
    (calm s → ownsAt s a →
    (∃ t, exec (.rd r) s = .next t ∧ t.mem = s.mem ∧ answers r n old s t) ∧
    (∃ t, exec (.wr r) s = .next t ∧ t.mem = memWrite s.mem a n (payNat r 0 n) ∧ acks r s t) ∧
    (payNat r 0 16 ≠ 0 → ∃ t, exec (.wrm r) s = .next t ∧ t.mem = memWriteMask s.mem line 128 (payNat r 16 128) (payNat r 0 16) ∧ acks r s t) ∧
    (payNat r 0 16 = 0 → s.mgmt.journal = none → s.mgmt.events = none → ∃ t, exec (.wrm r) s = .next t ∧ t.mem = s.mem ∧ line ∈ t.failed ∧ acks r s t) ∧
    (r.fn = 0 → n = 4 ∨ n = 8 → ∃ t, exec (.atReq r) s = .next t ∧ t.mem = memWrite s.mem a n ((old + payNat r 0 8) % 2 ^ (8 * n)) ∧ answers r n old s t) ∧
    (payNat r 0 16 < 2 ^ 57 → ownsAt s (payNat r 0 16) → (isPartner s.fabric r.src = true → lineOf (payNat r 0 16) ≠ line) →
      let m := memWrite s.mem a n (payNat r 16 n)
      ∃ t, exec (.nst r) s = .next t ∧ t.mem = memWrite m (payNat r 0 16) 4 ((memRead m (payNat r 0 16) 4 + 1) % 2 ^ 32) ∧ acks r s t) ∧
    (∃ t, exec (.bwr r) s = .next t ∧ t.mem = memWrite s.mem a n (payNat r 0 n) ∧ acks r s t) ∧
    (let d : OutMsg := .resp 0x21 { src := s.fabric.num, dst := r.src, tag := r.tag, size := r.size, payload := bytesOfNat n old }
     ∃ t, exec (.brd r) s = .next t ∧ t.mem = s.mem ∧ (r.src = s.fabric.num → sends r.src d s t) ∧
      (r.src ≠ s.fabric.num → t.fabric.bulk = s.fabric.bulk ++ [{ dst := r.src, addr := a, msg := d }] ∧ t.fabric.peers = s.fabric.peers ∧ t.agenda = s.agenda)) ∧
    (∀ o, ownedAt s.fabric (gfnOf a) = some o → (dieOf s (rdxDie o.1)).rdx.length < 64 →
      let joins (i : Instr) (fn : BitVec 4) (tree : Bool) : Prop := ∃ t, exec i s = .next t ∧ t.mem = s.mem ∧ (dieOf t (rdxDie o.1)).rdx = (dieOf s (rdxDie o.1)).rdx ++
        [{ launch := none, tree := tree, slot := a / 64 * 64, index := BitVec.ofNat 32 (payNat r 0 4), value := BitVec.ofNat 64 (payNat r 4 8), scope := r.scope.toNat, reply := some { r with fn := fn } }]
      joins (.rdxTree r) 0 true ∧ joins (.rdxArrival r) 1 false) ∧
    (isPartner s.fabric r.src = true →
      let fetches (i : Instr) (m : Bool) : Prop := ∃ t, exec i s = .next t ∧ t.mem = s.mem ∧ acks r s t ∧ t.fabric.directory = [{ line := line, modified := m, mask := 1#4 <<< position r.src }]
      fetches (.cohFetchShared r) false ∧ fetches (.cohFetchExclusive r) true)) ∧
    (s.fabric.pending = [] →
     let h : Word := r.addr.setWidth 32
     let k : ClusterId := h.extractLsb' 19 6
     (∀ sub, ringRefusal (clusterOf s k) h r.pasid = some sub → ∃ t, exec (.msg r) s = .next t ∧ t.mem = s.mem ∧ refuses r 9 sub s t) ∧
     (∀ g, ringRefusal (clusterOf s k) h r.pasid = none → ringAt (clusterOf s k) (h.extractLsb' 13 6) = some g → ringCount g < ringSize g → (clusterOf s k).inbound = [] →
       ∃ t, exec (.msg r) s = .next t ∧ t.mem = s.mem ∧ acks r s t ∧
         ringAt (clusterOf t k) (h.extractLsb' 13 6) = some { g with recs := memWrite g.recs (16 * (g.tail.toNat % ringSize g)) 16 (payNat r 0 16 % 2 ^ 128), tail := g.tail + 1 })) ∧
    (∀ sub, refusalOf s.fabric (gfnOf a) = some sub → ∃ t, exec (.reg r) s = .next t ∧ t.mem = s.mem ∧ refuses r 9 sub s t) ∧
    (refusalOf s.fabric (gfnOf a) = none → registrarOf s.fabric (gfnOf a) = s.fabric.num →
      ∃ t, exec (.reg r) s = .next t ∧ t.mem = s.mem ∧ answers r 16 (recordBytes (recordOf s.fabric (gfnOf a))) s t) ∧
    (let gone (t : State) : Prop := t.mem = s.mem ∧ t.fabric.partner = s.fabric.partner.filter (fun x => x.line != line)
     (∃ t, exec (.cohInvalidate r) s = .next t ∧ gone t ∧ acks r s t) ∧
     (∀ x, s.fabric.partner.find? (fun x => x.line == line) = some x → x.modified = true → ∃ t, exec (.cohRecall r) s = .next t ∧ gone t ∧
       sends r.src (.resp 0x21 { src := s.fabric.num, dst := r.src, tag := r.tag, size := 4, payload := bytesOfNat 144 (x.dirty.toNat + 2 ^ 128 * x.data.toNat) }) s t))

/-- CLUSTER_CACHE_EVICTION writes a line's dirty bytes back to memory, or drops its clean ones; DIRECTORY_ENTRY_EVICTION recalls the copy that the entry tracks; PARTNER_LINE_EVICTION drops a clean copy and sends the dirty bytes of another to the owner; BANK_RETENTION_DROP marks a bank not touched for the threshold. MIG reserve takes a free frame or answers 0x09 subcode 1; record update writes the record with the next generation; announce makes every die forget the owner; acknowledge, reclaim, outcome and request act on stump, record, status word and waiting list; MIGRATION_DEQUEUE starts the move; STUMP_INSTALL gives the granule up with its memory; ANNOUNCEMENT_DRAINED ends the announcement, its acknowledgement due to the old owner (R118, R125, R234, R249 to R254). The model's choices: how a MIG payload is packed, the old owner in an announcement, and the writes and messages 0x42 and 0x43 that wait here (log entries 9, 75), the reserve's refusal (log entry 46), and that given-up memory reads 0 (log entry 1). -/
def Obligations.EvictionsAndMigrationsTakeEffect : Prop :=
  (∀ (s : State) (c : ClusterId) (l : CacheLine), (clusterOf s c).lines.filter (fun x => x.addr == l.addr) = [l] → l.dirty ≠ 0 → l.valid ≠ 0 →
    (calm s → ownsAt s l.addr → copyBad (clusterOf s c) l.addr l.stack = false → ∃ t, exec (.clusterCacheEviction c l.addr true) s = .next t ∧ t.mem = memWriteMask s.mem l.addr 128 l.data.toNat l.dirty.toNat ∧
      cacheLine (clusterOf t c) l.addr l.stack = { l with dirty := 0 }) ∧
    (∃ t, exec (.clusterCacheEviction c l.addr false) s = .next t ∧ t.mem = s.mem ∧ cacheLine (clusterOf t c) l.addr l.stack = { l with valid := l.dirty })) ∧
  (∀ (s : State) (e : DirEntry) (p : PkgNo), s.fabric.directory.find? (fun x => x.line == e.line) = some e → maskPartners s.fabric e.mask = [p] → cohOut s.fabric e.line p = false →
    e.line < 2 ^ 57 → s.fabric.joined = true → linkDown s.fabric p = false → (freeTag s.fabric 4 p).isSome = true →
    ∃ t o, exec (.directoryEntryEviction e.line) s = .next t ∧ t.fabric.outstanding = s.fabric.outstanding ++ [o] ∧ o.op = 0x0A ∧ o.req.fn = (if e.modified then 3 else 2) ∧ o.req.dst = p ∧
      reqAddr o.req = e.line ∧ sends p (.req 0x0A o.req) s t ∧ t.mem = s.mem) ∧
  (∀ (s : State) (x : PartnerLine), s.fabric.partner.find? (fun y => y.line == x.line) = some x → (∀ y ∈ s.fabric.partner, y.line % 128 = 0) →
    let gone (t : State) : Prop := t.fabric.partner = s.fabric.partner.filter (fun y => y.line != x.line) ∧ t.mem = s.mem
    (x.modified = false ∨ x.dirty = 0 → ∃ t, exec (.partnerLineEviction x.line) s = .next t ∧ gone t ∧ t.fabric.outstanding = s.fabric.outstanding ∧ t.agenda = s.agenda) ∧
    (x.modified = true → x.dirty ≠ 0 → (freeTag s.fabric 4 x.owner).isSome = true → ∃ t o, exec (.partnerLineEviction x.line) s = .next t ∧ gone t ∧
      t.fabric.outstanding = s.fabric.outstanding ++ [o] ∧ o.op = 0x03 ∧ o.req.dst = x.owner ∧ o.req.payload = bytesOfNat 16 x.dirty.toNat ++ bytesOfNat 128 x.data.toNat)) ∧
  (∀ (s : State) (b : SliceBank), s.mgmt.retain ≠ 0 → b.die ≤ 4 → b.slice < (if b.die = 4 then 32 else 48) → b.bank < 8 → s.mgmt.drowsy.contains b = false →
    (bankTouched s b = false → 2 ^ s.mgmt.retain ≤ (s.mgmt.sliceClocks.getD b.die 0).toNat → exec (.bankRetentionDrop b) s = .next { s with mgmt := { s.mgmt with drowsy := s.mgmt.drowsy ++ [b] } }) ∧
    (bankTouched s b = true → exec (.bankRetentionDrop b) s = .next s)) ∧
  (∀ (s : State) (r : Req), r.dst = s.fabric.num →
    let g := gfnOf (reqAddr r)
    (∀ k, freeFrame s.fabric (migPool r) = some k → ∃ t, exec (.migReserve r) s = .next t ∧ t.mem = s.mem ∧ answers r 16 (natOfBytes (migPayload g s.fabric.num (migPool r) k 0)) s t ∧
      ∃ x ∈ t.fabric.incoming, x.gfn = g ∧ x.old = r.src ∧ x.pool = migPool r ∧ x.frame = k ∧ x.src = migPkg r ∧ x.left = 16384) ∧
    (freeFrame s.fabric (migPool r) = none → ∃ t, exec (.migReserve r) s = .next t ∧ t.mem = s.mem ∧ refuses r 9 1 s t) ∧
    (migGen r = 0 → migPool r < 8 → (recordOf s.fabric g).owner = migPkg r → ∃ t, exec (.migRecordUpdate r) s = .next t ∧ t.mem = s.mem ∧ acks r s t ∧
      recordOf t.fabric g = { recordOf s.fabric g with pool := migPool r, frame := migFrame r, gen := (recordOf s.fabric g).gen + 1, moving := false, retired := false }) ∧
    (migGen r = 0 → migPool r < 8 → (recordOf s.fabric g).owner ≠ migPkg r → ∃ t, exec (.migRecordUpdate r) s = .next t ∧ t.mem = s.mem ∧
      recordOf t.fabric g = { recordOf s.fabric g with owner := migPkg r, pool := migPool r, frame := migFrame r, gen := (recordOf s.fabric g).gen + 1, stumps := (recordOf s.fabric g).stumps + 1, moving := false, retired := false }) ∧
    (∃ t a, exec (.migAnnounce r) s = .next t ∧ t.mem = s.mem ∧ acks r s t ∧ t.fabric.announces = s.fabric.announces ++ [a] ∧ a.gfn = g ∧ a.owner = migPkg r ∧ a.ackDue = true ∧
      (∀ d : DieId, (dieOf t d).ownerCache = (dieOf s d).ownerCache.filter (fun e => e.1 != g) ∧ (dieOf t d).ownerInv = (dieOf s d).ownerInv + 1)) ∧
    (∀ x p ps, s.fabric.stumps = [x] → x.gfn = g → x.missing.filter (fun q => q != r.src) = p :: ps → ∃ t, exec (.migAcknowledge r) s = .next t ∧ t.mem = s.mem ∧ acks r s t ∧
      t.fabric.stumps = [{ x with missing := p :: ps }]) ∧
    (∀ x, s.fabric.stumps = [x] → x.gfn = g → x.missing.filter (fun q => q != r.src) = [] → ∃ t, exec (.migAcknowledge r) s = .next t ∧ t.mem = s.mem ∧ t.fabric.stumps = []) ∧
    (∃ t, exec (.migReclaim r) s = .next t ∧ t.mem = s.mem ∧ acks r s t ∧ recordOf t.fabric g = { recordOf s.fabric g with stumps := (recordOf s.fabric g).stumps - 1 }) ∧
    (∀ o pa, s.fabric.outstanding = [o] → o.op = 0x0B → o.req.fn = 6 → o.req.tag = r.tag → gfnOf (reqAddr o.req) = g → o.waiter = .mig (.phys pa) → pa < 2 ^ 57 →
      let word := 2 ^ 31 + migGen r / 65536 % 256 * 65536
      ∃ t m, exec (.migOutcome r) s = .next t ∧ t.fabric.outstanding = [] ∧ acks r s t ∧ t.mem = s.mem ∧ t.fabric.pending = s.fabric.pending ++ [.req 0x42 m] ∧ reqAddr m = pa ∧
        m.payload = bytesOfNat 4 word ∧ (calm s → ownsAt s pa → (retryPending 0 t).mem = memWrite s.mem pa 4 word)) ∧
    (s.fabric.incoming = [] → ownsAt s (reqAddr r) → ∃ t, exec (.migRequest r) s = .next t ∧ t.mem = s.mem ∧
      t.fabric.waiting = s.fabric.waiting ++ [{ gfn := g, dest := migPkg r, pool := migPool r, src := r.src, tag := r.tag }] ∧ (r.src ≠ s.fabric.num → acks r s t))) ∧
  (∀ (s : State) (m : MigReq) (o : Nat × Nat), s.fabric.waiting = [m] → s.fabric.moves = [] → s.fabric.incoming = [] → ownedAt s.fabric m.gfn = some o → (m.dest ≠ s.fabric.num ∨ m.pool ≠ o.1) →
    openSlots s m.gfn = false → queuedFor s m.gfn = false → exec .migrationDequeue s = .next { s with fabric := { s.fabric with waiting := [], moves := [{ req := m, step := 1, gen := 0, frame := 0, chunk := 0, held := [] }] } }) ∧
  (∀ (s : State) (m : Move) (o : Nat × Nat), s.fabric.moves = [m] → ownedAt s.fabric m.req.gfn = some o → m.step = 4 → 4096 ≤ m.chunk → m.held = [] → waiting s (.copyChunk m.req.gfn) = false →
    s.mgmt.watches = [] → Memory.wf s.mem = true →
    let g := m.req.gfn
    ∃ t x, exec (.stumpInstall g) s = .next t ∧ ownedAt t.fabric g = none ∧ t.fabric.moves = [] ∧ t.fabric.stumps = s.fabric.stumps ++ [x] ∧ x.gfn = g ∧ x.owner = m.req.dest ∧ x.pool = o.1 ∧
      x.frame = o.2 ∧ x.missing = s.fabric.present ∧ (∀ a, memGet t.mem a = if gfnOf a = g ∧ a < 2 ^ 57 then 0 else memGet s.mem a)) ∧
  (∀ (s : State) (a : Announce), s.fabric.announces = [a] → s.fabric.outstanding = [] → s.fabric.stumps = [] →
    (a.ackDue = false → exec (.announcementDrained a.gfn) s = .next { s with fabric := { s.fabric with announces := [] } }) ∧
    (a.ackDue = true → ∃ t m, exec (.announcementDrained a.gfn) s = .next t ∧ t.fabric.announces = [] ∧ t.fabric.pending = s.fabric.pending ++ [.req 0x43 m] ∧ m.fn = 3 ∧ m.dst = a.old ∧
      m.payload = migPayload a.gfn s.fabric.num 0 0 0 ∧ t.mem = s.mem))

/-- ACK of a store and DATA of an atomic end the request and complete the lane, DATA with the old value; NEG other than 0x0A, and the fourth 0x0A in a row, fails the lane with its code; REDIR newer than any applied names the new owner in every die's cache, and an older one does nothing; LINKACK frees flits up to its number, LINKNAK and RESEND_TIMEOUT send flits again; FLIT_RECEIVE of a flit that fails its check asks for the expected one again, of the expected one raises the number and acknowledges, and of another package's does nothing; DWELL_OPENER names a fibre's peer in the matching of its slot, ROTOR_SLOT goes to the next of 127 slots and ends every dwell, a failure limit retrains a link or marks a fibre failed, LINK_RETRAIN_RESULT brings the link up or down, and RELAY_FORWARD sends a relayed message on at a direct match (R141, R172, R239, R242 to R246, R251). That a redirect names the owner in every die's cache is the model's choice (log entry 47), and so is what counts as a failure of a flit and how a retrain ends (log entry 48). -/
def Obligations.RepliesAndFabricTakeEffect : Prop :=
  (∀ (s : State) (r : Resp) (o : Outstanding) (f : Flight) (l : LaneAcc) (b : Bool), r.dst = s.fabric.num → answered s.fabric r.src r.tag = some o → s.fabric.outcomes.contains (r.src, r.tag) = false →
    s.cord.live = true → s.cord.flights = [f] → f.lanes = [l] → o.waiter = .access s.cord.id f.id l.lane b →
    let ended (t : State) (st : AccState) : Prop := t.cord.flights = [{ f with lanes := [{ l with st := st }] }] ∧ t.fabric.outstanding = s.fabric.outstanding.erase o ∧ t.mem = s.mem
    (o.op = 0x03 → f.op = .store → ∃ t, exec (.ack r) s = .next t ∧ ended t (.done 0)) ∧
    (∀ fn, o.op = 0x04 → f.op = .atom fn → ∃ t, exec (.data r) s = .next t ∧ ended t (.done (BitVec.ofNat 64 (natOfBytes r.payload)))) ∧
    (∀ n : NegMsg, n.src = r.src → n.tag = r.tag → o.op = 0x04 → f.op ≠ .prefetch → n.code ≠ 0x0A ∨ 3 ≤ o.naks → n.code ≠ 0x0B →
      ∃ t, exec (.neg n) s = .next t ∧ ended t (.failed n.code.toNat n.sub.toNat))) ∧
  (∀ (s : State) (m : RedirMsg), (newerGen s.fabric m.gfn m.gen.toNat = false → exec (.redir m) s = .next s) ∧
    (newerGen s.fabric m.gfn m.gen.toNat = true → s.fabric.outstanding = [] → ∃ t, exec (.redir m) s = .next t ∧ t.fabric.announces = s.fabric.announces ∧ t.mem = s.mem ∧
      t.fabric.gens = (m.gfn, m.gen.toNat) :: s.fabric.gens.filter (fun x => x.1 != m.gfn) ∧
      (∀ d : DieId, (dieOf t d).ownerCache = ((m.gfn, m.owner, m.gen.toNat) :: (dieOf s d).ownerCache.filter (fun e => e.1 != m.gfn)).take 8192 ∧ (dieOf t d).ownerInv = (dieOf s d).ownerInv + 1))) ∧
  (∀ (s : State) (p : PkgNo) (q : Word) (via : Port),
    let sent := (peerOf s.fabric p).sent
    let again (y : SentFlit) : SentFlit := if y.due then y else { y with fails := y.fails + 1, failed := true, due := true }
    let before (a b : Word) : Bool := decide ((b - a).toNat < 2 ^ 31)
    (∃ t, exec (.linkack p q) s = .next t ∧ (peerOf t.fabric p).sent = sent.filter (fun y => !before y.seq q) ∧ t.mem = s.mem ∧ t.cord = s.cord) ∧
    (∃ t, exec (.linknak p q) s = .next t ∧ (peerOf t.fabric p).sent = sent.map (fun y => if before q y.seq then again y else y) ∧ { t with fabric := s.fabric } = s) ∧
    (∃ t, exec (.resendTimeout p via) s = .next t ∧ (peerOf t.fabric p).sent = sent.map (fun y => if y.port = via then again y else y) ∧ { t with fabric := s.fabric } = s)) ∧
  (∀ (s : State) (via : Port) (bs : List Byte) (p : PkgNo), s.fabric.joined = true → portLit s via = true → portPeer s.fabric via = some p →
    (flitOk bs = false → ∃ t, exec (.flitReceive via bs) s = .next t ∧ { t with fabric := s.fabric } = s ∧
      (peerOf t.fabric p).dropping = true ∧ (peerOf t.fabric p).nakDue = true ∧ (peerOf t.fabric p).early = [] ∧ (peerOf t.fabric p).expect = (peerOf s.fabric p).expect) ∧
    (flitOk bs = true → (∀ w, via = .fibre w → flitField bs 120 1 = 0) →
      (flitSrc bs ≠ p → exec (.flitReceive via bs) s = .next s) ∧
      (flitSrc bs = p → flitSequenced bs = true → flitSeq bs = (peerOf s.fabric p).expect → (peerOf s.fabric p).early = [] →
        ∃ t, exec (.flitReceive via bs) s = .next t ∧ (peerOf t.fabric p).expect = (peerOf s.fabric p).expect + 1 ∧ (peerOf t.fabric p).ackDue = true ∧
          (peerOf t.fabric p).dropping = false ∧ t.mem = s.mem ∧ t.cord = s.cord))) ∧
  (∀ (s : State) (w : BitVec 7) (p : PkgNo), fibreDark s w.toNat = false → s.fabric.present.contains p = true → sameNode p s.fabric.num = false →
    matchingOf s.fabric.num.toNat p.toNat = switchMatching s.fabric w.toNat → ∃ t, exec (.dwellOpener w p) s = .next t ∧ t.fabric.openers = (w.toNat, p) :: s.fabric.openers.filter (fun o => o.1 != w.toNat) ∧ t.mem = s.mem ∧ t.cord = s.cord) ∧
  (∀ s : State, ∃ t, exec .rotorSlot s = .next t ∧ { t with fabric := s.fabric } = s ∧ t.fabric.slot = (s.fabric.slot + 1) % 127 ∧ t.fabric.openers = [] ∧ t.fabric.opened = [] ∧
    ∀ p, (peerOf t.fabric p).sent = (peerOf s.fabric p).sent.map (fun y => if onFibre y.port && !y.due then { y with fails := y.fails + 1, failed := true, due := true } else y)) ∧
  (∀ (s : State) (k : BitVec 2) (p : PkgNo), portPeer s.fabric (.link k) = some p →
    (portWorn s.fabric (.link k) = true → k.toNat < 3 → s.fabric.links.getD k.toNat .up = .up → ∃ t, exec (.linkFailureLimit (.link k)) s = .next t ∧ t.fabric.links.getD k.toNat .up = .retraining ∧
      (∀ j : Nat, j ≠ k.toNat → t.fabric.links.getD j .up = s.fabric.links.getD j .up)) ∧
    (s.fabric.links.getD k.toNat .up = .retraining →
      (∃ t, exec (.linkRetrainResult k true) s = .next t ∧ t.fabric.links.getD k.toNat .up = .up ∧ t.fabric.outstanding = s.fabric.outstanding) ∧
      (s.mgmt.journal = none → s.mgmt.events = none → ∃ t, exec (.linkRetrainResult k false) s = .next t ∧ t.fabric.links.getD k.toNat .up = .down ∧
        t.agenda = s.agenda ++ (s.fabric.outstanding.filter (fun o => o.req.dst == p)).map (fun o =>
          .message (.neg { src := p, requester := s.fabric.num, tag := o.req.tag, code := 9, sub := 3 }))))) ∧
  (∀ (s : State) (w : BitVec 7), portWorn s.fabric (.fibre w) = true → s.fabric.failedFibres.contains w.toNat = false →
    ∃ t, exec (.linkFailureLimit (.fibre w)) s = .next t ∧ t.fabric.failedFibres = s.fabric.failedFibres ++ [w.toNat] ∧ t.cord = s.cord) ∧
  (∀ (s : State) (v d : PkgNo) (m : OutMsg), s.fabric.relay = [{ via := v, dst := d, msg := m }] → (portTo s d = none → exec (.relayForward d) s = .next s) ∧
    (∀ via, portTo s d = some via → ∃ t, exec (.relayForward d) s = .next t ∧ t.fabric.relay = [] ∧ sends d m s t ∧ t.mem = s.mem))

/-- The admin commands: with its OP, no byte set that it does not name, and its parameters in range, CREATEQ adds the queue, RESUMEQ, RESERVE, SETQUANTUM, PRI, JOURNAL, the four POWER settings, the five OBSERVE functions and both STOP actions take effect and complete with STATUS 0, and DESTROYQ, SUSPENDQ, LOADHANDLER, SETBANKS, STRIPE and MIGRATE are under way with their parameters noted; with another OP, SETTING, FUNCTION or ACTION, with a byte set that it does not name, or with a parameter out of range, every one of them completes with STATUS 6 and changes nothing but the journal: no queue, launch, stand, cord, core, partition or cluster, and with no journal ring nothing at all besides the record (R262). The model's choices: that a queue which is not there and an address of 2^57 and more are out of range (log entry 42), and that SETQUANTUM starts every core's quantum again, a line of another package cannot be armed, a disarm takes every watchpoint of its line, and POWER completes at once (log entry 43). -/
def Obligations.AdminCommandsTakeEffect : Prop :=
  ∀ (s : State) (c : AdminCmd),
    let ends (i : Instr) (q : State → Prop) : Prop := ∃ t, exec i s = .next t ∧ adminEnds c 0 s t ∧ t.mgmt.journalSeq = s.mgmt.journalSeq + 2 ∧ q t
    let holds (i : Instr) (op : Nat) (ps : List Nat) (q : State → Prop) : Prop :=
      ∃ t, exec i s = .next t ∧ t.mgmt.adminBusy = some (cmdTag c, op, ps) ∧ t.mgmt.journalSeq = s.mgmt.journalSeq + 1 ∧ t.completions = s.completions ∧ q t
    let invalid (t : State) : Prop := adminEnds c 6 s t ∧ t.queues = s.queues ∧ t.launches = s.launches ∧ t.stands = s.stands ∧ t.cord = s.cord ∧ t.cords = s.cords ∧
      t.cores = s.cores ∧ t.parts = s.parts ∧ t.clusters = s.clusters ∧
      (s.mgmt.journal = none → t = { s with mgmt := { s.mgmt with adminBusy := none, journalSeq := s.mgmt.journalSeq + 2 }, completions := t.completions })
    let wrong (i : Instr) : Prop := ∃ t, exec i s = .next t ∧ invalid t
    let bad (i : Instr) (op : Nat) (names : List (Nat × Nat)) (range : Prop) : Prop := ¬ adminForm c op names ∨ ¬ range → wrong i
    let q := cmdQueue c
    let v := cmdField c 12 4
    let a := cmdField c 16 8
    let ring (base log2 : Nat) : Prop := base % 32 = 0 ∧ base < 2 ^ 57 ∧ 6 ≤ log2 ∧ log2 ≤ 20
    (bad (.createq c) 0x01 [(8, 2), (10, 1), (12, 4), (16, 8), (24, 1), (25, 1), (26, 2), (32, 8), (40, 8), (48, 4)] (createqOk c = true ∧ findQueue s q = none) ∧
      bad (.destroyq c) 0x02 [(8, 2)] (namesQueue s c = true) ∧ bad (.suspendq c) 0x03 [(8, 2)] (namesQueue s c = true) ∧ bad (.resumeq c) 0x04 [(8, 2)] (namesQueue s c = true) ∧
      bad (.reserve c) 0x05 [(8, 4), (12, 1), (13, 1), (14, 1), (15, 1), (16, 8), (24, 8), (32, 4)] (reserveOk c = true) ∧
      bad (.loadhandler c) 0x06 [(8, 8), (16, 4), (20, 4)] (cmdField c 8 8 % 4 = 0 ∧ cmdField c 8 8 < 2 ^ 57 ∧ cmdField c 16 4 % 4 = 0 ∧ cmdField c 20 4 % 4 = 0 ∧ cmdField c 20 4 < cmdField c 16 4) ∧
      bad (.setbanks c) 0x07 [(8, 1), (9, 1), (12, 4)] (cmdField c 8 1 ≤ 3 ∧ cmdField c 9 1 ≤ 15) ∧
      bad (.setquantum c) 0x08 [(8, 1)] (cmdField c 8 1 = 0 ∨ (12 ≤ cmdField c 8 1 ∧ cmdField c 8 1 ≤ 30)) ∧
      bad (.pri c) 0x09 [(8, 1), (9, 1), (12, 4)] (cmdField c 8 1 ≤ 3 ∧ cmdField c 9 1 ≤ 1) ∧
      bad (.stripe c) 0x0A [(8, 8), (16, 4), (20, 1)] (cmdField c 8 8 % 2097152 = 0 ∧ cmdField c 8 8 < 2 ^ 57 ∧ 1 ≤ cmdField c 16 4 ∧ cmdField c 20 1 ≤ 31 ∧ nodePackages s.fabric (cmdField c 20 1) ≠ []) ∧
      bad (.migrate c) 0x0B [(8, 8), (16, 1), (17, 1), (24, 8)] (cmdField c 8 8 < 2 ^ 36 ∧ cmdField c 16 1 ≤ 127 ∧ cmdField c 17 1 ≤ 7 ∧ cmdField c 24 8 % 4 = 0 ∧ cmdField c 24 8 < 2 ^ 57) ∧
      bad (.powerClock c) 0x0C [(8, 1), (9, 1), (12, 4)] (cmdField c 8 1 = 0 ∧ cmdField c 9 1 ≤ 3 ∧ 8 ≤ v ∧ v ≤ 17) ∧
      bad (.powerPark c) 0x0C [(8, 1), (9, 1), (10, 1), (12, 4)] (cmdField c 8 1 = 1 ∧ cmdField c 9 1 ≤ 3 ∧ cmdField c 10 1 ≤ 15 ∧ v < 2 ^ 17) ∧
      bad (.powerRetain c) 0x0C [(8, 1), (12, 4)] (cmdField c 8 1 = 2 ∧ (v = 0 ∨ (8 ≤ v ∧ v ≤ 24))) ∧ bad (.powerSleep c) 0x0C [(8, 1), (12, 4)] (cmdField c 8 1 = 3 ∧ v < 256) ∧
      bad (.observeSampler c) 0x0D [(8, 1), (12, 4), (16, 8), (24, 1)] (cmdField c 8 1 = 0 ∧ (v = 0 ∨ (8 ≤ v ∧ v ≤ 24 ∧ ring a (cmdField c 24 1)))) ∧
      bad (.observeEventRing c) 0x0D [(8, 1), (16, 8), (24, 1)] (cmdField c 8 1 = 1 ∧ ring a (cmdField c 24 1)) ∧
      bad (.observeArmWatchpoint c) 0x0D [(8, 1), (16, 8), (25, 1), (32, 16)] (cmdField c 8 1 = 2 ∧ a % 128 = 0 ∧ a < 2 ^ 57 ∧ cmdField c 25 1 < 8 ∧ ∃ h, sliceAt s a = some h ∧ watchFree s h.1 h.2 = true) ∧
      bad (.observeDisarmWatchpoint c) 0x0D [(8, 1), (16, 8)] (cmdField c 8 1 = 3 ∧ a % 128 = 0 ∧ ∃ w ∈ s.mgmt.watches, w.line = a) ∧
      bad (.observeClearCounters c) 0x0D [(8, 1), (12, 4)] (cmdField c 8 1 = 4 ∧ v < 8) ∧
      bad (.stop c) 0x0E [(8, 1), (9, 1), (10, 1), (11, 1), (12, 1), (16, 8), (24, 4)] (stopOk c 0 = true ∧ a % 64 = 0 ∧ a < 2 ^ 57 ∧ 16416 ≤ cmdField c 24 4) ∧
      bad (.stopResume c) 0x0E [(8, 1), (9, 1), (10, 1), (11, 1), (12, 1)] (stopOk c 1 = true) ∧ bad (.journal c) 0x0F [(8, 8), (16, 1)] (ring (cmdField c 8 8) (cmdField c 16 1)) ∧
      (let op := cmdField c 0 2
       op = 0 ∨ 0x0F < op ∨ (op = 0x0C ∧ 3 < cmdField c 8 1) ∨ (op = 0x0D ∧ 4 < cmdField c 8 1) ∨ (op = 0x0E ∧ 1 < cmdField c 12 1) → invalid (adminTurn c s))) ∧
    (adminForm c 0x01 [(8, 2), (10, 1), (12, 4), (16, 8), (24, 1), (25, 1), (26, 2), (32, 8), (40, 8), (48, 4)] → findQueue s q = none →
      createqOk c = true → ends (.createq c) (fun t => t.queues = s.queues ++ [newQueue c])) ∧
    (∀ x, findQueue s q = some x → 1 ≤ cmdField c 8 2 → cmdField c 8 2 < 16384 →
      (adminForm c 0x02 [(8, 2)] → openLaunches s q = [] → holds (.destroyq c) 0x02 [q.toNat] (fun t => findQueue t q = some { x with destroying := some (cmdTag c) })) ∧
      (adminForm c 0x03 [(8, 2)] → holds (.suspendq c) 0x03 [cmdField c 8 2] (fun t => findQueue t q = some { x with state := 1, suspended := true })) ∧
      (adminForm c 0x04 [(8, 2)] → ends (.resumeq c) (fun t => findQueue t q = some { x with state := 0, suspended := false, errored := false }))) ∧
    (adminForm c 0x05 [(8, 4), (12, 1), (13, 1), (14, 1), (15, 1), (16, 8), (24, 8), (32, 4)] →
      let same := fun (r : Reservation) => r.kind == cmdField c 12 1 && r.pasid == BitVec.ofNat 20 (cmdField c 8 4)
      reserveOk c = true → (coreOf s (reserveCore c)).resv.any same = false → ends (.reserve c) (fun t => (coreOf t (reserveCore c)).resv = (coreOf s (reserveCore c)).resv ++
        [{ kind := cmdField c 12 1, pasid := BitVec.ofNat 20 (cmdField c 8 4), base := a, size := cmdField c 24 8, stackMax := cmdField c 32 4 }])) ∧
    (adminForm c 0x06 [(8, 8), (16, 4), (20, 4)] → cmdField c 8 8 % 4 = 0 → cmdField c 8 8 < 2 ^ 57 → cmdField c 16 4 % 4 = 0 → cmdField c 20 4 % 4 = 0 → cmdField c 20 4 < cmdField c 16 4 →
      holds (.loadhandler c) 0x06 [] (fun t => t.mgmt.handlerNext = some { base := cmdField c 8 8, size := cmdField c 16 4, entry := cmdField c 20 4 })) ∧
    (adminForm c 0x07 [(8, 1), (9, 1), (12, 4)] → cmdField c 8 1 ≤ 3 → cmdField c 9 1 ≤ 15 → holds (.setbanks c) 0x07 [(cmdCluster c 8).toNat] (fun t => t.cord = s.cord ∧ t.cords = s.cords ∧ t.stands = s.stands)) ∧
    (adminForm c 0x08 [(8, 1)] → cmdField c 8 1 = 0 ∨ (12 ≤ cmdField c 8 1 ∧ cmdField c 8 1 ≤ 30) → ends (.setquantum c) (fun t => t.mgmt.quantum = cmdField c 8 1 ∧
      ∀ k : CoreId, (coreOf t k).quantumLeft = if cmdField c 8 1 = 0 then 0 else 2 ^ cmdField c 8 1)) ∧
    (adminForm c 0x09 [(8, 1), (9, 1), (12, 4)] → cmdField c 8 1 ≤ 3 → cmdField c 9 1 ≤ 1 → ends (.pri c) (fun t => (dieOf t (BitVec.ofNat 2 (cmdField c 8 1))).timeout = BitVec.ofNat 32 v ∧
      (dieOf t (BitVec.ofNat 2 (cmdField c 8 1))).requestsOff = ((dieOf s (BitVec.ofNat 2 (cmdField c 8 1))).requestsOff && decide (cmdField c 9 1 = 0)))) ∧
    (adminForm c 0x0A [(8, 8), (16, 4), (20, 1)] → cmdField c 8 8 % 2097152 = 0 → cmdField c 8 8 < 2 ^ 57 → 1 ≤ cmdField c 16 4 → cmdField c 20 1 ≤ 31 → nodePackages s.fabric (cmdField c 20 1) ≠ [] →
      holds (.stripe c) 0x0A [cmdField c 8 8 / 2097152, cmdField c 16 4, cmdField c 20 1, 0, 0, 0] (fun t => t.fabric = s.fabric)) ∧
    (adminForm c 0x0B [(8, 8), (16, 1), (17, 1), (24, 8)] → cmdField c 8 8 < 2 ^ 36 → cmdField c 16 1 ≤ 127 → cmdField c 17 1 ≤ 7 → cmdField c 24 8 % 4 = 0 → cmdField c 24 8 < 2 ^ 57 →
      holds (.migrate c) 0x0B [cmdField c 8 8, cmdField c 16 1, cmdField c 17 1, cmdField c 24 8] (fun t => t.fabric = s.fabric)) ∧
    (adminForm c 0x0C [(8, 1), (9, 1), (12, 4)] → cmdField c 8 1 = 0 → cmdField c 9 1 ≤ 3 → 8 ≤ v → v ≤ 17 → ends (.powerClock c) (fun t => (dieOf t (BitVec.ofNat 2 (cmdField c 9 1))).clockNext = some v)) ∧
    (adminForm c 0x0C [(8, 1), (9, 1), (10, 1), (12, 4)] → cmdField c 8 1 = 1 → cmdField c 9 1 ≤ 3 → cmdField c 10 1 ≤ 15 → v < 2 ^ 17 → ends (.powerPark c) (fun t => ∀ i, i < 16 →
      let p : PartId := cmdCluster c 9 ++ BitVec.ofNat 4 i
      partOf t p = if v.testBit i then { partOf s p with parking := v.testBit 16, parked := (partOf s p).parked && v.testBit 16 } else partOf s p)) ∧
    (adminForm c 0x0C [(8, 1), (12, 4)] → cmdField c 8 1 = 2 → v = 0 ∨ (8 ≤ v ∧ v ≤ 24) → ends (.powerRetain c) (fun t => t.mgmt.retain = v)) ∧
    (adminForm c 0x0C [(8, 1), (12, 4)] → cmdField c 8 1 = 3 → v < 256 → ends (.powerSleep c) (fun t => t.mgmt.sleepAsked = BitVec.ofNat 8 v ∧ t.mgmt.waking = s.mgmt.asleep &&& ~~~(BitVec.ofNat 8 v))) ∧
    (adminForm c 0x0D [(8, 1), (12, 4), (16, 8), (24, 1)] → cmdField c 8 1 = 0 → 8 ≤ v → v ≤ 24 → a % 32 = 0 → a < 2 ^ 57 → 6 ≤ cmdField c 24 1 → cmdField c 24 1 ≤ 20 →
      ends (.observeSampler c) (fun t => t.mgmt.sampler = some (v, { base := a, log2 := cmdField c 24 1 }) ∧ t.mgmt.sampleIndex = 0)) ∧
    (adminForm c 0x0D [(8, 1), (12, 4), (16, 8), (24, 1)] → cmdField c 8 1 = 0 → v = 0 → ends (.observeSampler c) (fun t => t.mgmt.sampler = none)) ∧
    (adminForm c 0x0D [(8, 1), (16, 8), (24, 1)] → cmdField c 8 1 = 1 → a % 32 = 0 → a < 2 ^ 57 → 6 ≤ cmdField c 24 1 → cmdField c 24 1 ≤ 20 →
      ends (.observeEventRing c) (fun t => t.mgmt.events = some { base := a, log2 := cmdField c 24 1 } ∧ t.mgmt.eventIndex = 0)) ∧
    (∀ h, adminForm c 0x0D [(8, 1), (16, 8), (25, 1), (32, 16)] → cmdField c 8 1 = 2 → a % 128 = 0 → a < 2 ^ 57 → cmdField c 25 1 < 8 → sliceAt s a = some h → watchFree s h.1 h.2 = true →
      ends (.observeArmWatchpoint c) (fun t => t.mgmt.watches = s.mgmt.watches ++
        [{ line := a, die := h.1, slice := h.2, mask := BitVec.ofNat 128 (cmdField c 32 16), kinds := BitVec.ofNat 3 (cmdField c 25 1) }])) ∧
    (adminForm c 0x0D [(8, 1), (16, 8)] → cmdField c 8 1 = 3 → a % 128 = 0 → s.mgmt.watches.any (fun w => w.line == a) = true →
      ends (.observeDisarmWatchpoint c) (fun t => t.mgmt.watches = s.mgmt.watches.filter (fun w => w.line != a))) ∧
    (adminForm c 0x0D [(8, 1), (12, 4)] → cmdField c 8 1 = 4 → v < 8 → ends (.observeClearCounters c) (fun t =>
      (v.testBit 0 = true → ∀ p : PartId, (partOf t p).hist = Vector.replicate 17 0 ∧ (partOf t p).stalls = Vector.replicate 16 0) ∧
      (v.testBit 1 = true → ∀ e ∈ t.mgmt.errors, e.count = 0 ∧ e.raised = false) ∧ (v.testBit 2 = true → t.mgmt.sampleDropped = 0))) ∧
    (adminForm c 0x0E [(8, 1), (9, 1), (10, 1), (11, 1), (12, 1), (16, 8), (24, 4)] → stopOk c 0 = true → a % 64 = 0 → a < 2 ^ 57 → 16416 ≤ cmdField c 24 4 →
      ends (.stop c) (fun t => (partOf t (stopPart c)).stopped = true ∧ (s.mgmt.journal = none → calm s → ownsAt s a → Memory.wf s.mem = true → memRead t.mem a 2 = 16 * (stopPart c).toNat))) ∧
    (adminForm c 0x0E [(8, 1), (9, 1), (10, 1), (11, 1), (12, 1)] → stopOk c 1 = true → ends (.stopResume c) (fun t => (partOf t (stopPart c)).stopped = false ∧ (s.mgmt.journal = none → t.mem = s.mem))) ∧
    (adminForm c 0x0F [(8, 8), (16, 1)] → cmdField c 8 8 % 32 = 0 → cmdField c 8 8 < 2 ^ 57 → 6 ≤ cmdField c 16 1 → cmdField c 16 1 ≤ 20 →
      ends (.journal c) (fun t => t.mgmt.journal = some { base := cmdField c 8 8, log2 := cmdField c 16 1 }))

/-- CLOCK_CHANGE_COMPLETE and PARK_COMPLETE do what was commanded; a fibre group sleeps once nothing waits for an acknowledgement, and wakes; PC_SAMPLE writes the PC of the next slot into the ring, or counts a dropped sample; an error class at its threshold raises its vector once; WATCH_EVENT_WRITE takes the oldest hit; TEMPERATURE_CURRENT_LIMIT makes an error entry in the journal; RESET and POWER_REMOVAL leave the state after reset, with the model's own counters and what the outside still brings; a good firmware image leads to step 3 and a bad one reports LOADFAIL; the mailbox sets the exposed counts, the deck and the admin queue at step 4; FABRIC_JOIN gives the package its number when all that is set and no node of the pod has a gap, and a node link with no partner is idle (R229, R258, R263 to R268, R270, R271). The model's choices: the forms of the image and the mailbox (log entry 45), that a sleeping group ends its dwells (log entry 50), that tick, nextId and the inputs live on over a reset (log entry 2), and the idle link (log entry 3). -/
def Obligations.DeviceEventsTakeEffect : Prop :=
  ∀ s : State,
    (∀ d v, (dieOf s d).clockNext = some v → ∃ t, exec (.clockChangeComplete d) s = .next t ∧ dieOf t d = { dieOf s d with clock10 := v, clockNext := none } ∧ { t with dies := s.dies } = s) ∧
    (∀ p, (partOf s p).parking = true → (partOf s p).parked = false → partBusy s p = false →
      ∃ t, exec (.parkComplete p) s = .next t ∧ partOf t p = { partOf s p with parked := true } ∧ { t with parts := s.parts } = s) ∧
    (∀ g : BitVec 3, s.mgmt.sleepAsked.getLsbD g.toNat = true → s.mgmt.asleep.getLsbD g.toNat = false → (∀ x ∈ s.fabric.peers, ∀ y ∈ x.sent, groupPort g y.port = false) →
      ∃ t, exec (.fibreGroupAsleep g) s = .next t ∧ (∀ k, t.mgmt.asleep.getLsbD k = (s.mgmt.asleep.getLsbD k || decide (k = g.toNat))) ∧
        t.fabric.openers = s.fabric.openers.filter (fun o => o.1 / 12 != g.toNat) ∧ t.mem = s.mem) ∧
    (∀ g : BitVec 3, s.mgmt.waking.getLsbD g.toNat = true → ∃ t, exec (.fibreGroupWake g) s = .next t ∧ t.mem = s.mem ∧
      ∀ k, t.mgmt.asleep.getLsbD k = (s.mgmt.asleep.getLsbD k && decide (k ≠ g.toNat)) ∧ t.mgmt.waking.getLsbD k = (s.mgmt.waking.getLsbD k && decide (k ≠ g.toNat))) ∧
    (∀ (p : PartId) k r, s.mgmt.sampler = some (k, r) →
      let slot := (partOf s p).sampleSlot
      (s.mgmt.sampleIndex < 2 ^ r.log2 → calm s → ownsAt s (r.base + 16 * s.mgmt.sampleIndex) → r.base % 32 = 0 → Memory.wf s.mem = true → ∃ t, exec (.pcSample p) s = .next t ∧ t.mgmt.sampleIndex = s.mgmt.sampleIndex + 1 ∧ (partOf t p).sampleSlot = (slot + 1) % 16 ∧
        memRead t.mem (r.base + 16 * s.mgmt.sampleIndex) 4 = (sampleOf s p slot).1.toNat ∧
        (∀ x, x < r.base + 16 * s.mgmt.sampleIndex ∨ r.base + 16 * s.mgmt.sampleIndex + 16 ≤ x → memGet t.mem x = memGet s.mem x)) ∧
      (2 ^ r.log2 ≤ s.mgmt.sampleIndex → ∃ t, exec (.pcSample p) s = .next t ∧ t.mgmt.sampleDropped = s.mgmt.sampleDropped + 1 ∧ t.mem = s.mem)) ∧
    (∀ cls e n v, s.mgmt.errors.find? (fun e => e.cls == cls) = some e → e.raised = false → e.threshold = some n → n ≤ e.count → e.vector = some v →
      ∃ t, exec (.errorThresholdReached cls) s = .next t ∧ t.mgmt.errors.find? (fun e => e.cls == cls) = some { e with raised := true } ∧ (msixMasked s v = false → t.mgmt.msix = s.mgmt.msix ++ [v]) ∧ (msixMasked s v = true → t.mgmt.msix = s.mgmt.msix ∧ v ∈ t.mgmt.msixPending) ∧
        t.mgmt.journalSeq = s.mgmt.journalSeq + 1) ∧
    (∀ h hs, s.mgmt.hits = h :: hs → ∃ t, exec .watchEventWrite s = .next t ∧ t.mgmt.hits = hs ∧ (s.mgmt.events.isSome = true → t.mgmt.eventIndex = s.mgmt.eventIndex + 1) ∧ (s.mgmt.events = none → t.mem = s.mem)) ∧
    (∀ a b, a < 2 ^ 64 → Memory.wf s.mem = true → s.mgmt.events = none → ∃ t, exec (.temperatureCurrentLimit a (b % 2 ^ 64)) s = .next t ∧ journals 4 0 a (b % 2 ^ 64) s t ∧ t.cord = s.cord) ∧
    (let after := { State.reset with inputs := s.inputs, tick := s.tick, nextId := s.nextId }
     exec .reset s = .next after ∧ exec .powerRemoval s = .next after) ∧
    (∀ bs, s.mgmt.step = 2 → (imageOk bs = true → exec (.firmwareImageLoad bs) s = .next { s with mgmt := { s.mgmt with image := true, loadFail := false, step := 3 } }) ∧
      (imageOk bs = false → exec (.firmwareImageLoad bs) s = .next { s with mgmt := { s.mgmt with loadFail := true } })) ∧
    (s.mgmt.step = 4 →
      (∀ a b c d e, a ≤ 65536 → b ≤ 65536 → c ≤ 65536 → d ≤ 65536 → e ≤ 524288 →
        exec (.mailboxExposedCounts [a, b, c, d, e]) s = .next { s with fabric := { s.fabric with exposed := [a, b, c, d, e] }, mgmt := { s.mgmt with countsSet := true } }) ∧
      (∀ n, n ≤ 64 → exec (.mailboxDeckSize n) s = .next { s with fabric := { s.fabric with deck := n }, mgmt := { s.mgmt with deckSet := true } }) ∧
      (∀ a : AdminRings, a.ring % 64 = 0 → a.comp % 32 = 0 → 4 ≤ a.q → a.q ≤ 16 → 4 ≤ a.c → a.c ≤ 16 → (∀ v, a.vector = some v → v < 2048) →
        ∃ t x, exec (.mailboxAdminQueue a) s = .next t ∧ findQueue t 0 = some x ∧ x.ring = a.ring ∧ x.q = a.q ∧ x.comp = a.comp ∧ x.c = a.c ∧ x.vector = a.vector ∧ x.head = 0 ∧ x.tail = 0) ∧
      (∀ n ms, stepFourOver s = true →
        let member (p : PkgNo) : Prop := p = n ∨ ∃ m ∈ ms, m.1 = p
        ((∀ p, member p → position p = 0 ∨ member (p - 1)) → ∃ t, exec (.fabricJoin n ms) s = .next t ∧ t.fabric.joined = true ∧ t.fabric.num = n ∧ t.fabric.counts = ms ∧ t.mgmt.step = 6 ∧
          (∀ p, p ∈ t.fabric.present ↔ member p) ∧ (∀ k, k < 3 → (∀ p, member p → sameNode p n = true → position p ≠ (position n ^^^ (k + 1))) → t.fabric.links.getD k .up = .idle) ∧ t.mem = s.mem) ∧
        (∀ p, member p → position p ≠ 0 → ¬ member (p - 1) → exec (.fabricJoin n ms) s = .next s)))

/-- R312 and R334 whole: the example words 0x0851_8030 and 0x0851_8040 are CLZ s5, s6 and POPC s5, s6, and the words of OP 0x02 with fn 3 or 4 and sb = la = 0 are exactly the words of CLZ sd, sa and POPC sd, sa; a nonzero sb or la makes an illegal word, which traps with 0x01; CLZ writes to sd the number of zero bits above the highest set bit of s[sa] (32 when s[sa] is 0, and for a highest set bit k, 31 - k), POPC the number of its set bits, from 0 to 32, and both go on to the next word. -/
def Obligations.ClzAndPopcCountBits : Prop :=
  decodeScalar 0x08518030#32 = .ok (.clz 5 6) ∧ decodeScalar 0x08518040#32 = .ok (.popc 5 6) ∧
  (∀ d a : Reg, decodeScalar (2#6 ++ d ++ a ++ 0#6 ++ 3#4 ++ 0#4) = .ok (.clz d a) ∧ decodeScalar (2#6 ++ d ++ a ++ 0#6 ++ 4#4 ++ 0#4) = .ok (.popc d a)) ∧
  (∀ (d a b : Reg) (fn l : BitVec 4), fn = 3 ∨ fn = 4 → b ≠ 0 ∨ l ≠ 0 →
    let w := 2#6 ++ d ++ a ++ b ++ fn ++ l
    scalarWord w = .illegalInstruction (.scalar w) ∧
      ∀ s : State, quietCord s.cord → trapRoom s → ∃ t, exec (scalarWord w) s = .next t ∧ t.cord.mode = .trapped ∧ t.cord.trap.cause = 1 ∧ sameRegs s t) ∧
  ∀ (s : State) (d a : Reg),
    (reg s a = 0 → exec (.clz d a) s = .next (result d 32 s)) ∧
    (∀ k, k < 32 → (reg s a).getLsbD k = true → (∀ j, k < j → (reg s a).getLsbD j = false) → exec (.clz d a) s = .next (result d (BitVec.ofNat 32 (31 - k)) s)) ∧
    exec (.popc d a) s = .next (result d (BitVec.ofNat 32 ((List.range 32).filter (fun k => (reg s a).getLsbD k)).length) s)

/-- What a step does, by the turn at the head of the agenda (the agenda is the model's own, log entry 2): with none, the next turns are chosen; a scalar turn whose fetch gives a word runs that word's instruction, or for a word that decodes to no well-formed instruction the one that raises its trap, in the state in which its issue has been counted, where the scoreboard does not hold it; a lane turn the lane word at the head of the fragment's queue likewise, its block moved on; a host core's turn its custom-0 word; an event turn its event; each of them answers a next state. A fetch from text of this package, translated, within one line that no store has changed since the launch began, and with nothing holding memory back, gives the bytes that memory holds there, little-endian, and changes neither memory nor the cord (R26, R27, R52, R143, R291). -/
def Obligations.StepRunsTheDecodedInstruction : Prop :=
  ∀ (s : State) (rest : List Turn),
    let p := { s with agenda := rest }
    (s.agenda = [] → step s = .next (schedule s)) ∧
    (∀ (c : CordId) (f : Nat) (t u : State) (v : Nat) (i : Instr), s.agenda = .scalar c f :: rest → actingFrag c f p = some t →
      t.cord.frag.status ≠ .atJoin → t.cord.frag.status ≠ .serial → fetchText .scalar (t.cord.text + t.cord.frag.pc.setWidth 64) 4 t = (.word v, u) →
      (decodeScalar (BitVec.ofNat 32 v) = .ok i ∧ wellFormed i = true ∨
        (∀ j, decodeScalar (BitVec.ofNat 32 v) = .ok j → wellFormed j = false) ∧ i = .illegalInstruction (.scalar (BitVec.ofNat 32 v))) →
      (scalarStall u i = none → ∃ x, exec i (beginScalar i u) = .next x ∧ step s = .next (endScalar u x)) ∧
      (∀ k, scalarStall u i = some k → step s = .next (wait k u))) ∧
    (∀ (c : CordId) (f : Nat) (t u : State) (b : Block) (v : Nat) (i : Instr), s.agenda = .lane c f :: rest → actingFrag c f p = some t →
      t.cord.frag.queue.head? = some b → fetchText .lane (laneWordAddr t.cord (b.first + b.done)) 12 t = (.word v, u) →
      decodeLane (BitVec.ofNat 96 v) = .ok i → wellFormed i = true →
      (laneReady u i = true → pipesReady u i = true → ∃ x, exec i (beginLane i b u) = .next x ∧ step s = .next x) ∧
        (laneReady u i = false ∨ pipesReady u i = false → step s = .next u)) ∧
    (∀ (h : HostNo) (w : BitVec 32) (i : Instr), s.agenda = .host h w :: rest → decodeHost w = .ok i → hostLoading h p = false → (∀ a ∈ s.hostWait, accessHost a ≠ h) →
      ∃ x, exec i { selectHost h p with hostWords := p.hostWords.filter (fun y => y.1 != h) } = .next x ∧ step s = .next (endHost h w x)) ∧
    (∀ i, s.agenda = .event i :: rest → step s = exec i p ∧ ∃ x, exec i p = .next x) ∧
    (∀ (k : Stream) (va : DWord) (n pa : Nat), calm s → s.cord.id.handler = false → (∀ line, oldValues s line = []) → 0 < n → va.toNat % 128 + n ≤ 128 → globalRange va n = true →
      cached s (thisCore s) s.cord.pasid va.toNat 4 = some pa → ownsAt s pa →
      ∃ t, fetchText k va n s = (.word (memRead s.mem pa n), t) ∧ t.mem = s.mem ∧ t.cord = s.cord)

/-- Words written out from the manual's encodings and examples: scalar arithmetic, branches, memory, synchronisation, system, engines, host transactions and lane words decode to their instructions, and words of a reserved opcode, a reserved fn, a nonzero unused field and a reserved lane kind decode to none (R280 to R291). -/
def Obligations.WordsDecode : Prop :=
  decodeScalar 0x6C000005#32 = .ok (.b 5) ∧ decodeScalar 0x3C5FFFFF#32 = .ok (.li 5 0xFFFFF) ∧ decodeScalar 0x40512345#32 = .ok (.lih 5 0x12345) ∧
  decodeScalar 0x14514678#32 = .ok (.orImm 5 5 0x678) ∧ decodeScalar 0x7C020010#32 = .ok (.callr 8) ∧ decodeScalar 0x80000110#32 = .ok (.fenceRel 1) ∧
  decodeScalar 0x80000520#32 = .ok (.fenceFull 5) ∧ decodeScalar 0x80518770#32 = .ok (.rngw 5 6 7) ∧ decodeScalar 0x9C800400#32 = .ok (.gth 8 2 0 0) ∧
  decodeScalar 0x9C800B00#32 = .ok (.gth 8 5 1 0) ∧ decodeScalar 0x9C400530#32 = .ok (.rdxa 4 5 0) ∧ decodeScalar 0x98A00330#32 = .ok (.lmclr 10 3) ∧
  decodeHost 0x0000350B#32 = .ok (.htxs 10) ∧
  decodeLane (0#2 ++ 0x010#10 ++ 3#8 ++ 1#8 ++ 2#8 ++ 0#8 ++ 0#1 ++ 0#3 ++ 0#4 ++ 0#6 ++ 0#3 ++ 0#3 ++ 0#32) =
    .ok (.vadd { vd := 3, va := 1, vb := 2, vc := 0, pneg := false, pidx := 0, la := 0, ss := 0, ty := .i32, var := .base, imm := 0, compact := false }) ∧
  decodeScalar 0#32 = .error .reservedOpcode ∧ decodeScalar 0x08000070#32 = .error .reservedFn ∧ decodeScalar 0x7C000041#32 = .error .nonzeroField ∧
  decodeLane (2#2 ++ 0#94) = .error .laneKind

/-- Decoder and encoder agree: for every well-formed instruction that has a word, scalar, host or lane, single form or pair, with every operand at every value, decoding its word gives the instruction back; every word that decodes is the word of what it decodes to, so each word has one meaning and no bit of it is dropped; and every instruction of the lane set with either form has a word (R280 to R291, R143). -/
def Obligations.DecodeAndEncodeAgree : Prop :=
  (∀ (i : Instr) (w : CodeWord), wellFormed i = true → encode i = some w → decode w = .ok i) ∧
  (∀ (w : CodeWord) (i : Instr), decode w = .ok i → encode i = some w) ∧
  (∀ (k : LaneKind) (o : LaneOp), encode (k.instr o) = some (.lane (encodeSingle k o))) ∧
  (∀ x y : CompactOp, encode (.pairWord x y) = some (.lane (1#2 ++ encodeCompact x ++ encodeCompact y)))

/-- Reset: no cord, launch, stand or request is left; every bank is in CACHE mode with no change under way or refused; no page-request timeout, no quantum, no retention threshold; every die at 0.8 GHz, no partition parked, every fibre group awake; queue 0 has registers 0 and fetches nothing; the next journal entry is the first; no transaction on any host core, status words 0; the fabric is not joined; memory has the canonical form. That unlisted memory reads 0 is the model's choice (log entry 1). -/
def Obligations.ResetLeaves : Prop :=
  let s := State.reset
  allCords s = [] ∧ s.launches = [] ∧ s.stands = [] ∧ s.completions = [] ∧ s.fabric.outstanding = [] ∧ s.fabric.joined = false ∧ s.fabric.peers = [] ∧
  (∀ c, (clusterOf s c).bankmode = 0 ∧ (clusterOf s c).bankstat = 0 ∧ (clusterOf s c).lines = []) ∧
  (∀ d, (dieOf s d).timeout = 0 ∧ (dieOf s d).clock10 = 8) ∧ (∀ p, (partOf s p).parked = false ∧ (partOf s p).parking = false) ∧
  s.mgmt.quantum = 0 ∧ s.mgmt.retain = 0 ∧ s.mgmt.asleep = 0 ∧ s.mgmt.journal = none ∧ s.mgmt.journalSeq = 1 ∧ (coreOf s s.cord.id.core).handler = none ∧ s.mgmt.step = 2 ∧
  (∃ q, s.queues = [q] ∧ q.num = 0 ∧ q.live = false ∧ q.tail = 0 ∧ q.head = 0 ∧ q.chead = 0 ∧ q.state = 0) ∧
  (∀ h : HostNo, (s.hosts[h.val]'h.isLt).active = false ∧ (s.hosts[h.val]'h.isLt).last = 0) ∧ TxRec.idle.lanes = [] ∧
  s.memOk ∧ (∀ a, memGet s.mem a = 0)

/-- Memory's canonical form is an invariant: from every state whose memory lists its bytes at rising addresses and none that reads as an unlisted one does, a step leaves such a memory, whatever turn it takes: an instruction of a cord or a host core, an access, an engine, a message of another package, an admin command, a move of a granule, a journal or completion record. Two memories that read alike are then equal. -/
def Obligations.StepsKeepMemoryCanonical : Prop :=
  (∀ s t : State, s.memOk → step s = .next t → t.memOk) ∧
  (∀ m n : Memory, Memory.wf m = true → Memory.wf n = true → (∀ a, memGet m a = memGet n a) → m = n)
end

