-- ==== Sys2Proof/Laws/Lists.lean ====
section
/-! SUPPORT. The lists of records: entries changed where a test holds, and lists put in order. -/

namespace Sys2Proof.Laws

set_option Elab.async false

open Sys2Proof Sys2Proof.Machine

@[simp] theorem modifyWhere_nil {α : Type} (p : α → Bool) (f : α → α) : modifyWhere p f [] = [] := rfl
@[simp] theorem modifyWhere_cons {α : Type} (p : α → Bool) (f : α → α) (x : α) (xs : List α) :
    modifyWhere p f (x :: xs) = (if p x then f x else x) :: modifyWhere p f xs := rfl
@[simp] theorem modifyWhere_length {α : Type} (p : α → Bool) (f : α → α) (xs : List α) : (modifyWhere p f xs).length = xs.length := by
  simp [modifyWhere]

/-- An entry of the changed list is an entry of the list, changed or not. -/
theorem mem_modifyWhere {α : Type} (p : α → Bool) (f : α → α) (xs : List α) (y : α) :
    y ∈ modifyWhere p f xs ↔ ∃ x ∈ xs, (if p x then f x else x) = y := by simp [modifyWhere]

/-- Changing entries that none of the list is leaves it. -/
theorem modifyWhere_none {α : Type} (p : α → Bool) (f : α → α) (xs : List α) (h : ∀ x ∈ xs, p x = false) : modifyWhere p f xs = xs := by
  induction xs with
  | nil => rfl
  | cons x xs ih => simp [h x (by simp), ih (fun y hy => h y (by simp [hy]))]

/-- The entry found by a test that the change keeps is the changed one. -/
theorem find_modifyWhere {α : Type} (p q : α → Bool) (f : α → α) (xs : List α) (h : ∀ x, q (if p x then f x else x) = q x) :
    (modifyWhere p f xs).find? q = (xs.find? q).map (fun x => if p x then f x else x) := by
  induction xs with
  | nil => rfl
  | cons x xs ih =>
    simp only [modifyWhere_cons, List.find?_cons, h x, ih]
    cases q x <;> rfl

/-- A list with one entry put in holds that entry and the others. -/
theorem mem_insertSorted {α : Type} (le : α → α → Bool) (x : α) (ys : List α) (z : α) : z ∈ insertSorted le x ys ↔ z = x ∨ z ∈ ys := by
  induction ys with
  | nil => simp [insertSorted]
  | cons y ys ih =>
    simp only [insertSorted]
    split
    · simp
    · simp only [List.mem_cons, ih]
      constructor
      · rintro (h | h | h) <;> simp [h]
      · rintro (h | h | h) <;> simp [h]

theorem length_insertSorted {α : Type} (le : α → α → Bool) (x : α) (ys : List α) : (insertSorted le x ys).length = ys.length + 1 := by
  induction ys with
  | nil => rfl
  | cons y ys ih =>
    simp only [insertSorted]
    split <;> simp [ih]

/-- A list put in order has the same entries. -/
theorem mem_sortList {α : Type} (le : α → α → Bool) (xs : List α) (z : α) : z ∈ sortList le xs ↔ z ∈ xs := by
  induction xs with
  | nil => rfl
  | cons x xs ih =>
    have h : sortList le (x :: xs) = insertSorted le x (sortList le xs) := rfl
    rw [h, mem_insertSorted, ih, List.mem_cons]

theorem length_sortList {α : Type} (le : α → α → Bool) (xs : List α) : (sortList le xs).length = xs.length := by
  induction xs with
  | nil => rfl
  | cons x xs ih =>
    have h : sortList le (x :: xs) = insertSorted le x (sortList le xs) := rfl
    rw [h, length_insertSorted, ih, List.length_cons]

/-- Putting an entry into a list in order keeps it in order. -/
theorem insertSorted_ordered {α : Type} (le : α → α → Bool) (total : ∀ a b, le a b = true ∨ le b a = true) (trans : ∀ a b c, le a b = true → le b c = true → le a c = true)
    (x : α) (ys : List α) (h : ys.Pairwise (fun a b => le a b = true)) : (insertSorted le x ys).Pairwise (fun a b => le a b = true) := by
  induction ys with
  | nil => simp [insertSorted]
  | cons y ys ih =>
    obtain ⟨h1, h2⟩ := List.pairwise_cons.mp h
    simp only [insertSorted]
    split
    · rename_i hx
      refine List.pairwise_cons.mpr ⟨?_, h⟩
      intro z hz
      rcases List.mem_cons.mp hz with rfl | hz
      · exact hx
      · exact trans _ _ _ hx (h1 z hz)
    · rename_i hx
      refine List.pairwise_cons.mpr ⟨?_, ih h2⟩
      intro z hz
      rcases (mem_insertSorted le x ys z).mp hz with rfl | hz
      · exact (total y z).resolve_right hx
      · exact h1 z hz

/-- A list put in order by a total and transitive test is in order. -/
theorem sortList_ordered {α : Type} (le : α → α → Bool) (total : ∀ a b, le a b = true ∨ le b a = true) (trans : ∀ a b c, le a b = true → le b c = true → le a c = true)
    (xs : List α) : (sortList le xs).Pairwise (fun a b => le a b = true) := by
  induction xs with
  | nil => exact List.Pairwise.nil
  | cons x xs ih => exact insertSorted_ordered le total trans x _ ih

end Sys2Proof.Laws
end

