-- ==== Sys2Proof/Laws/State.lean ====
section
/-! SUPPORT. Each named update of the state, field by field: the field it writes and every field that it keeps. -/

namespace Sys2Proof.Laws

open Sys2Proof Sys2Proof.Machine

/-! ### setCore -/

@[simp] theorem setCore_agenda (s : State) (c : CoreId) (f : Core → Core) : (setCore s c f).agenda = s.agenda := rfl
@[simp] theorem setCore_inputs (s : State) (c : CoreId) (f : Core → Core) : (setCore s c f).inputs = s.inputs := rfl
@[simp] theorem setCore_tick (s : State) (c : CoreId) (f : Core → Core) : (setCore s c f).tick = s.tick := rfl
@[simp] theorem setCore_nextId (s : State) (c : CoreId) (f : Core → Core) : (setCore s c f).nextId = s.nextId := rfl
@[simp] theorem setCore_cord (s : State) (c : CoreId) (f : Core → Core) : (setCore s c f).cord = s.cord := rfl
@[simp] theorem setCore_cords (s : State) (c : CoreId) (f : Core → Core) : (setCore s c f).cords = s.cords := rfl
@[simp] theorem setCore_hostNo (s : State) (c : CoreId) (f : Core → Core) : (setCore s c f).hostNo = s.hostNo := rfl
@[simp] theorem setCore_hosts (s : State) (c : CoreId) (f : Core → Core) : (setCore s c f).hosts = s.hosts := rfl
@[simp] theorem setCore_hostWait (s : State) (c : CoreId) (f : Core → Core) : (setCore s c f).hostWait = s.hostWait := rfl
@[simp] theorem setCore_hostWords (s : State) (c : CoreId) (f : Core → Core) : (setCore s c f).hostWords = s.hostWords := rfl
@[simp] theorem setCore_mem (s : State) (c : CoreId) (f : Core → Core) : (setCore s c f).mem = s.mem := rfl
@[simp] theorem setCore_failed (s : State) (c : CoreId) (f : Core → Core) : (setCore s c f).failed = s.failed := rfl
@[simp] theorem setCore_leaves (s : State) (c : CoreId) (f : Core → Core) : (setCore s c f).leaves = s.leaves := rfl
@[simp] theorem setCore_latches (s : State) (c : CoreId) (f : Core → Core) : (setCore s c f).latches = s.latches := rfl
@[simp] theorem setCore_mostly (s : State) (c : CoreId) (f : Core → Core) : (setCore s c f).mostly = s.mostly := rfl
@[simp] theorem setCore_oldText (s : State) (c : CoreId) (f : Core → Core) : (setCore s c f).oldText = s.oldText := rfl
@[simp] theorem setCore_bwaits (s : State) (c : CoreId) (f : Core → Core) : (setCore s c f).bwaits = s.bwaits := rfl
@[simp] theorem setCore_answers (s : State) (c : CoreId) (f : Core → Core) : (setCore s c f).answers = s.answers := rfl
@[simp] theorem setCore_englines (s : State) (c : CoreId) (f : Core → Core) : (setCore s c f).englines = s.englines := rfl
@[simp] theorem setCore_devWrites (s : State) (c : CoreId) (f : Core → Core) : (setCore s c f).devWrites = s.devWrites := rfl
@[simp] theorem setCore_parts (s : State) (c : CoreId) (f : Core → Core) : (setCore s c f).parts = s.parts := rfl
@[simp] theorem setCore_cores (s : State) (c : CoreId) (f : Core → Core) : (setCore s c f).cores = s.cores.set c.toNat (f (coreOf s c)) c.isLt := rfl
@[simp] theorem setCore_clusters (s : State) (c : CoreId) (f : Core → Core) : (setCore s c f).clusters = s.clusters := rfl
@[simp] theorem setCore_dies (s : State) (c : CoreId) (f : Core → Core) : (setCore s c f).dies = s.dies := rfl
@[simp] theorem setCore_quads (s : State) (c : CoreId) (f : Core → Core) : (setCore s c f).quads = s.quads := rfl
@[simp] theorem setCore_queues (s : State) (c : CoreId) (f : Core → Core) : (setCore s c f).queues = s.queues := rfl
@[simp] theorem setCore_launches (s : State) (c : CoreId) (f : Core → Core) : (setCore s c f).launches = s.launches := rfl
@[simp] theorem setCore_stands (s : State) (c : CoreId) (f : Core → Core) : (setCore s c f).stands = s.stands := rfl
@[simp] theorem setCore_held (s : State) (c : CoreId) (f : Core → Core) : (setCore s c f).held = s.held := rfl
@[simp] theorem setCore_completions (s : State) (c : CoreId) (f : Core → Core) : (setCore s c f).completions = s.completions := rfl
@[simp] theorem setCore_disp (s : State) (c : CoreId) (f : Core → Core) : (setCore s c f).disp = s.disp := rfl
@[simp] theorem setCore_iommu (s : State) (c : CoreId) (f : Core → Core) : (setCore s c f).iommu = s.iommu := rfl
@[simp] theorem setCore_almanac (s : State) (c : CoreId) (f : Core → Core) : (setCore s c f).almanac = s.almanac := rfl
@[simp] theorem setCore_fabric (s : State) (c : CoreId) (f : Core → Core) : (setCore s c f).fabric = s.fabric := rfl
@[simp] theorem setCore_mgmt (s : State) (c : CoreId) (f : Core → Core) : (setCore s c f).mgmt = s.mgmt := rfl

/-! ### setCluster -/

@[simp] theorem setCluster_agenda (s : State) (c : ClusterId) (f : Cluster → Cluster) : (setCluster s c f).agenda = s.agenda := rfl
@[simp] theorem setCluster_inputs (s : State) (c : ClusterId) (f : Cluster → Cluster) : (setCluster s c f).inputs = s.inputs := rfl
@[simp] theorem setCluster_tick (s : State) (c : ClusterId) (f : Cluster → Cluster) : (setCluster s c f).tick = s.tick := rfl
@[simp] theorem setCluster_nextId (s : State) (c : ClusterId) (f : Cluster → Cluster) : (setCluster s c f).nextId = s.nextId := rfl
@[simp] theorem setCluster_cord (s : State) (c : ClusterId) (f : Cluster → Cluster) : (setCluster s c f).cord = s.cord := rfl
@[simp] theorem setCluster_cords (s : State) (c : ClusterId) (f : Cluster → Cluster) : (setCluster s c f).cords = s.cords := rfl
@[simp] theorem setCluster_hostNo (s : State) (c : ClusterId) (f : Cluster → Cluster) : (setCluster s c f).hostNo = s.hostNo := rfl
@[simp] theorem setCluster_hosts (s : State) (c : ClusterId) (f : Cluster → Cluster) : (setCluster s c f).hosts = s.hosts := rfl
@[simp] theorem setCluster_hostWait (s : State) (c : ClusterId) (f : Cluster → Cluster) : (setCluster s c f).hostWait = s.hostWait := rfl
@[simp] theorem setCluster_hostWords (s : State) (c : ClusterId) (f : Cluster → Cluster) : (setCluster s c f).hostWords = s.hostWords := rfl
@[simp] theorem setCluster_mem (s : State) (c : ClusterId) (f : Cluster → Cluster) : (setCluster s c f).mem = s.mem := rfl
@[simp] theorem setCluster_failed (s : State) (c : ClusterId) (f : Cluster → Cluster) : (setCluster s c f).failed = s.failed := rfl
@[simp] theorem setCluster_leaves (s : State) (c : ClusterId) (f : Cluster → Cluster) : (setCluster s c f).leaves = s.leaves := rfl
@[simp] theorem setCluster_latches (s : State) (c : ClusterId) (f : Cluster → Cluster) : (setCluster s c f).latches = s.latches := rfl
@[simp] theorem setCluster_mostly (s : State) (c : ClusterId) (f : Cluster → Cluster) : (setCluster s c f).mostly = s.mostly := rfl
@[simp] theorem setCluster_oldText (s : State) (c : ClusterId) (f : Cluster → Cluster) : (setCluster s c f).oldText = s.oldText := rfl
@[simp] theorem setCluster_bwaits (s : State) (c : ClusterId) (f : Cluster → Cluster) : (setCluster s c f).bwaits = s.bwaits := rfl
@[simp] theorem setCluster_answers (s : State) (c : ClusterId) (f : Cluster → Cluster) : (setCluster s c f).answers = s.answers := rfl
@[simp] theorem setCluster_englines (s : State) (c : ClusterId) (f : Cluster → Cluster) : (setCluster s c f).englines = s.englines := rfl
@[simp] theorem setCluster_devWrites (s : State) (c : ClusterId) (f : Cluster → Cluster) : (setCluster s c f).devWrites = s.devWrites := rfl
@[simp] theorem setCluster_parts (s : State) (c : ClusterId) (f : Cluster → Cluster) : (setCluster s c f).parts = s.parts := rfl
@[simp] theorem setCluster_cores (s : State) (c : ClusterId) (f : Cluster → Cluster) : (setCluster s c f).cores = s.cores := rfl
@[simp] theorem setCluster_clusters (s : State) (c : ClusterId) (f : Cluster → Cluster) : (setCluster s c f).clusters = s.clusters.set c.toNat (f (clusterOf s c)) c.isLt := rfl
@[simp] theorem setCluster_dies (s : State) (c : ClusterId) (f : Cluster → Cluster) : (setCluster s c f).dies = s.dies := rfl
@[simp] theorem setCluster_quads (s : State) (c : ClusterId) (f : Cluster → Cluster) : (setCluster s c f).quads = s.quads := rfl
@[simp] theorem setCluster_queues (s : State) (c : ClusterId) (f : Cluster → Cluster) : (setCluster s c f).queues = s.queues := rfl
@[simp] theorem setCluster_launches (s : State) (c : ClusterId) (f : Cluster → Cluster) : (setCluster s c f).launches = s.launches := rfl
@[simp] theorem setCluster_stands (s : State) (c : ClusterId) (f : Cluster → Cluster) : (setCluster s c f).stands = s.stands := rfl
@[simp] theorem setCluster_held (s : State) (c : ClusterId) (f : Cluster → Cluster) : (setCluster s c f).held = s.held := rfl
@[simp] theorem setCluster_completions (s : State) (c : ClusterId) (f : Cluster → Cluster) : (setCluster s c f).completions = s.completions := rfl
@[simp] theorem setCluster_disp (s : State) (c : ClusterId) (f : Cluster → Cluster) : (setCluster s c f).disp = s.disp := rfl
@[simp] theorem setCluster_iommu (s : State) (c : ClusterId) (f : Cluster → Cluster) : (setCluster s c f).iommu = s.iommu := rfl
@[simp] theorem setCluster_almanac (s : State) (c : ClusterId) (f : Cluster → Cluster) : (setCluster s c f).almanac = s.almanac := rfl
@[simp] theorem setCluster_fabric (s : State) (c : ClusterId) (f : Cluster → Cluster) : (setCluster s c f).fabric = s.fabric := rfl
@[simp] theorem setCluster_mgmt (s : State) (c : ClusterId) (f : Cluster → Cluster) : (setCluster s c f).mgmt = s.mgmt := rfl

/-! ### setPart -/

@[simp] theorem setPart_agenda (s : State) (p : PartId) (f : Partition → Partition) : (setPart s p f).agenda = s.agenda := rfl
@[simp] theorem setPart_inputs (s : State) (p : PartId) (f : Partition → Partition) : (setPart s p f).inputs = s.inputs := rfl
@[simp] theorem setPart_tick (s : State) (p : PartId) (f : Partition → Partition) : (setPart s p f).tick = s.tick := rfl
@[simp] theorem setPart_nextId (s : State) (p : PartId) (f : Partition → Partition) : (setPart s p f).nextId = s.nextId := rfl
@[simp] theorem setPart_cord (s : State) (p : PartId) (f : Partition → Partition) : (setPart s p f).cord = s.cord := rfl
@[simp] theorem setPart_cords (s : State) (p : PartId) (f : Partition → Partition) : (setPart s p f).cords = s.cords := rfl
@[simp] theorem setPart_hostNo (s : State) (p : PartId) (f : Partition → Partition) : (setPart s p f).hostNo = s.hostNo := rfl
@[simp] theorem setPart_hosts (s : State) (p : PartId) (f : Partition → Partition) : (setPart s p f).hosts = s.hosts := rfl
@[simp] theorem setPart_hostWait (s : State) (p : PartId) (f : Partition → Partition) : (setPart s p f).hostWait = s.hostWait := rfl
@[simp] theorem setPart_hostWords (s : State) (p : PartId) (f : Partition → Partition) : (setPart s p f).hostWords = s.hostWords := rfl
@[simp] theorem setPart_mem (s : State) (p : PartId) (f : Partition → Partition) : (setPart s p f).mem = s.mem := rfl
@[simp] theorem setPart_failed (s : State) (p : PartId) (f : Partition → Partition) : (setPart s p f).failed = s.failed := rfl
@[simp] theorem setPart_leaves (s : State) (p : PartId) (f : Partition → Partition) : (setPart s p f).leaves = s.leaves := rfl
@[simp] theorem setPart_latches (s : State) (p : PartId) (f : Partition → Partition) : (setPart s p f).latches = s.latches := rfl
@[simp] theorem setPart_mostly (s : State) (p : PartId) (f : Partition → Partition) : (setPart s p f).mostly = s.mostly := rfl
@[simp] theorem setPart_oldText (s : State) (p : PartId) (f : Partition → Partition) : (setPart s p f).oldText = s.oldText := rfl
@[simp] theorem setPart_bwaits (s : State) (p : PartId) (f : Partition → Partition) : (setPart s p f).bwaits = s.bwaits := rfl
@[simp] theorem setPart_answers (s : State) (p : PartId) (f : Partition → Partition) : (setPart s p f).answers = s.answers := rfl
@[simp] theorem setPart_englines (s : State) (p : PartId) (f : Partition → Partition) : (setPart s p f).englines = s.englines := rfl
@[simp] theorem setPart_devWrites (s : State) (p : PartId) (f : Partition → Partition) : (setPart s p f).devWrites = s.devWrites := rfl
@[simp] theorem setPart_parts (s : State) (p : PartId) (f : Partition → Partition) : (setPart s p f).parts = s.parts.set p.toNat (f (partOf s p)) p.isLt := rfl
@[simp] theorem setPart_cores (s : State) (p : PartId) (f : Partition → Partition) : (setPart s p f).cores = s.cores := rfl
@[simp] theorem setPart_clusters (s : State) (p : PartId) (f : Partition → Partition) : (setPart s p f).clusters = s.clusters := rfl
@[simp] theorem setPart_dies (s : State) (p : PartId) (f : Partition → Partition) : (setPart s p f).dies = s.dies := rfl
@[simp] theorem setPart_quads (s : State) (p : PartId) (f : Partition → Partition) : (setPart s p f).quads = s.quads := rfl
@[simp] theorem setPart_queues (s : State) (p : PartId) (f : Partition → Partition) : (setPart s p f).queues = s.queues := rfl
@[simp] theorem setPart_launches (s : State) (p : PartId) (f : Partition → Partition) : (setPart s p f).launches = s.launches := rfl
@[simp] theorem setPart_stands (s : State) (p : PartId) (f : Partition → Partition) : (setPart s p f).stands = s.stands := rfl
@[simp] theorem setPart_held (s : State) (p : PartId) (f : Partition → Partition) : (setPart s p f).held = s.held := rfl
@[simp] theorem setPart_completions (s : State) (p : PartId) (f : Partition → Partition) : (setPart s p f).completions = s.completions := rfl
@[simp] theorem setPart_disp (s : State) (p : PartId) (f : Partition → Partition) : (setPart s p f).disp = s.disp := rfl
@[simp] theorem setPart_iommu (s : State) (p : PartId) (f : Partition → Partition) : (setPart s p f).iommu = s.iommu := rfl
@[simp] theorem setPart_almanac (s : State) (p : PartId) (f : Partition → Partition) : (setPart s p f).almanac = s.almanac := rfl
@[simp] theorem setPart_fabric (s : State) (p : PartId) (f : Partition → Partition) : (setPart s p f).fabric = s.fabric := rfl
@[simp] theorem setPart_mgmt (s : State) (p : PartId) (f : Partition → Partition) : (setPart s p f).mgmt = s.mgmt := rfl

/-! ### setDie -/

@[simp] theorem setDie_agenda (s : State) (d : DieId) (f : Die → Die) : (setDie s d f).agenda = s.agenda := rfl
@[simp] theorem setDie_inputs (s : State) (d : DieId) (f : Die → Die) : (setDie s d f).inputs = s.inputs := rfl
@[simp] theorem setDie_tick (s : State) (d : DieId) (f : Die → Die) : (setDie s d f).tick = s.tick := rfl
@[simp] theorem setDie_nextId (s : State) (d : DieId) (f : Die → Die) : (setDie s d f).nextId = s.nextId := rfl
@[simp] theorem setDie_cord (s : State) (d : DieId) (f : Die → Die) : (setDie s d f).cord = s.cord := rfl
@[simp] theorem setDie_cords (s : State) (d : DieId) (f : Die → Die) : (setDie s d f).cords = s.cords := rfl
@[simp] theorem setDie_hostNo (s : State) (d : DieId) (f : Die → Die) : (setDie s d f).hostNo = s.hostNo := rfl
@[simp] theorem setDie_hosts (s : State) (d : DieId) (f : Die → Die) : (setDie s d f).hosts = s.hosts := rfl
@[simp] theorem setDie_hostWait (s : State) (d : DieId) (f : Die → Die) : (setDie s d f).hostWait = s.hostWait := rfl
@[simp] theorem setDie_hostWords (s : State) (d : DieId) (f : Die → Die) : (setDie s d f).hostWords = s.hostWords := rfl
@[simp] theorem setDie_mem (s : State) (d : DieId) (f : Die → Die) : (setDie s d f).mem = s.mem := rfl
@[simp] theorem setDie_failed (s : State) (d : DieId) (f : Die → Die) : (setDie s d f).failed = s.failed := rfl
@[simp] theorem setDie_leaves (s : State) (d : DieId) (f : Die → Die) : (setDie s d f).leaves = s.leaves := rfl
@[simp] theorem setDie_latches (s : State) (d : DieId) (f : Die → Die) : (setDie s d f).latches = s.latches := rfl
@[simp] theorem setDie_mostly (s : State) (d : DieId) (f : Die → Die) : (setDie s d f).mostly = s.mostly := rfl
@[simp] theorem setDie_oldText (s : State) (d : DieId) (f : Die → Die) : (setDie s d f).oldText = s.oldText := rfl
@[simp] theorem setDie_bwaits (s : State) (d : DieId) (f : Die → Die) : (setDie s d f).bwaits = s.bwaits := rfl
@[simp] theorem setDie_answers (s : State) (d : DieId) (f : Die → Die) : (setDie s d f).answers = s.answers := rfl
@[simp] theorem setDie_englines (s : State) (d : DieId) (f : Die → Die) : (setDie s d f).englines = s.englines := rfl
@[simp] theorem setDie_devWrites (s : State) (d : DieId) (f : Die → Die) : (setDie s d f).devWrites = s.devWrites := rfl
@[simp] theorem setDie_parts (s : State) (d : DieId) (f : Die → Die) : (setDie s d f).parts = s.parts := rfl
@[simp] theorem setDie_cores (s : State) (d : DieId) (f : Die → Die) : (setDie s d f).cores = s.cores := rfl
@[simp] theorem setDie_clusters (s : State) (d : DieId) (f : Die → Die) : (setDie s d f).clusters = s.clusters := rfl
@[simp] theorem setDie_dies (s : State) (d : DieId) (f : Die → Die) : (setDie s d f).dies = s.dies.set d.toNat (f (dieOf s d)) d.isLt := rfl
@[simp] theorem setDie_quads (s : State) (d : DieId) (f : Die → Die) : (setDie s d f).quads = s.quads := rfl
@[simp] theorem setDie_queues (s : State) (d : DieId) (f : Die → Die) : (setDie s d f).queues = s.queues := rfl
@[simp] theorem setDie_launches (s : State) (d : DieId) (f : Die → Die) : (setDie s d f).launches = s.launches := rfl
@[simp] theorem setDie_stands (s : State) (d : DieId) (f : Die → Die) : (setDie s d f).stands = s.stands := rfl
@[simp] theorem setDie_held (s : State) (d : DieId) (f : Die → Die) : (setDie s d f).held = s.held := rfl
@[simp] theorem setDie_completions (s : State) (d : DieId) (f : Die → Die) : (setDie s d f).completions = s.completions := rfl
@[simp] theorem setDie_disp (s : State) (d : DieId) (f : Die → Die) : (setDie s d f).disp = s.disp := rfl
@[simp] theorem setDie_iommu (s : State) (d : DieId) (f : Die → Die) : (setDie s d f).iommu = s.iommu := rfl
@[simp] theorem setDie_almanac (s : State) (d : DieId) (f : Die → Die) : (setDie s d f).almanac = s.almanac := rfl
@[simp] theorem setDie_fabric (s : State) (d : DieId) (f : Die → Die) : (setDie s d f).fabric = s.fabric := rfl
@[simp] theorem setDie_mgmt (s : State) (d : DieId) (f : Die → Die) : (setDie s d f).mgmt = s.mgmt := rfl

/-! ### setQuad -/

@[simp] theorem setQuad_agenda (s : State) (q : QuadId) (f : List NbCmd → List NbCmd) : (setQuad s q f).agenda = s.agenda := rfl
@[simp] theorem setQuad_inputs (s : State) (q : QuadId) (f : List NbCmd → List NbCmd) : (setQuad s q f).inputs = s.inputs := rfl
@[simp] theorem setQuad_tick (s : State) (q : QuadId) (f : List NbCmd → List NbCmd) : (setQuad s q f).tick = s.tick := rfl
@[simp] theorem setQuad_nextId (s : State) (q : QuadId) (f : List NbCmd → List NbCmd) : (setQuad s q f).nextId = s.nextId := rfl
@[simp] theorem setQuad_cord (s : State) (q : QuadId) (f : List NbCmd → List NbCmd) : (setQuad s q f).cord = s.cord := rfl
@[simp] theorem setQuad_cords (s : State) (q : QuadId) (f : List NbCmd → List NbCmd) : (setQuad s q f).cords = s.cords := rfl
@[simp] theorem setQuad_hostNo (s : State) (q : QuadId) (f : List NbCmd → List NbCmd) : (setQuad s q f).hostNo = s.hostNo := rfl
@[simp] theorem setQuad_hosts (s : State) (q : QuadId) (f : List NbCmd → List NbCmd) : (setQuad s q f).hosts = s.hosts := rfl
@[simp] theorem setQuad_hostWait (s : State) (q : QuadId) (f : List NbCmd → List NbCmd) : (setQuad s q f).hostWait = s.hostWait := rfl
@[simp] theorem setQuad_hostWords (s : State) (q : QuadId) (f : List NbCmd → List NbCmd) : (setQuad s q f).hostWords = s.hostWords := rfl
@[simp] theorem setQuad_mem (s : State) (q : QuadId) (f : List NbCmd → List NbCmd) : (setQuad s q f).mem = s.mem := rfl
@[simp] theorem setQuad_failed (s : State) (q : QuadId) (f : List NbCmd → List NbCmd) : (setQuad s q f).failed = s.failed := rfl
@[simp] theorem setQuad_leaves (s : State) (q : QuadId) (f : List NbCmd → List NbCmd) : (setQuad s q f).leaves = s.leaves := rfl
@[simp] theorem setQuad_latches (s : State) (q : QuadId) (f : List NbCmd → List NbCmd) : (setQuad s q f).latches = s.latches := rfl
@[simp] theorem setQuad_mostly (s : State) (q : QuadId) (f : List NbCmd → List NbCmd) : (setQuad s q f).mostly = s.mostly := rfl
@[simp] theorem setQuad_oldText (s : State) (q : QuadId) (f : List NbCmd → List NbCmd) : (setQuad s q f).oldText = s.oldText := rfl
@[simp] theorem setQuad_bwaits (s : State) (q : QuadId) (f : List NbCmd → List NbCmd) : (setQuad s q f).bwaits = s.bwaits := rfl
@[simp] theorem setQuad_answers (s : State) (q : QuadId) (f : List NbCmd → List NbCmd) : (setQuad s q f).answers = s.answers := rfl
@[simp] theorem setQuad_englines (s : State) (q : QuadId) (f : List NbCmd → List NbCmd) : (setQuad s q f).englines = s.englines := rfl
@[simp] theorem setQuad_devWrites (s : State) (q : QuadId) (f : List NbCmd → List NbCmd) : (setQuad s q f).devWrites = s.devWrites := rfl
@[simp] theorem setQuad_parts (s : State) (q : QuadId) (f : List NbCmd → List NbCmd) : (setQuad s q f).parts = s.parts := rfl
@[simp] theorem setQuad_cores (s : State) (q : QuadId) (f : List NbCmd → List NbCmd) : (setQuad s q f).cores = s.cores := rfl
@[simp] theorem setQuad_clusters (s : State) (q : QuadId) (f : List NbCmd → List NbCmd) : (setQuad s q f).clusters = s.clusters := rfl
@[simp] theorem setQuad_dies (s : State) (q : QuadId) (f : List NbCmd → List NbCmd) : (setQuad s q f).dies = s.dies := rfl
@[simp] theorem setQuad_quads (s : State) (q : QuadId) (f : List NbCmd → List NbCmd) : (setQuad s q f).quads = s.quads.set q.toNat (f (quadOf s q)) q.isLt := rfl
@[simp] theorem setQuad_queues (s : State) (q : QuadId) (f : List NbCmd → List NbCmd) : (setQuad s q f).queues = s.queues := rfl
@[simp] theorem setQuad_launches (s : State) (q : QuadId) (f : List NbCmd → List NbCmd) : (setQuad s q f).launches = s.launches := rfl
@[simp] theorem setQuad_stands (s : State) (q : QuadId) (f : List NbCmd → List NbCmd) : (setQuad s q f).stands = s.stands := rfl
@[simp] theorem setQuad_held (s : State) (q : QuadId) (f : List NbCmd → List NbCmd) : (setQuad s q f).held = s.held := rfl
@[simp] theorem setQuad_completions (s : State) (q : QuadId) (f : List NbCmd → List NbCmd) : (setQuad s q f).completions = s.completions := rfl
@[simp] theorem setQuad_disp (s : State) (q : QuadId) (f : List NbCmd → List NbCmd) : (setQuad s q f).disp = s.disp := rfl
@[simp] theorem setQuad_iommu (s : State) (q : QuadId) (f : List NbCmd → List NbCmd) : (setQuad s q f).iommu = s.iommu := rfl
@[simp] theorem setQuad_almanac (s : State) (q : QuadId) (f : List NbCmd → List NbCmd) : (setQuad s q f).almanac = s.almanac := rfl
@[simp] theorem setQuad_fabric (s : State) (q : QuadId) (f : List NbCmd → List NbCmd) : (setQuad s q f).fabric = s.fabric := rfl
@[simp] theorem setQuad_mgmt (s : State) (q : QuadId) (f : List NbCmd → List NbCmd) : (setQuad s q f).mgmt = s.mgmt := rfl

/-! ### mapCords -/

@[simp] theorem mapCords_agenda (f : Cord → Cord) (s : State) : (mapCords f s).agenda = s.agenda := rfl
@[simp] theorem mapCords_inputs (f : Cord → Cord) (s : State) : (mapCords f s).inputs = s.inputs := rfl
@[simp] theorem mapCords_tick (f : Cord → Cord) (s : State) : (mapCords f s).tick = s.tick := rfl
@[simp] theorem mapCords_nextId (f : Cord → Cord) (s : State) : (mapCords f s).nextId = s.nextId := rfl
@[simp] theorem mapCords_cord (f : Cord → Cord) (s : State) : (mapCords f s).cord = f s.cord := rfl
@[simp] theorem mapCords_cords (f : Cord → Cord) (s : State) : (mapCords f s).cords = s.cords.map f := rfl
@[simp] theorem mapCords_hostNo (f : Cord → Cord) (s : State) : (mapCords f s).hostNo = s.hostNo := rfl
@[simp] theorem mapCords_hosts (f : Cord → Cord) (s : State) : (mapCords f s).hosts = s.hosts := rfl
@[simp] theorem mapCords_hostWait (f : Cord → Cord) (s : State) : (mapCords f s).hostWait = s.hostWait := rfl
@[simp] theorem mapCords_hostWords (f : Cord → Cord) (s : State) : (mapCords f s).hostWords = s.hostWords := rfl
@[simp] theorem mapCords_mem (f : Cord → Cord) (s : State) : (mapCords f s).mem = s.mem := rfl
@[simp] theorem mapCords_failed (f : Cord → Cord) (s : State) : (mapCords f s).failed = s.failed := rfl
@[simp] theorem mapCords_leaves (f : Cord → Cord) (s : State) : (mapCords f s).leaves = s.leaves := rfl
@[simp] theorem mapCords_latches (f : Cord → Cord) (s : State) : (mapCords f s).latches = s.latches := rfl
@[simp] theorem mapCords_mostly (f : Cord → Cord) (s : State) : (mapCords f s).mostly = s.mostly := rfl
@[simp] theorem mapCords_oldText (f : Cord → Cord) (s : State) : (mapCords f s).oldText = s.oldText := rfl
@[simp] theorem mapCords_bwaits (f : Cord → Cord) (s : State) : (mapCords f s).bwaits = s.bwaits := rfl
@[simp] theorem mapCords_answers (f : Cord → Cord) (s : State) : (mapCords f s).answers = s.answers := rfl
@[simp] theorem mapCords_englines (f : Cord → Cord) (s : State) : (mapCords f s).englines = s.englines := rfl
@[simp] theorem mapCords_devWrites (f : Cord → Cord) (s : State) : (mapCords f s).devWrites = s.devWrites := rfl
@[simp] theorem mapCords_parts (f : Cord → Cord) (s : State) : (mapCords f s).parts = s.parts := rfl
@[simp] theorem mapCords_cores (f : Cord → Cord) (s : State) : (mapCords f s).cores = s.cores := rfl
@[simp] theorem mapCords_clusters (f : Cord → Cord) (s : State) : (mapCords f s).clusters = s.clusters := rfl
@[simp] theorem mapCords_dies (f : Cord → Cord) (s : State) : (mapCords f s).dies = s.dies := rfl
@[simp] theorem mapCords_quads (f : Cord → Cord) (s : State) : (mapCords f s).quads = s.quads := rfl
@[simp] theorem mapCords_queues (f : Cord → Cord) (s : State) : (mapCords f s).queues = s.queues := rfl
@[simp] theorem mapCords_launches (f : Cord → Cord) (s : State) : (mapCords f s).launches = s.launches := rfl
@[simp] theorem mapCords_stands (f : Cord → Cord) (s : State) : (mapCords f s).stands = s.stands := rfl
@[simp] theorem mapCords_held (f : Cord → Cord) (s : State) : (mapCords f s).held = s.held := rfl
@[simp] theorem mapCords_completions (f : Cord → Cord) (s : State) : (mapCords f s).completions = s.completions := rfl
@[simp] theorem mapCords_disp (f : Cord → Cord) (s : State) : (mapCords f s).disp = s.disp := rfl
@[simp] theorem mapCords_iommu (f : Cord → Cord) (s : State) : (mapCords f s).iommu = s.iommu := rfl
@[simp] theorem mapCords_almanac (f : Cord → Cord) (s : State) : (mapCords f s).almanac = s.almanac := rfl
@[simp] theorem mapCords_fabric (f : Cord → Cord) (s : State) : (mapCords f s).fabric = s.fabric := rfl
@[simp] theorem mapCords_mgmt (f : Cord → Cord) (s : State) : (mapCords f s).mgmt = s.mgmt := rfl

/-! ### setCord -/

@[simp] theorem setCord_agenda (f : Cord → Cord) (s : State) : (setCord f s).agenda = s.agenda := rfl
@[simp] theorem setCord_inputs (f : Cord → Cord) (s : State) : (setCord f s).inputs = s.inputs := rfl
@[simp] theorem setCord_tick (f : Cord → Cord) (s : State) : (setCord f s).tick = s.tick := rfl
@[simp] theorem setCord_nextId (f : Cord → Cord) (s : State) : (setCord f s).nextId = s.nextId := rfl
@[simp] theorem setCord_cord (f : Cord → Cord) (s : State) : (setCord f s).cord = f s.cord := rfl
@[simp] theorem setCord_cords (f : Cord → Cord) (s : State) : (setCord f s).cords = s.cords := rfl
@[simp] theorem setCord_hostNo (f : Cord → Cord) (s : State) : (setCord f s).hostNo = s.hostNo := rfl
@[simp] theorem setCord_hosts (f : Cord → Cord) (s : State) : (setCord f s).hosts = s.hosts := rfl
@[simp] theorem setCord_hostWait (f : Cord → Cord) (s : State) : (setCord f s).hostWait = s.hostWait := rfl
@[simp] theorem setCord_hostWords (f : Cord → Cord) (s : State) : (setCord f s).hostWords = s.hostWords := rfl
@[simp] theorem setCord_mem (f : Cord → Cord) (s : State) : (setCord f s).mem = s.mem := rfl
@[simp] theorem setCord_failed (f : Cord → Cord) (s : State) : (setCord f s).failed = s.failed := rfl
@[simp] theorem setCord_leaves (f : Cord → Cord) (s : State) : (setCord f s).leaves = s.leaves := rfl
@[simp] theorem setCord_latches (f : Cord → Cord) (s : State) : (setCord f s).latches = s.latches := rfl
@[simp] theorem setCord_mostly (f : Cord → Cord) (s : State) : (setCord f s).mostly = s.mostly := rfl
@[simp] theorem setCord_oldText (f : Cord → Cord) (s : State) : (setCord f s).oldText = s.oldText := rfl
@[simp] theorem setCord_bwaits (f : Cord → Cord) (s : State) : (setCord f s).bwaits = s.bwaits := rfl
@[simp] theorem setCord_answers (f : Cord → Cord) (s : State) : (setCord f s).answers = s.answers := rfl
@[simp] theorem setCord_englines (f : Cord → Cord) (s : State) : (setCord f s).englines = s.englines := rfl
@[simp] theorem setCord_devWrites (f : Cord → Cord) (s : State) : (setCord f s).devWrites = s.devWrites := rfl
@[simp] theorem setCord_parts (f : Cord → Cord) (s : State) : (setCord f s).parts = s.parts := rfl
@[simp] theorem setCord_cores (f : Cord → Cord) (s : State) : (setCord f s).cores = s.cores := rfl
@[simp] theorem setCord_clusters (f : Cord → Cord) (s : State) : (setCord f s).clusters = s.clusters := rfl
@[simp] theorem setCord_dies (f : Cord → Cord) (s : State) : (setCord f s).dies = s.dies := rfl
@[simp] theorem setCord_quads (f : Cord → Cord) (s : State) : (setCord f s).quads = s.quads := rfl
@[simp] theorem setCord_queues (f : Cord → Cord) (s : State) : (setCord f s).queues = s.queues := rfl
@[simp] theorem setCord_launches (f : Cord → Cord) (s : State) : (setCord f s).launches = s.launches := rfl
@[simp] theorem setCord_stands (f : Cord → Cord) (s : State) : (setCord f s).stands = s.stands := rfl
@[simp] theorem setCord_held (f : Cord → Cord) (s : State) : (setCord f s).held = s.held := rfl
@[simp] theorem setCord_completions (f : Cord → Cord) (s : State) : (setCord f s).completions = s.completions := rfl
@[simp] theorem setCord_disp (f : Cord → Cord) (s : State) : (setCord f s).disp = s.disp := rfl
@[simp] theorem setCord_iommu (f : Cord → Cord) (s : State) : (setCord f s).iommu = s.iommu := rfl
@[simp] theorem setCord_almanac (f : Cord → Cord) (s : State) : (setCord f s).almanac = s.almanac := rfl
@[simp] theorem setCord_fabric (f : Cord → Cord) (s : State) : (setCord f s).fabric = s.fabric := rfl
@[simp] theorem setCord_mgmt (f : Cord → Cord) (s : State) : (setCord f s).mgmt = s.mgmt := rfl

/-! ### setFrag -/

@[simp] theorem setFrag_agenda (f : Fragment → Fragment) (s : State) : (setFrag f s).agenda = s.agenda := rfl
@[simp] theorem setFrag_inputs (f : Fragment → Fragment) (s : State) : (setFrag f s).inputs = s.inputs := rfl
@[simp] theorem setFrag_tick (f : Fragment → Fragment) (s : State) : (setFrag f s).tick = s.tick := rfl
@[simp] theorem setFrag_nextId (f : Fragment → Fragment) (s : State) : (setFrag f s).nextId = s.nextId := rfl
@[simp] theorem setFrag_cord (f : Fragment → Fragment) (s : State) : (setFrag f s).cord = { s.cord with frag := f s.cord.frag } := rfl
@[simp] theorem setFrag_cords (f : Fragment → Fragment) (s : State) : (setFrag f s).cords = s.cords := rfl
@[simp] theorem setFrag_hostNo (f : Fragment → Fragment) (s : State) : (setFrag f s).hostNo = s.hostNo := rfl
@[simp] theorem setFrag_hosts (f : Fragment → Fragment) (s : State) : (setFrag f s).hosts = s.hosts := rfl
@[simp] theorem setFrag_hostWait (f : Fragment → Fragment) (s : State) : (setFrag f s).hostWait = s.hostWait := rfl
@[simp] theorem setFrag_hostWords (f : Fragment → Fragment) (s : State) : (setFrag f s).hostWords = s.hostWords := rfl
@[simp] theorem setFrag_mem (f : Fragment → Fragment) (s : State) : (setFrag f s).mem = s.mem := rfl
@[simp] theorem setFrag_failed (f : Fragment → Fragment) (s : State) : (setFrag f s).failed = s.failed := rfl
@[simp] theorem setFrag_leaves (f : Fragment → Fragment) (s : State) : (setFrag f s).leaves = s.leaves := rfl
@[simp] theorem setFrag_latches (f : Fragment → Fragment) (s : State) : (setFrag f s).latches = s.latches := rfl
@[simp] theorem setFrag_mostly (f : Fragment → Fragment) (s : State) : (setFrag f s).mostly = s.mostly := rfl
@[simp] theorem setFrag_oldText (f : Fragment → Fragment) (s : State) : (setFrag f s).oldText = s.oldText := rfl
@[simp] theorem setFrag_bwaits (f : Fragment → Fragment) (s : State) : (setFrag f s).bwaits = s.bwaits := rfl
@[simp] theorem setFrag_answers (f : Fragment → Fragment) (s : State) : (setFrag f s).answers = s.answers := rfl
@[simp] theorem setFrag_englines (f : Fragment → Fragment) (s : State) : (setFrag f s).englines = s.englines := rfl
@[simp] theorem setFrag_devWrites (f : Fragment → Fragment) (s : State) : (setFrag f s).devWrites = s.devWrites := rfl
@[simp] theorem setFrag_parts (f : Fragment → Fragment) (s : State) : (setFrag f s).parts = s.parts := rfl
@[simp] theorem setFrag_cores (f : Fragment → Fragment) (s : State) : (setFrag f s).cores = s.cores := rfl
@[simp] theorem setFrag_clusters (f : Fragment → Fragment) (s : State) : (setFrag f s).clusters = s.clusters := rfl
@[simp] theorem setFrag_dies (f : Fragment → Fragment) (s : State) : (setFrag f s).dies = s.dies := rfl
@[simp] theorem setFrag_quads (f : Fragment → Fragment) (s : State) : (setFrag f s).quads = s.quads := rfl
@[simp] theorem setFrag_queues (f : Fragment → Fragment) (s : State) : (setFrag f s).queues = s.queues := rfl
@[simp] theorem setFrag_launches (f : Fragment → Fragment) (s : State) : (setFrag f s).launches = s.launches := rfl
@[simp] theorem setFrag_stands (f : Fragment → Fragment) (s : State) : (setFrag f s).stands = s.stands := rfl
@[simp] theorem setFrag_held (f : Fragment → Fragment) (s : State) : (setFrag f s).held = s.held := rfl
@[simp] theorem setFrag_completions (f : Fragment → Fragment) (s : State) : (setFrag f s).completions = s.completions := rfl
@[simp] theorem setFrag_disp (f : Fragment → Fragment) (s : State) : (setFrag f s).disp = s.disp := rfl
@[simp] theorem setFrag_iommu (f : Fragment → Fragment) (s : State) : (setFrag f s).iommu = s.iommu := rfl
@[simp] theorem setFrag_almanac (f : Fragment → Fragment) (s : State) : (setFrag f s).almanac = s.almanac := rfl
@[simp] theorem setFrag_fabric (f : Fragment → Fragment) (s : State) : (setFrag f s).fabric = s.fabric := rfl
@[simp] theorem setFrag_mgmt (f : Fragment → Fragment) (s : State) : (setFrag f s).mgmt = s.mgmt := rfl

/-! ### setReg -/

@[simp] theorem setReg_agenda (s : State) (r : Reg) (v : Word) : (setReg s r v).agenda = s.agenda := rfl
@[simp] theorem setReg_inputs (s : State) (r : Reg) (v : Word) : (setReg s r v).inputs = s.inputs := rfl
@[simp] theorem setReg_tick (s : State) (r : Reg) (v : Word) : (setReg s r v).tick = s.tick := rfl
@[simp] theorem setReg_nextId (s : State) (r : Reg) (v : Word) : (setReg s r v).nextId = s.nextId := rfl
@[simp] theorem setReg_cord (s : State) (r : Reg) (v : Word) : (setReg s r v).cord = setCordReg s.cord r v := rfl
@[simp] theorem setReg_cords (s : State) (r : Reg) (v : Word) : (setReg s r v).cords = s.cords := rfl
@[simp] theorem setReg_hostNo (s : State) (r : Reg) (v : Word) : (setReg s r v).hostNo = s.hostNo := rfl
@[simp] theorem setReg_hosts (s : State) (r : Reg) (v : Word) : (setReg s r v).hosts = s.hosts := rfl
@[simp] theorem setReg_hostWait (s : State) (r : Reg) (v : Word) : (setReg s r v).hostWait = s.hostWait := rfl
@[simp] theorem setReg_hostWords (s : State) (r : Reg) (v : Word) : (setReg s r v).hostWords = s.hostWords := rfl
@[simp] theorem setReg_mem (s : State) (r : Reg) (v : Word) : (setReg s r v).mem = s.mem := rfl
@[simp] theorem setReg_failed (s : State) (r : Reg) (v : Word) : (setReg s r v).failed = s.failed := rfl
@[simp] theorem setReg_leaves (s : State) (r : Reg) (v : Word) : (setReg s r v).leaves = s.leaves := rfl
@[simp] theorem setReg_latches (s : State) (r : Reg) (v : Word) : (setReg s r v).latches = s.latches := rfl
@[simp] theorem setReg_mostly (s : State) (r : Reg) (v : Word) : (setReg s r v).mostly = s.mostly := rfl
@[simp] theorem setReg_oldText (s : State) (r : Reg) (v : Word) : (setReg s r v).oldText = s.oldText := rfl
@[simp] theorem setReg_bwaits (s : State) (r : Reg) (v : Word) : (setReg s r v).bwaits = s.bwaits := rfl
@[simp] theorem setReg_answers (s : State) (r : Reg) (v : Word) : (setReg s r v).answers = s.answers := rfl
@[simp] theorem setReg_englines (s : State) (r : Reg) (v : Word) : (setReg s r v).englines = s.englines := rfl
@[simp] theorem setReg_devWrites (s : State) (r : Reg) (v : Word) : (setReg s r v).devWrites = s.devWrites := rfl
@[simp] theorem setReg_parts (s : State) (r : Reg) (v : Word) : (setReg s r v).parts = s.parts := rfl
@[simp] theorem setReg_cores (s : State) (r : Reg) (v : Word) : (setReg s r v).cores = s.cores := rfl
@[simp] theorem setReg_clusters (s : State) (r : Reg) (v : Word) : (setReg s r v).clusters = s.clusters := rfl
@[simp] theorem setReg_dies (s : State) (r : Reg) (v : Word) : (setReg s r v).dies = s.dies := rfl
@[simp] theorem setReg_quads (s : State) (r : Reg) (v : Word) : (setReg s r v).quads = s.quads := rfl
@[simp] theorem setReg_queues (s : State) (r : Reg) (v : Word) : (setReg s r v).queues = s.queues := rfl
@[simp] theorem setReg_launches (s : State) (r : Reg) (v : Word) : (setReg s r v).launches = s.launches := rfl
@[simp] theorem setReg_stands (s : State) (r : Reg) (v : Word) : (setReg s r v).stands = s.stands := rfl
@[simp] theorem setReg_held (s : State) (r : Reg) (v : Word) : (setReg s r v).held = s.held := rfl
@[simp] theorem setReg_completions (s : State) (r : Reg) (v : Word) : (setReg s r v).completions = s.completions := rfl
@[simp] theorem setReg_disp (s : State) (r : Reg) (v : Word) : (setReg s r v).disp = s.disp := rfl
@[simp] theorem setReg_iommu (s : State) (r : Reg) (v : Word) : (setReg s r v).iommu = s.iommu := rfl
@[simp] theorem setReg_almanac (s : State) (r : Reg) (v : Word) : (setReg s r v).almanac = s.almanac := rfl
@[simp] theorem setReg_fabric (s : State) (r : Reg) (v : Word) : (setReg s r v).fabric = s.fabric := rfl
@[simp] theorem setReg_mgmt (s : State) (r : Reg) (v : Word) : (setReg s r v).mgmt = s.mgmt := rfl

/-! ### setPair -/

@[simp] theorem setPair_agenda (s : State) (r : Reg) (v : DWord) : (setPair s r v).agenda = s.agenda := rfl
@[simp] theorem setPair_inputs (s : State) (r : Reg) (v : DWord) : (setPair s r v).inputs = s.inputs := rfl
@[simp] theorem setPair_tick (s : State) (r : Reg) (v : DWord) : (setPair s r v).tick = s.tick := rfl
@[simp] theorem setPair_nextId (s : State) (r : Reg) (v : DWord) : (setPair s r v).nextId = s.nextId := rfl
@[simp] theorem setPair_cord (s : State) (r : Reg) (v : DWord) : (setPair s r v).cord = setCordReg (setCordReg s.cord r (DWord.lo v)) (r + 1) (DWord.hi v) := rfl
@[simp] theorem setPair_cords (s : State) (r : Reg) (v : DWord) : (setPair s r v).cords = s.cords := rfl
@[simp] theorem setPair_hostNo (s : State) (r : Reg) (v : DWord) : (setPair s r v).hostNo = s.hostNo := rfl
@[simp] theorem setPair_hosts (s : State) (r : Reg) (v : DWord) : (setPair s r v).hosts = s.hosts := rfl
@[simp] theorem setPair_hostWait (s : State) (r : Reg) (v : DWord) : (setPair s r v).hostWait = s.hostWait := rfl
@[simp] theorem setPair_hostWords (s : State) (r : Reg) (v : DWord) : (setPair s r v).hostWords = s.hostWords := rfl
@[simp] theorem setPair_mem (s : State) (r : Reg) (v : DWord) : (setPair s r v).mem = s.mem := rfl
@[simp] theorem setPair_failed (s : State) (r : Reg) (v : DWord) : (setPair s r v).failed = s.failed := rfl
@[simp] theorem setPair_leaves (s : State) (r : Reg) (v : DWord) : (setPair s r v).leaves = s.leaves := rfl
@[simp] theorem setPair_latches (s : State) (r : Reg) (v : DWord) : (setPair s r v).latches = s.latches := rfl
@[simp] theorem setPair_mostly (s : State) (r : Reg) (v : DWord) : (setPair s r v).mostly = s.mostly := rfl
@[simp] theorem setPair_oldText (s : State) (r : Reg) (v : DWord) : (setPair s r v).oldText = s.oldText := rfl
@[simp] theorem setPair_bwaits (s : State) (r : Reg) (v : DWord) : (setPair s r v).bwaits = s.bwaits := rfl
@[simp] theorem setPair_answers (s : State) (r : Reg) (v : DWord) : (setPair s r v).answers = s.answers := rfl
@[simp] theorem setPair_englines (s : State) (r : Reg) (v : DWord) : (setPair s r v).englines = s.englines := rfl
@[simp] theorem setPair_devWrites (s : State) (r : Reg) (v : DWord) : (setPair s r v).devWrites = s.devWrites := rfl
@[simp] theorem setPair_parts (s : State) (r : Reg) (v : DWord) : (setPair s r v).parts = s.parts := rfl
@[simp] theorem setPair_cores (s : State) (r : Reg) (v : DWord) : (setPair s r v).cores = s.cores := rfl
@[simp] theorem setPair_clusters (s : State) (r : Reg) (v : DWord) : (setPair s r v).clusters = s.clusters := rfl
@[simp] theorem setPair_dies (s : State) (r : Reg) (v : DWord) : (setPair s r v).dies = s.dies := rfl
@[simp] theorem setPair_quads (s : State) (r : Reg) (v : DWord) : (setPair s r v).quads = s.quads := rfl
@[simp] theorem setPair_queues (s : State) (r : Reg) (v : DWord) : (setPair s r v).queues = s.queues := rfl
@[simp] theorem setPair_launches (s : State) (r : Reg) (v : DWord) : (setPair s r v).launches = s.launches := rfl
@[simp] theorem setPair_stands (s : State) (r : Reg) (v : DWord) : (setPair s r v).stands = s.stands := rfl
@[simp] theorem setPair_held (s : State) (r : Reg) (v : DWord) : (setPair s r v).held = s.held := rfl
@[simp] theorem setPair_completions (s : State) (r : Reg) (v : DWord) : (setPair s r v).completions = s.completions := rfl
@[simp] theorem setPair_disp (s : State) (r : Reg) (v : DWord) : (setPair s r v).disp = s.disp := rfl
@[simp] theorem setPair_iommu (s : State) (r : Reg) (v : DWord) : (setPair s r v).iommu = s.iommu := rfl
@[simp] theorem setPair_almanac (s : State) (r : Reg) (v : DWord) : (setPair s r v).almanac = s.almanac := rfl
@[simp] theorem setPair_fabric (s : State) (r : Reg) (v : DWord) : (setPair s r v).fabric = s.fabric := rfl
@[simp] theorem setPair_mgmt (s : State) (r : Reg) (v : DWord) : (setPair s r v).mgmt = s.mgmt := rfl

/-! ### advance -/

@[simp] theorem advance_agenda (s : State) : (advance s).agenda = s.agenda := rfl
@[simp] theorem advance_inputs (s : State) : (advance s).inputs = s.inputs := rfl
@[simp] theorem advance_tick (s : State) : (advance s).tick = s.tick := rfl
@[simp] theorem advance_nextId (s : State) : (advance s).nextId = s.nextId := rfl
@[simp] theorem advance_cord (s : State) : (advance s).cord = { s.cord with frag := atPc (nextPc s.cord.frag) s.cord.frag } := rfl
@[simp] theorem advance_cords (s : State) : (advance s).cords = s.cords := rfl
@[simp] theorem advance_hostNo (s : State) : (advance s).hostNo = s.hostNo := rfl
@[simp] theorem advance_hosts (s : State) : (advance s).hosts = s.hosts := rfl
@[simp] theorem advance_hostWait (s : State) : (advance s).hostWait = s.hostWait := rfl
@[simp] theorem advance_hostWords (s : State) : (advance s).hostWords = s.hostWords := rfl
@[simp] theorem advance_mem (s : State) : (advance s).mem = s.mem := rfl
@[simp] theorem advance_failed (s : State) : (advance s).failed = s.failed := rfl
@[simp] theorem advance_leaves (s : State) : (advance s).leaves = s.leaves := rfl
@[simp] theorem advance_latches (s : State) : (advance s).latches = s.latches := rfl
@[simp] theorem advance_mostly (s : State) : (advance s).mostly = s.mostly := rfl
@[simp] theorem advance_oldText (s : State) : (advance s).oldText = s.oldText := rfl
@[simp] theorem advance_bwaits (s : State) : (advance s).bwaits = s.bwaits := rfl
@[simp] theorem advance_answers (s : State) : (advance s).answers = s.answers := rfl
@[simp] theorem advance_englines (s : State) : (advance s).englines = s.englines := rfl
@[simp] theorem advance_devWrites (s : State) : (advance s).devWrites = s.devWrites := rfl
@[simp] theorem advance_parts (s : State) : (advance s).parts = s.parts := rfl
@[simp] theorem advance_cores (s : State) : (advance s).cores = s.cores := rfl
@[simp] theorem advance_clusters (s : State) : (advance s).clusters = s.clusters := rfl
@[simp] theorem advance_dies (s : State) : (advance s).dies = s.dies := rfl
@[simp] theorem advance_quads (s : State) : (advance s).quads = s.quads := rfl
@[simp] theorem advance_queues (s : State) : (advance s).queues = s.queues := rfl
@[simp] theorem advance_launches (s : State) : (advance s).launches = s.launches := rfl
@[simp] theorem advance_stands (s : State) : (advance s).stands = s.stands := rfl
@[simp] theorem advance_held (s : State) : (advance s).held = s.held := rfl
@[simp] theorem advance_completions (s : State) : (advance s).completions = s.completions := rfl
@[simp] theorem advance_disp (s : State) : (advance s).disp = s.disp := rfl
@[simp] theorem advance_iommu (s : State) : (advance s).iommu = s.iommu := rfl
@[simp] theorem advance_almanac (s : State) : (advance s).almanac = s.almanac := rfl
@[simp] theorem advance_fabric (s : State) : (advance s).fabric = s.fabric := rfl
@[simp] theorem advance_mgmt (s : State) : (advance s).mgmt = s.mgmt := rfl

/-! ### jump -/

@[simp] theorem jump_agenda (s : State) (t : Word) : (jump s t).agenda = s.agenda := rfl
@[simp] theorem jump_inputs (s : State) (t : Word) : (jump s t).inputs = s.inputs := rfl
@[simp] theorem jump_tick (s : State) (t : Word) : (jump s t).tick = s.tick := rfl
@[simp] theorem jump_nextId (s : State) (t : Word) : (jump s t).nextId = s.nextId := rfl
@[simp] theorem jump_cord (s : State) (t : Word) : (jump s t).cord = { s.cord with frag := atPc t s.cord.frag } := rfl
@[simp] theorem jump_cords (s : State) (t : Word) : (jump s t).cords = s.cords := rfl
@[simp] theorem jump_hostNo (s : State) (t : Word) : (jump s t).hostNo = s.hostNo := rfl
@[simp] theorem jump_hosts (s : State) (t : Word) : (jump s t).hosts = s.hosts := rfl
@[simp] theorem jump_hostWait (s : State) (t : Word) : (jump s t).hostWait = s.hostWait := rfl
@[simp] theorem jump_hostWords (s : State) (t : Word) : (jump s t).hostWords = s.hostWords := rfl
@[simp] theorem jump_mem (s : State) (t : Word) : (jump s t).mem = s.mem := rfl
@[simp] theorem jump_failed (s : State) (t : Word) : (jump s t).failed = s.failed := rfl
@[simp] theorem jump_leaves (s : State) (t : Word) : (jump s t).leaves = s.leaves := rfl
@[simp] theorem jump_latches (s : State) (t : Word) : (jump s t).latches = s.latches := rfl
@[simp] theorem jump_mostly (s : State) (t : Word) : (jump s t).mostly = s.mostly := rfl
@[simp] theorem jump_oldText (s : State) (t : Word) : (jump s t).oldText = s.oldText := rfl
@[simp] theorem jump_bwaits (s : State) (t : Word) : (jump s t).bwaits = s.bwaits := rfl
@[simp] theorem jump_answers (s : State) (t : Word) : (jump s t).answers = s.answers := rfl
@[simp] theorem jump_englines (s : State) (t : Word) : (jump s t).englines = s.englines := rfl
@[simp] theorem jump_devWrites (s : State) (t : Word) : (jump s t).devWrites = s.devWrites := rfl
@[simp] theorem jump_parts (s : State) (t : Word) : (jump s t).parts = s.parts := rfl
@[simp] theorem jump_cores (s : State) (t : Word) : (jump s t).cores = s.cores := rfl
@[simp] theorem jump_clusters (s : State) (t : Word) : (jump s t).clusters = s.clusters := rfl
@[simp] theorem jump_dies (s : State) (t : Word) : (jump s t).dies = s.dies := rfl
@[simp] theorem jump_quads (s : State) (t : Word) : (jump s t).quads = s.quads := rfl
@[simp] theorem jump_queues (s : State) (t : Word) : (jump s t).queues = s.queues := rfl
@[simp] theorem jump_launches (s : State) (t : Word) : (jump s t).launches = s.launches := rfl
@[simp] theorem jump_stands (s : State) (t : Word) : (jump s t).stands = s.stands := rfl
@[simp] theorem jump_held (s : State) (t : Word) : (jump s t).held = s.held := rfl
@[simp] theorem jump_completions (s : State) (t : Word) : (jump s t).completions = s.completions := rfl
@[simp] theorem jump_disp (s : State) (t : Word) : (jump s t).disp = s.disp := rfl
@[simp] theorem jump_iommu (s : State) (t : Word) : (jump s t).iommu = s.iommu := rfl
@[simp] theorem jump_almanac (s : State) (t : Word) : (jump s t).almanac = s.almanac := rfl
@[simp] theorem jump_fabric (s : State) (t : Word) : (jump s t).fabric = s.fabric := rfl
@[simp] theorem jump_mgmt (s : State) (t : Word) : (jump s t).mgmt = s.mgmt := rfl

/-! ### wait -/

@[simp] theorem wait_agenda (k : Nat) (s : State) : (wait k s).agenda = s.agenda := rfl
@[simp] theorem wait_inputs (k : Nat) (s : State) : (wait k s).inputs = s.inputs := rfl
@[simp] theorem wait_tick (k : Nat) (s : State) : (wait k s).tick = s.tick := rfl
@[simp] theorem wait_nextId (k : Nat) (s : State) : (wait k s).nextId = s.nextId := rfl
@[simp] theorem wait_cord (k : Nat) (s : State) : (wait k s).cord = { s.cord with frag := { s.cord.frag with status := .waiting k } } := rfl
@[simp] theorem wait_cords (k : Nat) (s : State) : (wait k s).cords = s.cords := rfl
@[simp] theorem wait_hostNo (k : Nat) (s : State) : (wait k s).hostNo = s.hostNo := rfl
@[simp] theorem wait_hosts (k : Nat) (s : State) : (wait k s).hosts = s.hosts := rfl
@[simp] theorem wait_hostWait (k : Nat) (s : State) : (wait k s).hostWait = s.hostWait := rfl
@[simp] theorem wait_hostWords (k : Nat) (s : State) : (wait k s).hostWords = s.hostWords := rfl
@[simp] theorem wait_mem (k : Nat) (s : State) : (wait k s).mem = s.mem := rfl
@[simp] theorem wait_failed (k : Nat) (s : State) : (wait k s).failed = s.failed := rfl
@[simp] theorem wait_leaves (k : Nat) (s : State) : (wait k s).leaves = s.leaves := rfl
@[simp] theorem wait_latches (k : Nat) (s : State) : (wait k s).latches = s.latches := rfl
@[simp] theorem wait_mostly (k : Nat) (s : State) : (wait k s).mostly = s.mostly := rfl
@[simp] theorem wait_oldText (k : Nat) (s : State) : (wait k s).oldText = s.oldText := rfl
@[simp] theorem wait_bwaits (k : Nat) (s : State) : (wait k s).bwaits = s.bwaits := rfl
@[simp] theorem wait_answers (k : Nat) (s : State) : (wait k s).answers = s.answers := rfl
@[simp] theorem wait_englines (k : Nat) (s : State) : (wait k s).englines = s.englines := rfl
@[simp] theorem wait_devWrites (k : Nat) (s : State) : (wait k s).devWrites = s.devWrites := rfl
@[simp] theorem wait_parts (k : Nat) (s : State) : (wait k s).parts = s.parts := rfl
@[simp] theorem wait_cores (k : Nat) (s : State) : (wait k s).cores = s.cores := rfl
@[simp] theorem wait_clusters (k : Nat) (s : State) : (wait k s).clusters = s.clusters := rfl
@[simp] theorem wait_dies (k : Nat) (s : State) : (wait k s).dies = s.dies := rfl
@[simp] theorem wait_quads (k : Nat) (s : State) : (wait k s).quads = s.quads := rfl
@[simp] theorem wait_queues (k : Nat) (s : State) : (wait k s).queues = s.queues := rfl
@[simp] theorem wait_launches (k : Nat) (s : State) : (wait k s).launches = s.launches := rfl
@[simp] theorem wait_stands (k : Nat) (s : State) : (wait k s).stands = s.stands := rfl
@[simp] theorem wait_held (k : Nat) (s : State) : (wait k s).held = s.held := rfl
@[simp] theorem wait_completions (k : Nat) (s : State) : (wait k s).completions = s.completions := rfl
@[simp] theorem wait_disp (k : Nat) (s : State) : (wait k s).disp = s.disp := rfl
@[simp] theorem wait_iommu (k : Nat) (s : State) : (wait k s).iommu = s.iommu := rfl
@[simp] theorem wait_almanac (k : Nat) (s : State) : (wait k s).almanac = s.almanac := rfl
@[simp] theorem wait_fabric (k : Nat) (s : State) : (wait k s).fabric = s.fabric := rfl
@[simp] theorem wait_mgmt (k : Nat) (s : State) : (wait k s).mgmt = s.mgmt := rfl

/-! ### setOther -/

@[simp] theorem setOther_agenda (i : CordId) (f : Cord → Cord) (s : State) : (setOther i f s).agenda = s.agenda := rfl
@[simp] theorem setOther_inputs (i : CordId) (f : Cord → Cord) (s : State) : (setOther i f s).inputs = s.inputs := rfl
@[simp] theorem setOther_tick (i : CordId) (f : Cord → Cord) (s : State) : (setOther i f s).tick = s.tick := rfl
@[simp] theorem setOther_nextId (i : CordId) (f : Cord → Cord) (s : State) : (setOther i f s).nextId = s.nextId := rfl
@[simp] theorem setOther_cord (i : CordId) (f : Cord → Cord) (s : State) : (setOther i f s).cord = s.cord := rfl
@[simp] theorem setOther_cords (i : CordId) (f : Cord → Cord) (s : State) : (setOther i f s).cords = modifyWhere (fun c => c.id == i) f s.cords := rfl
@[simp] theorem setOther_hostNo (i : CordId) (f : Cord → Cord) (s : State) : (setOther i f s).hostNo = s.hostNo := rfl
@[simp] theorem setOther_hosts (i : CordId) (f : Cord → Cord) (s : State) : (setOther i f s).hosts = s.hosts := rfl
@[simp] theorem setOther_hostWait (i : CordId) (f : Cord → Cord) (s : State) : (setOther i f s).hostWait = s.hostWait := rfl
@[simp] theorem setOther_hostWords (i : CordId) (f : Cord → Cord) (s : State) : (setOther i f s).hostWords = s.hostWords := rfl
@[simp] theorem setOther_mem (i : CordId) (f : Cord → Cord) (s : State) : (setOther i f s).mem = s.mem := rfl
@[simp] theorem setOther_failed (i : CordId) (f : Cord → Cord) (s : State) : (setOther i f s).failed = s.failed := rfl
@[simp] theorem setOther_leaves (i : CordId) (f : Cord → Cord) (s : State) : (setOther i f s).leaves = s.leaves := rfl
@[simp] theorem setOther_latches (i : CordId) (f : Cord → Cord) (s : State) : (setOther i f s).latches = s.latches := rfl
@[simp] theorem setOther_mostly (i : CordId) (f : Cord → Cord) (s : State) : (setOther i f s).mostly = s.mostly := rfl
@[simp] theorem setOther_oldText (i : CordId) (f : Cord → Cord) (s : State) : (setOther i f s).oldText = s.oldText := rfl
@[simp] theorem setOther_bwaits (i : CordId) (f : Cord → Cord) (s : State) : (setOther i f s).bwaits = s.bwaits := rfl
@[simp] theorem setOther_answers (i : CordId) (f : Cord → Cord) (s : State) : (setOther i f s).answers = s.answers := rfl
@[simp] theorem setOther_englines (i : CordId) (f : Cord → Cord) (s : State) : (setOther i f s).englines = s.englines := rfl
@[simp] theorem setOther_devWrites (i : CordId) (f : Cord → Cord) (s : State) : (setOther i f s).devWrites = s.devWrites := rfl
@[simp] theorem setOther_parts (i : CordId) (f : Cord → Cord) (s : State) : (setOther i f s).parts = s.parts := rfl
@[simp] theorem setOther_cores (i : CordId) (f : Cord → Cord) (s : State) : (setOther i f s).cores = s.cores := rfl
@[simp] theorem setOther_clusters (i : CordId) (f : Cord → Cord) (s : State) : (setOther i f s).clusters = s.clusters := rfl
@[simp] theorem setOther_dies (i : CordId) (f : Cord → Cord) (s : State) : (setOther i f s).dies = s.dies := rfl
@[simp] theorem setOther_quads (i : CordId) (f : Cord → Cord) (s : State) : (setOther i f s).quads = s.quads := rfl
@[simp] theorem setOther_queues (i : CordId) (f : Cord → Cord) (s : State) : (setOther i f s).queues = s.queues := rfl
@[simp] theorem setOther_launches (i : CordId) (f : Cord → Cord) (s : State) : (setOther i f s).launches = s.launches := rfl
@[simp] theorem setOther_stands (i : CordId) (f : Cord → Cord) (s : State) : (setOther i f s).stands = s.stands := rfl
@[simp] theorem setOther_held (i : CordId) (f : Cord → Cord) (s : State) : (setOther i f s).held = s.held := rfl
@[simp] theorem setOther_completions (i : CordId) (f : Cord → Cord) (s : State) : (setOther i f s).completions = s.completions := rfl
@[simp] theorem setOther_disp (i : CordId) (f : Cord → Cord) (s : State) : (setOther i f s).disp = s.disp := rfl
@[simp] theorem setOther_iommu (i : CordId) (f : Cord → Cord) (s : State) : (setOther i f s).iommu = s.iommu := rfl
@[simp] theorem setOther_almanac (i : CordId) (f : Cord → Cord) (s : State) : (setOther i f s).almanac = s.almanac := rfl
@[simp] theorem setOther_fabric (i : CordId) (f : Cord → Cord) (s : State) : (setOther i f s).fabric = s.fabric := rfl
@[simp] theorem setOther_mgmt (i : CordId) (f : Cord → Cord) (s : State) : (setOther i f s).mgmt = s.mgmt := rfl

/-! ### setHost -/

@[simp] theorem setHost_agenda (f : HostCore → HostCore) (s : State) : (setHost f s).agenda = s.agenda := rfl
@[simp] theorem setHost_inputs (f : HostCore → HostCore) (s : State) : (setHost f s).inputs = s.inputs := rfl
@[simp] theorem setHost_tick (f : HostCore → HostCore) (s : State) : (setHost f s).tick = s.tick := rfl
@[simp] theorem setHost_nextId (f : HostCore → HostCore) (s : State) : (setHost f s).nextId = s.nextId := rfl
@[simp] theorem setHost_cord (f : HostCore → HostCore) (s : State) : (setHost f s).cord = s.cord := rfl
@[simp] theorem setHost_cords (f : HostCore → HostCore) (s : State) : (setHost f s).cords = s.cords := rfl
@[simp] theorem setHost_hostNo (f : HostCore → HostCore) (s : State) : (setHost f s).hostNo = s.hostNo := rfl
@[simp] theorem setHost_hosts (f : HostCore → HostCore) (s : State) : (setHost f s).hosts = s.hosts.set s.hostNo.val (f (thisHost s)) s.hostNo.isLt := rfl
@[simp] theorem setHost_hostWait (f : HostCore → HostCore) (s : State) : (setHost f s).hostWait = s.hostWait := rfl
@[simp] theorem setHost_hostWords (f : HostCore → HostCore) (s : State) : (setHost f s).hostWords = s.hostWords := rfl
@[simp] theorem setHost_mem (f : HostCore → HostCore) (s : State) : (setHost f s).mem = s.mem := rfl
@[simp] theorem setHost_failed (f : HostCore → HostCore) (s : State) : (setHost f s).failed = s.failed := rfl
@[simp] theorem setHost_leaves (f : HostCore → HostCore) (s : State) : (setHost f s).leaves = s.leaves := rfl
@[simp] theorem setHost_latches (f : HostCore → HostCore) (s : State) : (setHost f s).latches = s.latches := rfl
@[simp] theorem setHost_mostly (f : HostCore → HostCore) (s : State) : (setHost f s).mostly = s.mostly := rfl
@[simp] theorem setHost_oldText (f : HostCore → HostCore) (s : State) : (setHost f s).oldText = s.oldText := rfl
@[simp] theorem setHost_bwaits (f : HostCore → HostCore) (s : State) : (setHost f s).bwaits = s.bwaits := rfl
@[simp] theorem setHost_answers (f : HostCore → HostCore) (s : State) : (setHost f s).answers = s.answers := rfl
@[simp] theorem setHost_englines (f : HostCore → HostCore) (s : State) : (setHost f s).englines = s.englines := rfl
@[simp] theorem setHost_devWrites (f : HostCore → HostCore) (s : State) : (setHost f s).devWrites = s.devWrites := rfl
@[simp] theorem setHost_parts (f : HostCore → HostCore) (s : State) : (setHost f s).parts = s.parts := rfl
@[simp] theorem setHost_cores (f : HostCore → HostCore) (s : State) : (setHost f s).cores = s.cores := rfl
@[simp] theorem setHost_clusters (f : HostCore → HostCore) (s : State) : (setHost f s).clusters = s.clusters := rfl
@[simp] theorem setHost_dies (f : HostCore → HostCore) (s : State) : (setHost f s).dies = s.dies := rfl
@[simp] theorem setHost_quads (f : HostCore → HostCore) (s : State) : (setHost f s).quads = s.quads := rfl
@[simp] theorem setHost_queues (f : HostCore → HostCore) (s : State) : (setHost f s).queues = s.queues := rfl
@[simp] theorem setHost_launches (f : HostCore → HostCore) (s : State) : (setHost f s).launches = s.launches := rfl
@[simp] theorem setHost_stands (f : HostCore → HostCore) (s : State) : (setHost f s).stands = s.stands := rfl
@[simp] theorem setHost_held (f : HostCore → HostCore) (s : State) : (setHost f s).held = s.held := rfl
@[simp] theorem setHost_completions (f : HostCore → HostCore) (s : State) : (setHost f s).completions = s.completions := rfl
@[simp] theorem setHost_disp (f : HostCore → HostCore) (s : State) : (setHost f s).disp = s.disp := rfl
@[simp] theorem setHost_iommu (f : HostCore → HostCore) (s : State) : (setHost f s).iommu = s.iommu := rfl
@[simp] theorem setHost_almanac (f : HostCore → HostCore) (s : State) : (setHost f s).almanac = s.almanac := rfl
@[simp] theorem setHost_fabric (f : HostCore → HostCore) (s : State) : (setHost f s).fabric = s.fabric := rfl
@[simp] theorem setHost_mgmt (f : HostCore → HostCore) (s : State) : (setHost f s).mgmt = s.mgmt := rfl

/-! ### mapHosts -/

@[simp] theorem mapHosts_agenda (f : HostCore → HostCore) (s : State) : (mapHosts f s).agenda = s.agenda := rfl
@[simp] theorem mapHosts_inputs (f : HostCore → HostCore) (s : State) : (mapHosts f s).inputs = s.inputs := rfl
@[simp] theorem mapHosts_tick (f : HostCore → HostCore) (s : State) : (mapHosts f s).tick = s.tick := rfl
@[simp] theorem mapHosts_nextId (f : HostCore → HostCore) (s : State) : (mapHosts f s).nextId = s.nextId := rfl
@[simp] theorem mapHosts_cord (f : HostCore → HostCore) (s : State) : (mapHosts f s).cord = s.cord := rfl
@[simp] theorem mapHosts_cords (f : HostCore → HostCore) (s : State) : (mapHosts f s).cords = s.cords := rfl
@[simp] theorem mapHosts_hostNo (f : HostCore → HostCore) (s : State) : (mapHosts f s).hostNo = s.hostNo := rfl
@[simp] theorem mapHosts_hosts (f : HostCore → HostCore) (s : State) : (mapHosts f s).hosts = s.hosts.map f := rfl
@[simp] theorem mapHosts_hostWait (f : HostCore → HostCore) (s : State) : (mapHosts f s).hostWait = s.hostWait := rfl
@[simp] theorem mapHosts_hostWords (f : HostCore → HostCore) (s : State) : (mapHosts f s).hostWords = s.hostWords := rfl
@[simp] theorem mapHosts_mem (f : HostCore → HostCore) (s : State) : (mapHosts f s).mem = s.mem := rfl
@[simp] theorem mapHosts_failed (f : HostCore → HostCore) (s : State) : (mapHosts f s).failed = s.failed := rfl
@[simp] theorem mapHosts_leaves (f : HostCore → HostCore) (s : State) : (mapHosts f s).leaves = s.leaves := rfl
@[simp] theorem mapHosts_latches (f : HostCore → HostCore) (s : State) : (mapHosts f s).latches = s.latches := rfl
@[simp] theorem mapHosts_mostly (f : HostCore → HostCore) (s : State) : (mapHosts f s).mostly = s.mostly := rfl
@[simp] theorem mapHosts_oldText (f : HostCore → HostCore) (s : State) : (mapHosts f s).oldText = s.oldText := rfl
@[simp] theorem mapHosts_bwaits (f : HostCore → HostCore) (s : State) : (mapHosts f s).bwaits = s.bwaits := rfl
@[simp] theorem mapHosts_answers (f : HostCore → HostCore) (s : State) : (mapHosts f s).answers = s.answers := rfl
@[simp] theorem mapHosts_englines (f : HostCore → HostCore) (s : State) : (mapHosts f s).englines = s.englines := rfl
@[simp] theorem mapHosts_devWrites (f : HostCore → HostCore) (s : State) : (mapHosts f s).devWrites = s.devWrites := rfl
@[simp] theorem mapHosts_parts (f : HostCore → HostCore) (s : State) : (mapHosts f s).parts = s.parts := rfl
@[simp] theorem mapHosts_cores (f : HostCore → HostCore) (s : State) : (mapHosts f s).cores = s.cores := rfl
@[simp] theorem mapHosts_clusters (f : HostCore → HostCore) (s : State) : (mapHosts f s).clusters = s.clusters := rfl
@[simp] theorem mapHosts_dies (f : HostCore → HostCore) (s : State) : (mapHosts f s).dies = s.dies := rfl
@[simp] theorem mapHosts_quads (f : HostCore → HostCore) (s : State) : (mapHosts f s).quads = s.quads := rfl
@[simp] theorem mapHosts_queues (f : HostCore → HostCore) (s : State) : (mapHosts f s).queues = s.queues := rfl
@[simp] theorem mapHosts_launches (f : HostCore → HostCore) (s : State) : (mapHosts f s).launches = s.launches := rfl
@[simp] theorem mapHosts_stands (f : HostCore → HostCore) (s : State) : (mapHosts f s).stands = s.stands := rfl
@[simp] theorem mapHosts_held (f : HostCore → HostCore) (s : State) : (mapHosts f s).held = s.held := rfl
@[simp] theorem mapHosts_completions (f : HostCore → HostCore) (s : State) : (mapHosts f s).completions = s.completions := rfl
@[simp] theorem mapHosts_disp (f : HostCore → HostCore) (s : State) : (mapHosts f s).disp = s.disp := rfl
@[simp] theorem mapHosts_iommu (f : HostCore → HostCore) (s : State) : (mapHosts f s).iommu = s.iommu := rfl
@[simp] theorem mapHosts_almanac (f : HostCore → HostCore) (s : State) : (mapHosts f s).almanac = s.almanac := rfl
@[simp] theorem mapHosts_fabric (f : HostCore → HostCore) (s : State) : (mapHosts f s).fabric = s.fabric := rfl
@[simp] theorem mapHosts_mgmt (f : HostCore → HostCore) (s : State) : (mapHosts f s).mgmt = s.mgmt := rfl

/-! ### setFabric -/

@[simp] theorem setFabric_agenda (f : Fabric → Fabric) (s : State) : (setFabric f s).agenda = s.agenda := rfl
@[simp] theorem setFabric_inputs (f : Fabric → Fabric) (s : State) : (setFabric f s).inputs = s.inputs := rfl
@[simp] theorem setFabric_tick (f : Fabric → Fabric) (s : State) : (setFabric f s).tick = s.tick := rfl
@[simp] theorem setFabric_nextId (f : Fabric → Fabric) (s : State) : (setFabric f s).nextId = s.nextId := rfl
@[simp] theorem setFabric_cord (f : Fabric → Fabric) (s : State) : (setFabric f s).cord = s.cord := rfl
@[simp] theorem setFabric_cords (f : Fabric → Fabric) (s : State) : (setFabric f s).cords = s.cords := rfl
@[simp] theorem setFabric_hostNo (f : Fabric → Fabric) (s : State) : (setFabric f s).hostNo = s.hostNo := rfl
@[simp] theorem setFabric_hosts (f : Fabric → Fabric) (s : State) : (setFabric f s).hosts = s.hosts := rfl
@[simp] theorem setFabric_hostWait (f : Fabric → Fabric) (s : State) : (setFabric f s).hostWait = s.hostWait := rfl
@[simp] theorem setFabric_hostWords (f : Fabric → Fabric) (s : State) : (setFabric f s).hostWords = s.hostWords := rfl
@[simp] theorem setFabric_mem (f : Fabric → Fabric) (s : State) : (setFabric f s).mem = s.mem := rfl
@[simp] theorem setFabric_failed (f : Fabric → Fabric) (s : State) : (setFabric f s).failed = s.failed := rfl
@[simp] theorem setFabric_leaves (f : Fabric → Fabric) (s : State) : (setFabric f s).leaves = s.leaves := rfl
@[simp] theorem setFabric_latches (f : Fabric → Fabric) (s : State) : (setFabric f s).latches = s.latches := rfl
@[simp] theorem setFabric_mostly (f : Fabric → Fabric) (s : State) : (setFabric f s).mostly = s.mostly := rfl
@[simp] theorem setFabric_oldText (f : Fabric → Fabric) (s : State) : (setFabric f s).oldText = s.oldText := rfl
@[simp] theorem setFabric_bwaits (f : Fabric → Fabric) (s : State) : (setFabric f s).bwaits = s.bwaits := rfl
@[simp] theorem setFabric_answers (f : Fabric → Fabric) (s : State) : (setFabric f s).answers = s.answers := rfl
@[simp] theorem setFabric_englines (f : Fabric → Fabric) (s : State) : (setFabric f s).englines = s.englines := rfl
@[simp] theorem setFabric_devWrites (f : Fabric → Fabric) (s : State) : (setFabric f s).devWrites = s.devWrites := rfl
@[simp] theorem setFabric_parts (f : Fabric → Fabric) (s : State) : (setFabric f s).parts = s.parts := rfl
@[simp] theorem setFabric_cores (f : Fabric → Fabric) (s : State) : (setFabric f s).cores = s.cores := rfl
@[simp] theorem setFabric_clusters (f : Fabric → Fabric) (s : State) : (setFabric f s).clusters = s.clusters := rfl
@[simp] theorem setFabric_dies (f : Fabric → Fabric) (s : State) : (setFabric f s).dies = s.dies := rfl
@[simp] theorem setFabric_quads (f : Fabric → Fabric) (s : State) : (setFabric f s).quads = s.quads := rfl
@[simp] theorem setFabric_queues (f : Fabric → Fabric) (s : State) : (setFabric f s).queues = s.queues := rfl
@[simp] theorem setFabric_launches (f : Fabric → Fabric) (s : State) : (setFabric f s).launches = s.launches := rfl
@[simp] theorem setFabric_stands (f : Fabric → Fabric) (s : State) : (setFabric f s).stands = s.stands := rfl
@[simp] theorem setFabric_held (f : Fabric → Fabric) (s : State) : (setFabric f s).held = s.held := rfl
@[simp] theorem setFabric_completions (f : Fabric → Fabric) (s : State) : (setFabric f s).completions = s.completions := rfl
@[simp] theorem setFabric_disp (f : Fabric → Fabric) (s : State) : (setFabric f s).disp = s.disp := rfl
@[simp] theorem setFabric_iommu (f : Fabric → Fabric) (s : State) : (setFabric f s).iommu = s.iommu := rfl
@[simp] theorem setFabric_almanac (f : Fabric → Fabric) (s : State) : (setFabric f s).almanac = s.almanac := rfl
@[simp] theorem setFabric_fabric (f : Fabric → Fabric) (s : State) : (setFabric f s).fabric = f s.fabric := rfl
@[simp] theorem setFabric_mgmt (f : Fabric → Fabric) (s : State) : (setFabric f s).mgmt = s.mgmt := rfl

/-! ### setLaunch -/

@[simp] theorem setLaunch_agenda (q : QueueNo) (n : Nat) (f : Launch → Launch) (s : State) : (setLaunch q n f s).agenda = s.agenda := rfl
@[simp] theorem setLaunch_inputs (q : QueueNo) (n : Nat) (f : Launch → Launch) (s : State) : (setLaunch q n f s).inputs = s.inputs := rfl
@[simp] theorem setLaunch_tick (q : QueueNo) (n : Nat) (f : Launch → Launch) (s : State) : (setLaunch q n f s).tick = s.tick := rfl
@[simp] theorem setLaunch_nextId (q : QueueNo) (n : Nat) (f : Launch → Launch) (s : State) : (setLaunch q n f s).nextId = s.nextId := rfl
@[simp] theorem setLaunch_cord (q : QueueNo) (n : Nat) (f : Launch → Launch) (s : State) : (setLaunch q n f s).cord = s.cord := rfl
@[simp] theorem setLaunch_cords (q : QueueNo) (n : Nat) (f : Launch → Launch) (s : State) : (setLaunch q n f s).cords = s.cords := rfl
@[simp] theorem setLaunch_hostNo (q : QueueNo) (n : Nat) (f : Launch → Launch) (s : State) : (setLaunch q n f s).hostNo = s.hostNo := rfl
@[simp] theorem setLaunch_hosts (q : QueueNo) (n : Nat) (f : Launch → Launch) (s : State) : (setLaunch q n f s).hosts = s.hosts := rfl
@[simp] theorem setLaunch_hostWait (q : QueueNo) (n : Nat) (f : Launch → Launch) (s : State) : (setLaunch q n f s).hostWait = s.hostWait := rfl
@[simp] theorem setLaunch_hostWords (q : QueueNo) (n : Nat) (f : Launch → Launch) (s : State) : (setLaunch q n f s).hostWords = s.hostWords := rfl
@[simp] theorem setLaunch_mem (q : QueueNo) (n : Nat) (f : Launch → Launch) (s : State) : (setLaunch q n f s).mem = s.mem := rfl
@[simp] theorem setLaunch_failed (q : QueueNo) (n : Nat) (f : Launch → Launch) (s : State) : (setLaunch q n f s).failed = s.failed := rfl
@[simp] theorem setLaunch_leaves (q : QueueNo) (n : Nat) (f : Launch → Launch) (s : State) : (setLaunch q n f s).leaves = s.leaves := rfl
@[simp] theorem setLaunch_latches (q : QueueNo) (n : Nat) (f : Launch → Launch) (s : State) : (setLaunch q n f s).latches = s.latches := rfl
@[simp] theorem setLaunch_mostly (q : QueueNo) (n : Nat) (f : Launch → Launch) (s : State) : (setLaunch q n f s).mostly = s.mostly := rfl
@[simp] theorem setLaunch_oldText (q : QueueNo) (n : Nat) (f : Launch → Launch) (s : State) : (setLaunch q n f s).oldText = s.oldText := rfl
@[simp] theorem setLaunch_bwaits (q : QueueNo) (n : Nat) (f : Launch → Launch) (s : State) : (setLaunch q n f s).bwaits = s.bwaits := rfl
@[simp] theorem setLaunch_answers (q : QueueNo) (n : Nat) (f : Launch → Launch) (s : State) : (setLaunch q n f s).answers = s.answers := rfl
@[simp] theorem setLaunch_englines (q : QueueNo) (n : Nat) (f : Launch → Launch) (s : State) : (setLaunch q n f s).englines = s.englines := rfl
@[simp] theorem setLaunch_devWrites (q : QueueNo) (n : Nat) (f : Launch → Launch) (s : State) : (setLaunch q n f s).devWrites = s.devWrites := rfl
@[simp] theorem setLaunch_parts (q : QueueNo) (n : Nat) (f : Launch → Launch) (s : State) : (setLaunch q n f s).parts = s.parts := rfl
@[simp] theorem setLaunch_cores (q : QueueNo) (n : Nat) (f : Launch → Launch) (s : State) : (setLaunch q n f s).cores = s.cores := rfl
@[simp] theorem setLaunch_clusters (q : QueueNo) (n : Nat) (f : Launch → Launch) (s : State) : (setLaunch q n f s).clusters = s.clusters := rfl
@[simp] theorem setLaunch_dies (q : QueueNo) (n : Nat) (f : Launch → Launch) (s : State) : (setLaunch q n f s).dies = s.dies := rfl
@[simp] theorem setLaunch_quads (q : QueueNo) (n : Nat) (f : Launch → Launch) (s : State) : (setLaunch q n f s).quads = s.quads := rfl
@[simp] theorem setLaunch_queues (q : QueueNo) (n : Nat) (f : Launch → Launch) (s : State) : (setLaunch q n f s).queues = s.queues := rfl
@[simp] theorem setLaunch_launches (q : QueueNo) (n : Nat) (f : Launch → Launch) (s : State) : (setLaunch q n f s).launches = modifyWhere (fun l => l.queue == q && l.seq == n) f s.launches := rfl
@[simp] theorem setLaunch_stands (q : QueueNo) (n : Nat) (f : Launch → Launch) (s : State) : (setLaunch q n f s).stands = s.stands := rfl
@[simp] theorem setLaunch_held (q : QueueNo) (n : Nat) (f : Launch → Launch) (s : State) : (setLaunch q n f s).held = s.held := rfl
@[simp] theorem setLaunch_completions (q : QueueNo) (n : Nat) (f : Launch → Launch) (s : State) : (setLaunch q n f s).completions = s.completions := rfl
@[simp] theorem setLaunch_disp (q : QueueNo) (n : Nat) (f : Launch → Launch) (s : State) : (setLaunch q n f s).disp = s.disp := rfl
@[simp] theorem setLaunch_iommu (q : QueueNo) (n : Nat) (f : Launch → Launch) (s : State) : (setLaunch q n f s).iommu = s.iommu := rfl
@[simp] theorem setLaunch_almanac (q : QueueNo) (n : Nat) (f : Launch → Launch) (s : State) : (setLaunch q n f s).almanac = s.almanac := rfl
@[simp] theorem setLaunch_fabric (q : QueueNo) (n : Nat) (f : Launch → Launch) (s : State) : (setLaunch q n f s).fabric = s.fabric := rfl
@[simp] theorem setLaunch_mgmt (q : QueueNo) (n : Nat) (f : Launch → Launch) (s : State) : (setLaunch q n f s).mgmt = s.mgmt := rfl

/-! ### setQueue -/

@[simp] theorem setQueue_agenda (q : QueueNo) (f : Queue → Queue) (s : State) : (setQueue q f s).agenda = s.agenda := rfl
@[simp] theorem setQueue_inputs (q : QueueNo) (f : Queue → Queue) (s : State) : (setQueue q f s).inputs = s.inputs := rfl
@[simp] theorem setQueue_tick (q : QueueNo) (f : Queue → Queue) (s : State) : (setQueue q f s).tick = s.tick := rfl
@[simp] theorem setQueue_nextId (q : QueueNo) (f : Queue → Queue) (s : State) : (setQueue q f s).nextId = s.nextId := rfl
@[simp] theorem setQueue_cord (q : QueueNo) (f : Queue → Queue) (s : State) : (setQueue q f s).cord = s.cord := rfl
@[simp] theorem setQueue_cords (q : QueueNo) (f : Queue → Queue) (s : State) : (setQueue q f s).cords = s.cords := rfl
@[simp] theorem setQueue_hostNo (q : QueueNo) (f : Queue → Queue) (s : State) : (setQueue q f s).hostNo = s.hostNo := rfl
@[simp] theorem setQueue_hosts (q : QueueNo) (f : Queue → Queue) (s : State) : (setQueue q f s).hosts = s.hosts := rfl
@[simp] theorem setQueue_hostWait (q : QueueNo) (f : Queue → Queue) (s : State) : (setQueue q f s).hostWait = s.hostWait := rfl
@[simp] theorem setQueue_hostWords (q : QueueNo) (f : Queue → Queue) (s : State) : (setQueue q f s).hostWords = s.hostWords := rfl
@[simp] theorem setQueue_mem (q : QueueNo) (f : Queue → Queue) (s : State) : (setQueue q f s).mem = s.mem := rfl
@[simp] theorem setQueue_failed (q : QueueNo) (f : Queue → Queue) (s : State) : (setQueue q f s).failed = s.failed := rfl
@[simp] theorem setQueue_leaves (q : QueueNo) (f : Queue → Queue) (s : State) : (setQueue q f s).leaves = s.leaves := rfl
@[simp] theorem setQueue_latches (q : QueueNo) (f : Queue → Queue) (s : State) : (setQueue q f s).latches = s.latches := rfl
@[simp] theorem setQueue_mostly (q : QueueNo) (f : Queue → Queue) (s : State) : (setQueue q f s).mostly = s.mostly := rfl
@[simp] theorem setQueue_oldText (q : QueueNo) (f : Queue → Queue) (s : State) : (setQueue q f s).oldText = s.oldText := rfl
@[simp] theorem setQueue_bwaits (q : QueueNo) (f : Queue → Queue) (s : State) : (setQueue q f s).bwaits = s.bwaits := rfl
@[simp] theorem setQueue_answers (q : QueueNo) (f : Queue → Queue) (s : State) : (setQueue q f s).answers = s.answers := rfl
@[simp] theorem setQueue_englines (q : QueueNo) (f : Queue → Queue) (s : State) : (setQueue q f s).englines = s.englines := rfl
@[simp] theorem setQueue_devWrites (q : QueueNo) (f : Queue → Queue) (s : State) : (setQueue q f s).devWrites = s.devWrites := rfl
@[simp] theorem setQueue_parts (q : QueueNo) (f : Queue → Queue) (s : State) : (setQueue q f s).parts = s.parts := rfl
@[simp] theorem setQueue_cores (q : QueueNo) (f : Queue → Queue) (s : State) : (setQueue q f s).cores = s.cores := rfl
@[simp] theorem setQueue_clusters (q : QueueNo) (f : Queue → Queue) (s : State) : (setQueue q f s).clusters = s.clusters := rfl
@[simp] theorem setQueue_dies (q : QueueNo) (f : Queue → Queue) (s : State) : (setQueue q f s).dies = s.dies := rfl
@[simp] theorem setQueue_quads (q : QueueNo) (f : Queue → Queue) (s : State) : (setQueue q f s).quads = s.quads := rfl
@[simp] theorem setQueue_queues (q : QueueNo) (f : Queue → Queue) (s : State) : (setQueue q f s).queues = modifyWhere (fun x => x.live && x.num == q) f s.queues := rfl
@[simp] theorem setQueue_launches (q : QueueNo) (f : Queue → Queue) (s : State) : (setQueue q f s).launches = s.launches := rfl
@[simp] theorem setQueue_stands (q : QueueNo) (f : Queue → Queue) (s : State) : (setQueue q f s).stands = s.stands := rfl
@[simp] theorem setQueue_held (q : QueueNo) (f : Queue → Queue) (s : State) : (setQueue q f s).held = s.held := rfl
@[simp] theorem setQueue_completions (q : QueueNo) (f : Queue → Queue) (s : State) : (setQueue q f s).completions = s.completions := rfl
@[simp] theorem setQueue_disp (q : QueueNo) (f : Queue → Queue) (s : State) : (setQueue q f s).disp = s.disp := rfl
@[simp] theorem setQueue_iommu (q : QueueNo) (f : Queue → Queue) (s : State) : (setQueue q f s).iommu = s.iommu := rfl
@[simp] theorem setQueue_almanac (q : QueueNo) (f : Queue → Queue) (s : State) : (setQueue q f s).almanac = s.almanac := rfl
@[simp] theorem setQueue_fabric (q : QueueNo) (f : Queue → Queue) (s : State) : (setQueue q f s).fabric = s.fabric := rfl
@[simp] theorem setQueue_mgmt (q : QueueNo) (f : Queue → Queue) (s : State) : (setQueue q f s).mgmt = s.mgmt := rfl

/-! ### setStand -/

@[simp] theorem setStand_agenda (k : StandKey) (f : Stand → Stand) (s : State) : (setStand k f s).agenda = s.agenda := rfl
@[simp] theorem setStand_inputs (k : StandKey) (f : Stand → Stand) (s : State) : (setStand k f s).inputs = s.inputs := rfl
@[simp] theorem setStand_tick (k : StandKey) (f : Stand → Stand) (s : State) : (setStand k f s).tick = s.tick := rfl
@[simp] theorem setStand_nextId (k : StandKey) (f : Stand → Stand) (s : State) : (setStand k f s).nextId = s.nextId := rfl
@[simp] theorem setStand_cord (k : StandKey) (f : Stand → Stand) (s : State) : (setStand k f s).cord = s.cord := rfl
@[simp] theorem setStand_cords (k : StandKey) (f : Stand → Stand) (s : State) : (setStand k f s).cords = s.cords := rfl
@[simp] theorem setStand_hostNo (k : StandKey) (f : Stand → Stand) (s : State) : (setStand k f s).hostNo = s.hostNo := rfl
@[simp] theorem setStand_hosts (k : StandKey) (f : Stand → Stand) (s : State) : (setStand k f s).hosts = s.hosts := rfl
@[simp] theorem setStand_hostWait (k : StandKey) (f : Stand → Stand) (s : State) : (setStand k f s).hostWait = s.hostWait := rfl
@[simp] theorem setStand_hostWords (k : StandKey) (f : Stand → Stand) (s : State) : (setStand k f s).hostWords = s.hostWords := rfl
@[simp] theorem setStand_mem (k : StandKey) (f : Stand → Stand) (s : State) : (setStand k f s).mem = s.mem := rfl
@[simp] theorem setStand_failed (k : StandKey) (f : Stand → Stand) (s : State) : (setStand k f s).failed = s.failed := rfl
@[simp] theorem setStand_leaves (k : StandKey) (f : Stand → Stand) (s : State) : (setStand k f s).leaves = s.leaves := rfl
@[simp] theorem setStand_latches (k : StandKey) (f : Stand → Stand) (s : State) : (setStand k f s).latches = s.latches := rfl
@[simp] theorem setStand_mostly (k : StandKey) (f : Stand → Stand) (s : State) : (setStand k f s).mostly = s.mostly := rfl
@[simp] theorem setStand_oldText (k : StandKey) (f : Stand → Stand) (s : State) : (setStand k f s).oldText = s.oldText := rfl
@[simp] theorem setStand_bwaits (k : StandKey) (f : Stand → Stand) (s : State) : (setStand k f s).bwaits = s.bwaits := rfl
@[simp] theorem setStand_answers (k : StandKey) (f : Stand → Stand) (s : State) : (setStand k f s).answers = s.answers := rfl
@[simp] theorem setStand_englines (k : StandKey) (f : Stand → Stand) (s : State) : (setStand k f s).englines = s.englines := rfl
@[simp] theorem setStand_devWrites (k : StandKey) (f : Stand → Stand) (s : State) : (setStand k f s).devWrites = s.devWrites := rfl
@[simp] theorem setStand_parts (k : StandKey) (f : Stand → Stand) (s : State) : (setStand k f s).parts = s.parts := rfl
@[simp] theorem setStand_cores (k : StandKey) (f : Stand → Stand) (s : State) : (setStand k f s).cores = s.cores := rfl
@[simp] theorem setStand_clusters (k : StandKey) (f : Stand → Stand) (s : State) : (setStand k f s).clusters = s.clusters := rfl
@[simp] theorem setStand_dies (k : StandKey) (f : Stand → Stand) (s : State) : (setStand k f s).dies = s.dies := rfl
@[simp] theorem setStand_quads (k : StandKey) (f : Stand → Stand) (s : State) : (setStand k f s).quads = s.quads := rfl
@[simp] theorem setStand_queues (k : StandKey) (f : Stand → Stand) (s : State) : (setStand k f s).queues = s.queues := rfl
@[simp] theorem setStand_launches (k : StandKey) (f : Stand → Stand) (s : State) : (setStand k f s).launches = s.launches := rfl
@[simp] theorem setStand_stands (k : StandKey) (f : Stand → Stand) (s : State) : (setStand k f s).stands = modifyWhere (fun x => x.key == k) f s.stands := rfl
@[simp] theorem setStand_held (k : StandKey) (f : Stand → Stand) (s : State) : (setStand k f s).held = s.held := rfl
@[simp] theorem setStand_completions (k : StandKey) (f : Stand → Stand) (s : State) : (setStand k f s).completions = s.completions := rfl
@[simp] theorem setStand_disp (k : StandKey) (f : Stand → Stand) (s : State) : (setStand k f s).disp = s.disp := rfl
@[simp] theorem setStand_iommu (k : StandKey) (f : Stand → Stand) (s : State) : (setStand k f s).iommu = s.iommu := rfl
@[simp] theorem setStand_almanac (k : StandKey) (f : Stand → Stand) (s : State) : (setStand k f s).almanac = s.almanac := rfl
@[simp] theorem setStand_fabric (k : StandKey) (f : Stand → Stand) (s : State) : (setStand k f s).fabric = s.fabric := rfl
@[simp] theorem setStand_mgmt (k : StandKey) (f : Stand → Stand) (s : State) : (setStand k f s).mgmt = s.mgmt := rfl

/-! ### addMark -/

@[simp] theorem addMark_agenda (m : EngLine) (s : State) : (addMark m s).agenda = s.agenda := rfl
@[simp] theorem addMark_inputs (m : EngLine) (s : State) : (addMark m s).inputs = s.inputs := rfl
@[simp] theorem addMark_tick (m : EngLine) (s : State) : (addMark m s).tick = s.tick := rfl
@[simp] theorem addMark_nextId (m : EngLine) (s : State) : (addMark m s).nextId = s.nextId := rfl
@[simp] theorem addMark_cord (m : EngLine) (s : State) : (addMark m s).cord = s.cord := rfl
@[simp] theorem addMark_cords (m : EngLine) (s : State) : (addMark m s).cords = s.cords := rfl
@[simp] theorem addMark_hostNo (m : EngLine) (s : State) : (addMark m s).hostNo = s.hostNo := rfl
@[simp] theorem addMark_hosts (m : EngLine) (s : State) : (addMark m s).hosts = s.hosts := rfl
@[simp] theorem addMark_hostWait (m : EngLine) (s : State) : (addMark m s).hostWait = s.hostWait := rfl
@[simp] theorem addMark_hostWords (m : EngLine) (s : State) : (addMark m s).hostWords = s.hostWords := rfl
@[simp] theorem addMark_mem (m : EngLine) (s : State) : (addMark m s).mem = s.mem := rfl
@[simp] theorem addMark_failed (m : EngLine) (s : State) : (addMark m s).failed = s.failed := rfl
@[simp] theorem addMark_leaves (m : EngLine) (s : State) : (addMark m s).leaves = s.leaves := rfl
@[simp] theorem addMark_latches (m : EngLine) (s : State) : (addMark m s).latches = s.latches := rfl
@[simp] theorem addMark_mostly (m : EngLine) (s : State) : (addMark m s).mostly = s.mostly := rfl
@[simp] theorem addMark_oldText (m : EngLine) (s : State) : (addMark m s).oldText = s.oldText := rfl
@[simp] theorem addMark_bwaits (m : EngLine) (s : State) : (addMark m s).bwaits = s.bwaits := rfl
@[simp] theorem addMark_answers (m : EngLine) (s : State) : (addMark m s).answers = s.answers := rfl
@[simp] theorem addMark_englines (m : EngLine) (s : State) : (addMark m s).englines = s.englines ++ [m] := rfl
@[simp] theorem addMark_devWrites (m : EngLine) (s : State) : (addMark m s).devWrites = s.devWrites := rfl
@[simp] theorem addMark_parts (m : EngLine) (s : State) : (addMark m s).parts = s.parts := rfl
@[simp] theorem addMark_cores (m : EngLine) (s : State) : (addMark m s).cores = s.cores := rfl
@[simp] theorem addMark_clusters (m : EngLine) (s : State) : (addMark m s).clusters = s.clusters := rfl
@[simp] theorem addMark_dies (m : EngLine) (s : State) : (addMark m s).dies = s.dies := rfl
@[simp] theorem addMark_quads (m : EngLine) (s : State) : (addMark m s).quads = s.quads := rfl
@[simp] theorem addMark_queues (m : EngLine) (s : State) : (addMark m s).queues = s.queues := rfl
@[simp] theorem addMark_launches (m : EngLine) (s : State) : (addMark m s).launches = s.launches := rfl
@[simp] theorem addMark_stands (m : EngLine) (s : State) : (addMark m s).stands = s.stands := rfl
@[simp] theorem addMark_held (m : EngLine) (s : State) : (addMark m s).held = s.held := rfl
@[simp] theorem addMark_completions (m : EngLine) (s : State) : (addMark m s).completions = s.completions := rfl
@[simp] theorem addMark_disp (m : EngLine) (s : State) : (addMark m s).disp = s.disp := rfl
@[simp] theorem addMark_iommu (m : EngLine) (s : State) : (addMark m s).iommu = s.iommu := rfl
@[simp] theorem addMark_almanac (m : EngLine) (s : State) : (addMark m s).almanac = s.almanac := rfl
@[simp] theorem addMark_fabric (m : EngLine) (s : State) : (addMark m s).fabric = s.fabric := rfl
@[simp] theorem addMark_mgmt (m : EngLine) (s : State) : (addMark m s).mgmt = s.mgmt := rfl

/-! ### clearMarks -/

@[simp] theorem clearMarks_agenda (i : Nat) (s : State) : (clearMarks i s).agenda = s.agenda := rfl
@[simp] theorem clearMarks_inputs (i : Nat) (s : State) : (clearMarks i s).inputs = s.inputs := rfl
@[simp] theorem clearMarks_tick (i : Nat) (s : State) : (clearMarks i s).tick = s.tick := rfl
@[simp] theorem clearMarks_nextId (i : Nat) (s : State) : (clearMarks i s).nextId = s.nextId := rfl
@[simp] theorem clearMarks_cord (i : Nat) (s : State) : (clearMarks i s).cord = s.cord := rfl
@[simp] theorem clearMarks_cords (i : Nat) (s : State) : (clearMarks i s).cords = s.cords := rfl
@[simp] theorem clearMarks_hostNo (i : Nat) (s : State) : (clearMarks i s).hostNo = s.hostNo := rfl
@[simp] theorem clearMarks_hosts (i : Nat) (s : State) : (clearMarks i s).hosts = s.hosts := rfl
@[simp] theorem clearMarks_hostWait (i : Nat) (s : State) : (clearMarks i s).hostWait = s.hostWait := rfl
@[simp] theorem clearMarks_hostWords (i : Nat) (s : State) : (clearMarks i s).hostWords = s.hostWords := rfl
@[simp] theorem clearMarks_mem (i : Nat) (s : State) : (clearMarks i s).mem = s.mem := rfl
@[simp] theorem clearMarks_failed (i : Nat) (s : State) : (clearMarks i s).failed = s.failed := rfl
@[simp] theorem clearMarks_leaves (i : Nat) (s : State) : (clearMarks i s).leaves = s.leaves := rfl
@[simp] theorem clearMarks_latches (i : Nat) (s : State) : (clearMarks i s).latches = s.latches := rfl
@[simp] theorem clearMarks_mostly (i : Nat) (s : State) : (clearMarks i s).mostly = s.mostly := rfl
@[simp] theorem clearMarks_oldText (i : Nat) (s : State) : (clearMarks i s).oldText = s.oldText := rfl
@[simp] theorem clearMarks_bwaits (i : Nat) (s : State) : (clearMarks i s).bwaits = s.bwaits := rfl
@[simp] theorem clearMarks_answers (i : Nat) (s : State) : (clearMarks i s).answers = s.answers := rfl
@[simp] theorem clearMarks_englines (i : Nat) (s : State) : (clearMarks i s).englines = s.englines.filter (fun x => x.id != i) := rfl
@[simp] theorem clearMarks_devWrites (i : Nat) (s : State) : (clearMarks i s).devWrites = s.devWrites := rfl
@[simp] theorem clearMarks_parts (i : Nat) (s : State) : (clearMarks i s).parts = s.parts := rfl
@[simp] theorem clearMarks_cores (i : Nat) (s : State) : (clearMarks i s).cores = s.cores := rfl
@[simp] theorem clearMarks_clusters (i : Nat) (s : State) : (clearMarks i s).clusters = s.clusters := rfl
@[simp] theorem clearMarks_dies (i : Nat) (s : State) : (clearMarks i s).dies = s.dies := rfl
@[simp] theorem clearMarks_quads (i : Nat) (s : State) : (clearMarks i s).quads = s.quads := rfl
@[simp] theorem clearMarks_queues (i : Nat) (s : State) : (clearMarks i s).queues = s.queues := rfl
@[simp] theorem clearMarks_launches (i : Nat) (s : State) : (clearMarks i s).launches = s.launches := rfl
@[simp] theorem clearMarks_stands (i : Nat) (s : State) : (clearMarks i s).stands = s.stands := rfl
@[simp] theorem clearMarks_held (i : Nat) (s : State) : (clearMarks i s).held = s.held := rfl
@[simp] theorem clearMarks_completions (i : Nat) (s : State) : (clearMarks i s).completions = s.completions := rfl
@[simp] theorem clearMarks_disp (i : Nat) (s : State) : (clearMarks i s).disp = s.disp := rfl
@[simp] theorem clearMarks_iommu (i : Nat) (s : State) : (clearMarks i s).iommu = s.iommu := rfl
@[simp] theorem clearMarks_almanac (i : Nat) (s : State) : (clearMarks i s).almanac = s.almanac := rfl
@[simp] theorem clearMarks_fabric (i : Nat) (s : State) : (clearMarks i s).fabric = s.fabric := rfl
@[simp] theorem clearMarks_mgmt (i : Nat) (s : State) : (clearMarks i s).mgmt = s.mgmt := rfl

/-! ### selectHost -/

@[simp] theorem selectHost_agenda (h : HostNo) (s : State) : (selectHost h s).agenda = s.agenda := rfl
@[simp] theorem selectHost_inputs (h : HostNo) (s : State) : (selectHost h s).inputs = s.inputs := rfl
@[simp] theorem selectHost_tick (h : HostNo) (s : State) : (selectHost h s).tick = s.tick := rfl
@[simp] theorem selectHost_nextId (h : HostNo) (s : State) : (selectHost h s).nextId = s.nextId := rfl
@[simp] theorem selectHost_cord (h : HostNo) (s : State) : (selectHost h s).cord = s.cord := rfl
@[simp] theorem selectHost_cords (h : HostNo) (s : State) : (selectHost h s).cords = s.cords := rfl
@[simp] theorem selectHost_hostNo (h : HostNo) (s : State) : (selectHost h s).hostNo = h := rfl
@[simp] theorem selectHost_hosts (h : HostNo) (s : State) : (selectHost h s).hosts = s.hosts := rfl
@[simp] theorem selectHost_hostWait (h : HostNo) (s : State) : (selectHost h s).hostWait = s.hostWait := rfl
@[simp] theorem selectHost_hostWords (h : HostNo) (s : State) : (selectHost h s).hostWords = s.hostWords := rfl
@[simp] theorem selectHost_mem (h : HostNo) (s : State) : (selectHost h s).mem = s.mem := rfl
@[simp] theorem selectHost_failed (h : HostNo) (s : State) : (selectHost h s).failed = s.failed := rfl
@[simp] theorem selectHost_leaves (h : HostNo) (s : State) : (selectHost h s).leaves = s.leaves := rfl
@[simp] theorem selectHost_latches (h : HostNo) (s : State) : (selectHost h s).latches = s.latches := rfl
@[simp] theorem selectHost_mostly (h : HostNo) (s : State) : (selectHost h s).mostly = s.mostly := rfl
@[simp] theorem selectHost_oldText (h : HostNo) (s : State) : (selectHost h s).oldText = s.oldText := rfl
@[simp] theorem selectHost_bwaits (h : HostNo) (s : State) : (selectHost h s).bwaits = s.bwaits := rfl
@[simp] theorem selectHost_answers (h : HostNo) (s : State) : (selectHost h s).answers = s.answers := rfl
@[simp] theorem selectHost_englines (h : HostNo) (s : State) : (selectHost h s).englines = s.englines := rfl
@[simp] theorem selectHost_devWrites (h : HostNo) (s : State) : (selectHost h s).devWrites = s.devWrites := rfl
@[simp] theorem selectHost_parts (h : HostNo) (s : State) : (selectHost h s).parts = s.parts := rfl
@[simp] theorem selectHost_cores (h : HostNo) (s : State) : (selectHost h s).cores = s.cores := rfl
@[simp] theorem selectHost_clusters (h : HostNo) (s : State) : (selectHost h s).clusters = s.clusters := rfl
@[simp] theorem selectHost_dies (h : HostNo) (s : State) : (selectHost h s).dies = s.dies := rfl
@[simp] theorem selectHost_quads (h : HostNo) (s : State) : (selectHost h s).quads = s.quads := rfl
@[simp] theorem selectHost_queues (h : HostNo) (s : State) : (selectHost h s).queues = s.queues := rfl
@[simp] theorem selectHost_launches (h : HostNo) (s : State) : (selectHost h s).launches = s.launches := rfl
@[simp] theorem selectHost_stands (h : HostNo) (s : State) : (selectHost h s).stands = s.stands := rfl
@[simp] theorem selectHost_held (h : HostNo) (s : State) : (selectHost h s).held = s.held := rfl
@[simp] theorem selectHost_completions (h : HostNo) (s : State) : (selectHost h s).completions = s.completions := rfl
@[simp] theorem selectHost_disp (h : HostNo) (s : State) : (selectHost h s).disp = s.disp := rfl
@[simp] theorem selectHost_iommu (h : HostNo) (s : State) : (selectHost h s).iommu = s.iommu := rfl
@[simp] theorem selectHost_almanac (h : HostNo) (s : State) : (selectHost h s).almanac = s.almanac := rfl
@[simp] theorem selectHost_fabric (h : HostNo) (s : State) : (selectHost h s).fabric = s.fabric := rfl
@[simp] theorem selectHost_mgmt (h : HostNo) (s : State) : (selectHost h s).mgmt = s.mgmt := rfl

/-- What each step of a fold keeps, the fold keeps. -/
theorem foldl_keeps {α β : Type} (g : State → β) (f : State → α → State) (xs : List α) (s : State) (h : ∀ s x, g (f s x) = g s) : g (xs.foldl f s) = g s := by
  induction xs generalizing s with
  | nil => rfl
  | cons x xs ih => rw [List.foldl_cons, ih, h]

/-! ### wakeLine, wakeLines and putMem -/

@[simp] theorem wakeLine_agenda (a : Nat) (s : State) : (wakeLine a s).agenda = s.agenda := by unfold wakeLine; split <;> rfl
@[simp] theorem wakeLine_inputs (a : Nat) (s : State) : (wakeLine a s).inputs = s.inputs := by unfold wakeLine; split <;> rfl
@[simp] theorem wakeLine_tick (a : Nat) (s : State) : (wakeLine a s).tick = s.tick := by unfold wakeLine; split <;> rfl
@[simp] theorem wakeLine_nextId (a : Nat) (s : State) : (wakeLine a s).nextId = s.nextId := by unfold wakeLine; split <;> rfl
@[simp] theorem wakeLine_cord (a : Nat) (s : State) : (wakeLine a s).cord = s.cord := by unfold wakeLine; split <;> rfl
@[simp] theorem wakeLine_cords (a : Nat) (s : State) : (wakeLine a s).cords = s.cords := by unfold wakeLine; split <;> rfl
@[simp] theorem wakeLine_hostNo (a : Nat) (s : State) : (wakeLine a s).hostNo = s.hostNo := by unfold wakeLine; split <;> rfl
@[simp] theorem wakeLine_hosts (a : Nat) (s : State) : (wakeLine a s).hosts = s.hosts := by unfold wakeLine; split <;> rfl
@[simp] theorem wakeLine_hostWait (a : Nat) (s : State) : (wakeLine a s).hostWait = s.hostWait := by unfold wakeLine; split <;> rfl
@[simp] theorem wakeLine_hostWords (a : Nat) (s : State) : (wakeLine a s).hostWords = s.hostWords := by unfold wakeLine; split <;> rfl
@[simp] theorem wakeLine_mem (a : Nat) (s : State) : (wakeLine a s).mem = s.mem := by unfold wakeLine; split <;> rfl
@[simp] theorem wakeLine_failed (a : Nat) (s : State) : (wakeLine a s).failed = s.failed := by unfold wakeLine; split <;> rfl
@[simp] theorem wakeLine_leaves (a : Nat) (s : State) : (wakeLine a s).leaves = s.leaves := by unfold wakeLine; split <;> rfl
@[simp] theorem wakeLine_latches (a : Nat) (s : State) : (wakeLine a s).latches = s.latches := by unfold wakeLine; split <;> rfl
@[simp] theorem wakeLine_mostly (a : Nat) (s : State) : (wakeLine a s).mostly = s.mostly := by unfold wakeLine; split <;> rfl
@[simp] theorem wakeLine_oldText (a : Nat) (s : State) : (wakeLine a s).oldText = s.oldText := by unfold wakeLine; split <;> rfl
@[simp] theorem wakeLine_bwaits (a : Nat) (s : State) : (wakeLine a s).bwaits = s.bwaits := by unfold wakeLine; split <;> rfl
@[simp] theorem wakeLine_answers (a : Nat) (s : State) : (wakeLine a s).answers = s.answers := by unfold wakeLine; split <;> rfl
@[simp] theorem wakeLine_englines (a : Nat) (s : State) : (wakeLine a s).englines = s.englines := by unfold wakeLine; split <;> rfl
@[simp] theorem wakeLine_devWrites (a : Nat) (s : State) : (wakeLine a s).devWrites = s.devWrites := by unfold wakeLine; split <;> rfl
@[simp] theorem wakeLine_parts (a : Nat) (s : State) : (wakeLine a s).parts = s.parts := by unfold wakeLine; split <;> rfl
@[simp] theorem wakeLine_cores (a : Nat) (s : State) : (wakeLine a s).cores = s.cores := by unfold wakeLine; split <;> rfl
@[simp] theorem wakeLine_clusters (a : Nat) (s : State) : (wakeLine a s).clusters = s.clusters := by unfold wakeLine; split <;> rfl
@[simp] theorem wakeLine_dies (a : Nat) (s : State) : (wakeLine a s).dies = s.dies := by unfold wakeLine; split <;> rfl
@[simp] theorem wakeLine_quads (a : Nat) (s : State) : (wakeLine a s).quads = s.quads := by unfold wakeLine; split <;> rfl
@[simp] theorem wakeLine_queues (a : Nat) (s : State) : (wakeLine a s).queues = s.queues := by unfold wakeLine; split <;> rfl
@[simp] theorem wakeLine_launches (a : Nat) (s : State) : (wakeLine a s).launches = s.launches := by unfold wakeLine; split <;> rfl
@[simp] theorem wakeLine_stands (a : Nat) (s : State) : (wakeLine a s).stands = s.stands := by unfold wakeLine; split <;> rfl
@[simp] theorem wakeLine_held (a : Nat) (s : State) : (wakeLine a s).held = s.held := by unfold wakeLine; split <;> rfl
@[simp] theorem wakeLine_completions (a : Nat) (s : State) : (wakeLine a s).completions = s.completions := by unfold wakeLine; split <;> rfl
@[simp] theorem wakeLine_disp (a : Nat) (s : State) : (wakeLine a s).disp = s.disp := by unfold wakeLine; split <;> rfl
@[simp] theorem wakeLine_iommu (a : Nat) (s : State) : (wakeLine a s).iommu = s.iommu := by unfold wakeLine; split <;> rfl
@[simp] theorem wakeLine_almanac (a : Nat) (s : State) : (wakeLine a s).almanac = s.almanac := by unfold wakeLine; split <;> rfl
@[simp] theorem wakeLine_fabric (a : Nat) (s : State) : (wakeLine a s).fabric = s.fabric := by unfold wakeLine; split <;> rfl
@[simp] theorem wakeLine_mgmt_journal (a : Nat) (s : State) : (wakeLine a s).mgmt.journal = s.mgmt.journal := by unfold wakeLine; split <;> rfl
@[simp] theorem wakeLine_mgmt_journalSeq (a : Nat) (s : State) : (wakeLine a s).mgmt.journalSeq = s.mgmt.journalSeq := by unfold wakeLine; split <;> rfl
@[simp] theorem wakeLine_mgmt_quantum (a : Nat) (s : State) : (wakeLine a s).mgmt.quantum = s.mgmt.quantum := by unfold wakeLine; split <;> rfl
@[simp] theorem wakeLine_mgmt_handlerNext (a : Nat) (s : State) : (wakeLine a s).mgmt.handlerNext = s.mgmt.handlerNext := by unfold wakeLine; split <;> rfl
@[simp] theorem wakeLine_mgmt_retain (a : Nat) (s : State) : (wakeLine a s).mgmt.retain = s.mgmt.retain := by unfold wakeLine; split <;> rfl
@[simp] theorem wakeLine_mgmt_sleepAsked (a : Nat) (s : State) : (wakeLine a s).mgmt.sleepAsked = s.mgmt.sleepAsked := by unfold wakeLine; split <;> rfl
@[simp] theorem wakeLine_mgmt_asleep (a : Nat) (s : State) : (wakeLine a s).mgmt.asleep = s.mgmt.asleep := by unfold wakeLine; split <;> rfl
@[simp] theorem wakeLine_mgmt_waking (a : Nat) (s : State) : (wakeLine a s).mgmt.waking = s.mgmt.waking := by unfold wakeLine; split <;> rfl
@[simp] theorem wakeLine_mgmt_errors (a : Nat) (s : State) : (wakeLine a s).mgmt.errors = s.mgmt.errors := by unfold wakeLine; split <;> rfl
@[simp] theorem wakeLine_mgmt_sampler (a : Nat) (s : State) : (wakeLine a s).mgmt.sampler = s.mgmt.sampler := by unfold wakeLine; split <;> rfl
@[simp] theorem wakeLine_mgmt_sampleIndex (a : Nat) (s : State) : (wakeLine a s).mgmt.sampleIndex = s.mgmt.sampleIndex := by unfold wakeLine; split <;> rfl
@[simp] theorem wakeLine_mgmt_sampleDropped (a : Nat) (s : State) : (wakeLine a s).mgmt.sampleDropped = s.mgmt.sampleDropped := by unfold wakeLine; split <;> rfl
@[simp] theorem wakeLine_mgmt_events (a : Nat) (s : State) : (wakeLine a s).mgmt.events = s.mgmt.events := by unfold wakeLine; split <;> rfl
@[simp] theorem wakeLine_mgmt_eventIndex (a : Nat) (s : State) : (wakeLine a s).mgmt.eventIndex = s.mgmt.eventIndex := by unfold wakeLine; split <;> rfl
@[simp] theorem wakeLine_mgmt_eventData (a : Nat) (s : State) : (wakeLine a s).mgmt.eventData = s.mgmt.eventData := by unfold wakeLine; split <;> rfl
@[simp] theorem wakeLine_mgmt_watches (a : Nat) (s : State) : (wakeLine a s).mgmt.watches = s.mgmt.watches := by unfold wakeLine; split <;> rfl
@[simp] theorem wakeLine_mgmt_hits (a : Nat) (s : State) : (wakeLine a s).mgmt.hits = s.mgmt.hits := by unfold wakeLine; split <;> rfl
@[simp] theorem wakeLine_mgmt_sliceClocks (a : Nat) (s : State) : (wakeLine a s).mgmt.sliceClocks = s.mgmt.sliceClocks := by unfold wakeLine; split <;> rfl
@[simp] theorem wakeLine_mgmt_msixTable (a : Nat) (s : State) : (wakeLine a s).mgmt.msixTable = s.mgmt.msixTable := by unfold wakeLine; split <;> rfl
@[simp] theorem wakeLine_mgmt_msixPending (a : Nat) (s : State) : (wakeLine a s).mgmt.msixPending = s.mgmt.msixPending := by unfold wakeLine; split <;> rfl
@[simp] theorem wakeLine_mgmt_msix (a : Nat) (s : State) : (wakeLine a s).mgmt.msix = s.mgmt.msix := by unfold wakeLine; split <;> rfl
@[simp] theorem wakeLine_mgmt_adminBusy (a : Nat) (s : State) : (wakeLine a s).mgmt.adminBusy = s.mgmt.adminBusy := by unfold wakeLine; split <;> rfl
@[simp] theorem wakeLine_mgmt_image (a : Nat) (s : State) : (wakeLine a s).mgmt.image = s.mgmt.image := by unfold wakeLine; split <;> rfl
@[simp] theorem wakeLine_mgmt_loadFail (a : Nat) (s : State) : (wakeLine a s).mgmt.loadFail = s.mgmt.loadFail := by unfold wakeLine; split <;> rfl
@[simp] theorem wakeLine_mgmt_trainFails (a : Nat) (s : State) : (wakeLine a s).mgmt.trainFails = s.mgmt.trainFails := by unfold wakeLine; split <;> rfl
@[simp] theorem wakeLine_mgmt_countsSet (a : Nat) (s : State) : (wakeLine a s).mgmt.countsSet = s.mgmt.countsSet := by unfold wakeLine; split <;> rfl
@[simp] theorem wakeLine_mgmt_deckSet (a : Nat) (s : State) : (wakeLine a s).mgmt.deckSet = s.mgmt.deckSet := by unfold wakeLine; split <;> rfl
@[simp] theorem wakeLine_mgmt_step (a : Nat) (s : State) : (wakeLine a s).mgmt.step = s.mgmt.step := by unfold wakeLine; split <;> rfl
@[simp] theorem wakeLines_agenda (a n : Nat) (s : State) : (wakeLines a n s).agenda = s.agenda := foldl_keeps _ _ _ _ (fun _ _ => wakeLine_agenda _ _)
@[simp] theorem wakeLines_inputs (a n : Nat) (s : State) : (wakeLines a n s).inputs = s.inputs := foldl_keeps _ _ _ _ (fun _ _ => wakeLine_inputs _ _)
@[simp] theorem wakeLines_tick (a n : Nat) (s : State) : (wakeLines a n s).tick = s.tick := foldl_keeps _ _ _ _ (fun _ _ => wakeLine_tick _ _)
@[simp] theorem wakeLines_nextId (a n : Nat) (s : State) : (wakeLines a n s).nextId = s.nextId := foldl_keeps _ _ _ _ (fun _ _ => wakeLine_nextId _ _)
@[simp] theorem wakeLines_cord (a n : Nat) (s : State) : (wakeLines a n s).cord = s.cord := foldl_keeps _ _ _ _ (fun _ _ => wakeLine_cord _ _)
@[simp] theorem wakeLines_cords (a n : Nat) (s : State) : (wakeLines a n s).cords = s.cords := foldl_keeps _ _ _ _ (fun _ _ => wakeLine_cords _ _)
@[simp] theorem wakeLines_hostNo (a n : Nat) (s : State) : (wakeLines a n s).hostNo = s.hostNo := foldl_keeps _ _ _ _ (fun _ _ => wakeLine_hostNo _ _)
@[simp] theorem wakeLines_hosts (a n : Nat) (s : State) : (wakeLines a n s).hosts = s.hosts := foldl_keeps _ _ _ _ (fun _ _ => wakeLine_hosts _ _)
@[simp] theorem wakeLines_hostWait (a n : Nat) (s : State) : (wakeLines a n s).hostWait = s.hostWait := foldl_keeps _ _ _ _ (fun _ _ => wakeLine_hostWait _ _)
@[simp] theorem wakeLines_hostWords (a n : Nat) (s : State) : (wakeLines a n s).hostWords = s.hostWords := foldl_keeps _ _ _ _ (fun _ _ => wakeLine_hostWords _ _)
@[simp] theorem wakeLines_mem (a n : Nat) (s : State) : (wakeLines a n s).mem = s.mem := foldl_keeps _ _ _ _ (fun _ _ => wakeLine_mem _ _)
@[simp] theorem wakeLines_failed (a n : Nat) (s : State) : (wakeLines a n s).failed = s.failed := foldl_keeps _ _ _ _ (fun _ _ => wakeLine_failed _ _)
@[simp] theorem wakeLines_leaves (a n : Nat) (s : State) : (wakeLines a n s).leaves = s.leaves := foldl_keeps _ _ _ _ (fun _ _ => wakeLine_leaves _ _)
@[simp] theorem wakeLines_latches (a n : Nat) (s : State) : (wakeLines a n s).latches = s.latches := foldl_keeps _ _ _ _ (fun _ _ => wakeLine_latches _ _)
@[simp] theorem wakeLines_mostly (a n : Nat) (s : State) : (wakeLines a n s).mostly = s.mostly := foldl_keeps _ _ _ _ (fun _ _ => wakeLine_mostly _ _)
@[simp] theorem wakeLines_oldText (a n : Nat) (s : State) : (wakeLines a n s).oldText = s.oldText := foldl_keeps _ _ _ _ (fun _ _ => wakeLine_oldText _ _)
@[simp] theorem wakeLines_bwaits (a n : Nat) (s : State) : (wakeLines a n s).bwaits = s.bwaits := foldl_keeps _ _ _ _ (fun _ _ => wakeLine_bwaits _ _)
@[simp] theorem wakeLines_answers (a n : Nat) (s : State) : (wakeLines a n s).answers = s.answers := foldl_keeps _ _ _ _ (fun _ _ => wakeLine_answers _ _)
@[simp] theorem wakeLines_englines (a n : Nat) (s : State) : (wakeLines a n s).englines = s.englines := foldl_keeps _ _ _ _ (fun _ _ => wakeLine_englines _ _)
@[simp] theorem wakeLines_devWrites (a n : Nat) (s : State) : (wakeLines a n s).devWrites = s.devWrites := foldl_keeps _ _ _ _ (fun _ _ => wakeLine_devWrites _ _)
@[simp] theorem wakeLines_parts (a n : Nat) (s : State) : (wakeLines a n s).parts = s.parts := foldl_keeps _ _ _ _ (fun _ _ => wakeLine_parts _ _)
@[simp] theorem wakeLines_cores (a n : Nat) (s : State) : (wakeLines a n s).cores = s.cores := foldl_keeps _ _ _ _ (fun _ _ => wakeLine_cores _ _)
@[simp] theorem wakeLines_clusters (a n : Nat) (s : State) : (wakeLines a n s).clusters = s.clusters := foldl_keeps _ _ _ _ (fun _ _ => wakeLine_clusters _ _)
@[simp] theorem wakeLines_dies (a n : Nat) (s : State) : (wakeLines a n s).dies = s.dies := foldl_keeps _ _ _ _ (fun _ _ => wakeLine_dies _ _)
@[simp] theorem wakeLines_quads (a n : Nat) (s : State) : (wakeLines a n s).quads = s.quads := foldl_keeps _ _ _ _ (fun _ _ => wakeLine_quads _ _)
@[simp] theorem wakeLines_queues (a n : Nat) (s : State) : (wakeLines a n s).queues = s.queues := foldl_keeps _ _ _ _ (fun _ _ => wakeLine_queues _ _)
@[simp] theorem wakeLines_launches (a n : Nat) (s : State) : (wakeLines a n s).launches = s.launches := foldl_keeps _ _ _ _ (fun _ _ => wakeLine_launches _ _)
@[simp] theorem wakeLines_stands (a n : Nat) (s : State) : (wakeLines a n s).stands = s.stands := foldl_keeps _ _ _ _ (fun _ _ => wakeLine_stands _ _)
@[simp] theorem wakeLines_held (a n : Nat) (s : State) : (wakeLines a n s).held = s.held := foldl_keeps _ _ _ _ (fun _ _ => wakeLine_held _ _)
@[simp] theorem wakeLines_completions (a n : Nat) (s : State) : (wakeLines a n s).completions = s.completions := foldl_keeps _ _ _ _ (fun _ _ => wakeLine_completions _ _)
@[simp] theorem wakeLines_disp (a n : Nat) (s : State) : (wakeLines a n s).disp = s.disp := foldl_keeps _ _ _ _ (fun _ _ => wakeLine_disp _ _)
@[simp] theorem wakeLines_iommu (a n : Nat) (s : State) : (wakeLines a n s).iommu = s.iommu := foldl_keeps _ _ _ _ (fun _ _ => wakeLine_iommu _ _)
@[simp] theorem wakeLines_almanac (a n : Nat) (s : State) : (wakeLines a n s).almanac = s.almanac := foldl_keeps _ _ _ _ (fun _ _ => wakeLine_almanac _ _)
@[simp] theorem wakeLines_fabric (a n : Nat) (s : State) : (wakeLines a n s).fabric = s.fabric := foldl_keeps _ _ _ _ (fun _ _ => wakeLine_fabric _ _)
@[simp] theorem wakeLines_mgmt_journal (a n : Nat) (s : State) : (wakeLines a n s).mgmt.journal = s.mgmt.journal := foldl_keeps (fun s => s.mgmt.journal) _ _ _ (fun _ _ => wakeLine_mgmt_journal _ _)
@[simp] theorem wakeLines_mgmt_journalSeq (a n : Nat) (s : State) : (wakeLines a n s).mgmt.journalSeq = s.mgmt.journalSeq := foldl_keeps (fun s => s.mgmt.journalSeq) _ _ _ (fun _ _ => wakeLine_mgmt_journalSeq _ _)
@[simp] theorem wakeLines_mgmt_quantum (a n : Nat) (s : State) : (wakeLines a n s).mgmt.quantum = s.mgmt.quantum := foldl_keeps (fun s => s.mgmt.quantum) _ _ _ (fun _ _ => wakeLine_mgmt_quantum _ _)
@[simp] theorem wakeLines_mgmt_handlerNext (a n : Nat) (s : State) : (wakeLines a n s).mgmt.handlerNext = s.mgmt.handlerNext := foldl_keeps (fun s => s.mgmt.handlerNext) _ _ _ (fun _ _ => wakeLine_mgmt_handlerNext _ _)
@[simp] theorem wakeLines_mgmt_retain (a n : Nat) (s : State) : (wakeLines a n s).mgmt.retain = s.mgmt.retain := foldl_keeps (fun s => s.mgmt.retain) _ _ _ (fun _ _ => wakeLine_mgmt_retain _ _)
@[simp] theorem wakeLines_mgmt_sleepAsked (a n : Nat) (s : State) : (wakeLines a n s).mgmt.sleepAsked = s.mgmt.sleepAsked := foldl_keeps (fun s => s.mgmt.sleepAsked) _ _ _ (fun _ _ => wakeLine_mgmt_sleepAsked _ _)
@[simp] theorem wakeLines_mgmt_asleep (a n : Nat) (s : State) : (wakeLines a n s).mgmt.asleep = s.mgmt.asleep := foldl_keeps (fun s => s.mgmt.asleep) _ _ _ (fun _ _ => wakeLine_mgmt_asleep _ _)
@[simp] theorem wakeLines_mgmt_waking (a n : Nat) (s : State) : (wakeLines a n s).mgmt.waking = s.mgmt.waking := foldl_keeps (fun s => s.mgmt.waking) _ _ _ (fun _ _ => wakeLine_mgmt_waking _ _)
@[simp] theorem wakeLines_mgmt_errors (a n : Nat) (s : State) : (wakeLines a n s).mgmt.errors = s.mgmt.errors := foldl_keeps (fun s => s.mgmt.errors) _ _ _ (fun _ _ => wakeLine_mgmt_errors _ _)
@[simp] theorem wakeLines_mgmt_sampler (a n : Nat) (s : State) : (wakeLines a n s).mgmt.sampler = s.mgmt.sampler := foldl_keeps (fun s => s.mgmt.sampler) _ _ _ (fun _ _ => wakeLine_mgmt_sampler _ _)
@[simp] theorem wakeLines_mgmt_sampleIndex (a n : Nat) (s : State) : (wakeLines a n s).mgmt.sampleIndex = s.mgmt.sampleIndex := foldl_keeps (fun s => s.mgmt.sampleIndex) _ _ _ (fun _ _ => wakeLine_mgmt_sampleIndex _ _)
@[simp] theorem wakeLines_mgmt_sampleDropped (a n : Nat) (s : State) : (wakeLines a n s).mgmt.sampleDropped = s.mgmt.sampleDropped := foldl_keeps (fun s => s.mgmt.sampleDropped) _ _ _ (fun _ _ => wakeLine_mgmt_sampleDropped _ _)
@[simp] theorem wakeLines_mgmt_events (a n : Nat) (s : State) : (wakeLines a n s).mgmt.events = s.mgmt.events := foldl_keeps (fun s => s.mgmt.events) _ _ _ (fun _ _ => wakeLine_mgmt_events _ _)
@[simp] theorem wakeLines_mgmt_eventIndex (a n : Nat) (s : State) : (wakeLines a n s).mgmt.eventIndex = s.mgmt.eventIndex := foldl_keeps (fun s => s.mgmt.eventIndex) _ _ _ (fun _ _ => wakeLine_mgmt_eventIndex _ _)
@[simp] theorem wakeLines_mgmt_eventData (a n : Nat) (s : State) : (wakeLines a n s).mgmt.eventData = s.mgmt.eventData := foldl_keeps (fun s => s.mgmt.eventData) _ _ _ (fun _ _ => wakeLine_mgmt_eventData _ _)
@[simp] theorem wakeLines_mgmt_watches (a n : Nat) (s : State) : (wakeLines a n s).mgmt.watches = s.mgmt.watches := foldl_keeps (fun s => s.mgmt.watches) _ _ _ (fun _ _ => wakeLine_mgmt_watches _ _)
@[simp] theorem wakeLines_mgmt_hits (a n : Nat) (s : State) : (wakeLines a n s).mgmt.hits = s.mgmt.hits := foldl_keeps (fun s => s.mgmt.hits) _ _ _ (fun _ _ => wakeLine_mgmt_hits _ _)
@[simp] theorem wakeLines_mgmt_sliceClocks (a n : Nat) (s : State) : (wakeLines a n s).mgmt.sliceClocks = s.mgmt.sliceClocks := foldl_keeps (fun s => s.mgmt.sliceClocks) _ _ _ (fun _ _ => wakeLine_mgmt_sliceClocks _ _)
@[simp] theorem wakeLines_mgmt_msixTable (a n : Nat) (s : State) : (wakeLines a n s).mgmt.msixTable = s.mgmt.msixTable := foldl_keeps (fun s => s.mgmt.msixTable) _ _ _ (fun _ _ => wakeLine_mgmt_msixTable _ _)
@[simp] theorem wakeLines_mgmt_msixPending (a n : Nat) (s : State) : (wakeLines a n s).mgmt.msixPending = s.mgmt.msixPending := foldl_keeps (fun s => s.mgmt.msixPending) _ _ _ (fun _ _ => wakeLine_mgmt_msixPending _ _)
@[simp] theorem wakeLines_mgmt_msix (a n : Nat) (s : State) : (wakeLines a n s).mgmt.msix = s.mgmt.msix := foldl_keeps (fun s => s.mgmt.msix) _ _ _ (fun _ _ => wakeLine_mgmt_msix _ _)
@[simp] theorem wakeLines_mgmt_adminBusy (a n : Nat) (s : State) : (wakeLines a n s).mgmt.adminBusy = s.mgmt.adminBusy := foldl_keeps (fun s => s.mgmt.adminBusy) _ _ _ (fun _ _ => wakeLine_mgmt_adminBusy _ _)
@[simp] theorem wakeLines_mgmt_image (a n : Nat) (s : State) : (wakeLines a n s).mgmt.image = s.mgmt.image := foldl_keeps (fun s => s.mgmt.image) _ _ _ (fun _ _ => wakeLine_mgmt_image _ _)
@[simp] theorem wakeLines_mgmt_loadFail (a n : Nat) (s : State) : (wakeLines a n s).mgmt.loadFail = s.mgmt.loadFail := foldl_keeps (fun s => s.mgmt.loadFail) _ _ _ (fun _ _ => wakeLine_mgmt_loadFail _ _)
@[simp] theorem wakeLines_mgmt_trainFails (a n : Nat) (s : State) : (wakeLines a n s).mgmt.trainFails = s.mgmt.trainFails := foldl_keeps (fun s => s.mgmt.trainFails) _ _ _ (fun _ _ => wakeLine_mgmt_trainFails _ _)
@[simp] theorem wakeLines_mgmt_countsSet (a n : Nat) (s : State) : (wakeLines a n s).mgmt.countsSet = s.mgmt.countsSet := foldl_keeps (fun s => s.mgmt.countsSet) _ _ _ (fun _ _ => wakeLine_mgmt_countsSet _ _)
@[simp] theorem wakeLines_mgmt_deckSet (a n : Nat) (s : State) : (wakeLines a n s).mgmt.deckSet = s.mgmt.deckSet := foldl_keeps (fun s => s.mgmt.deckSet) _ _ _ (fun _ _ => wakeLine_mgmt_deckSet _ _)
@[simp] theorem wakeLines_mgmt_step (a n : Nat) (s : State) : (wakeLines a n s).mgmt.step = s.mgmt.step := foldl_keeps (fun s => s.mgmt.step) _ _ _ (fun _ _ => wakeLine_mgmt_step _ _)

/-! ### journalEntry and raiseMsix -/

@[simp] theorem raiseMsix_agenda (v : Nat) (s : State) : (raiseMsix v s).agenda = s.agenda := by unfold raiseMsix; split <;> rfl
@[simp] theorem raiseMsix_inputs (v : Nat) (s : State) : (raiseMsix v s).inputs = s.inputs := by unfold raiseMsix; split <;> rfl
@[simp] theorem raiseMsix_tick (v : Nat) (s : State) : (raiseMsix v s).tick = s.tick := by unfold raiseMsix; split <;> rfl
@[simp] theorem raiseMsix_nextId (v : Nat) (s : State) : (raiseMsix v s).nextId = s.nextId := by unfold raiseMsix; split <;> rfl
@[simp] theorem raiseMsix_cord (v : Nat) (s : State) : (raiseMsix v s).cord = s.cord := by unfold raiseMsix; split <;> rfl
@[simp] theorem raiseMsix_cords (v : Nat) (s : State) : (raiseMsix v s).cords = s.cords := by unfold raiseMsix; split <;> rfl
@[simp] theorem raiseMsix_hostNo (v : Nat) (s : State) : (raiseMsix v s).hostNo = s.hostNo := by unfold raiseMsix; split <;> rfl
@[simp] theorem raiseMsix_hosts (v : Nat) (s : State) : (raiseMsix v s).hosts = s.hosts := by unfold raiseMsix; split <;> rfl
@[simp] theorem raiseMsix_hostWait (v : Nat) (s : State) : (raiseMsix v s).hostWait = s.hostWait := by unfold raiseMsix; split <;> rfl
@[simp] theorem raiseMsix_hostWords (v : Nat) (s : State) : (raiseMsix v s).hostWords = s.hostWords := by unfold raiseMsix; split <;> rfl
@[simp] theorem raiseMsix_mem (v : Nat) (s : State) : (raiseMsix v s).mem = s.mem := by unfold raiseMsix; split <;> rfl
@[simp] theorem raiseMsix_failed (v : Nat) (s : State) : (raiseMsix v s).failed = s.failed := by unfold raiseMsix; split <;> rfl
@[simp] theorem raiseMsix_leaves (v : Nat) (s : State) : (raiseMsix v s).leaves = s.leaves := by unfold raiseMsix; split <;> rfl
@[simp] theorem raiseMsix_latches (v : Nat) (s : State) : (raiseMsix v s).latches = s.latches := by unfold raiseMsix; split <;> rfl
@[simp] theorem raiseMsix_mostly (v : Nat) (s : State) : (raiseMsix v s).mostly = s.mostly := by unfold raiseMsix; split <;> rfl
@[simp] theorem raiseMsix_oldText (v : Nat) (s : State) : (raiseMsix v s).oldText = s.oldText := by unfold raiseMsix; split <;> rfl
@[simp] theorem raiseMsix_bwaits (v : Nat) (s : State) : (raiseMsix v s).bwaits = s.bwaits := by unfold raiseMsix; split <;> rfl
@[simp] theorem raiseMsix_answers (v : Nat) (s : State) : (raiseMsix v s).answers = s.answers := by unfold raiseMsix; split <;> rfl
@[simp] theorem raiseMsix_englines (v : Nat) (s : State) : (raiseMsix v s).englines = s.englines := by unfold raiseMsix; split <;> rfl
@[simp] theorem raiseMsix_devWrites (v : Nat) (s : State) : (raiseMsix v s).devWrites = s.devWrites := by unfold raiseMsix; split <;> rfl
@[simp] theorem raiseMsix_parts (v : Nat) (s : State) : (raiseMsix v s).parts = s.parts := by unfold raiseMsix; split <;> rfl
@[simp] theorem raiseMsix_cores (v : Nat) (s : State) : (raiseMsix v s).cores = s.cores := by unfold raiseMsix; split <;> rfl
@[simp] theorem raiseMsix_clusters (v : Nat) (s : State) : (raiseMsix v s).clusters = s.clusters := by unfold raiseMsix; split <;> rfl
@[simp] theorem raiseMsix_dies (v : Nat) (s : State) : (raiseMsix v s).dies = s.dies := by unfold raiseMsix; split <;> rfl
@[simp] theorem raiseMsix_quads (v : Nat) (s : State) : (raiseMsix v s).quads = s.quads := by unfold raiseMsix; split <;> rfl
@[simp] theorem raiseMsix_queues (v : Nat) (s : State) : (raiseMsix v s).queues = s.queues := by unfold raiseMsix; split <;> rfl
@[simp] theorem raiseMsix_launches (v : Nat) (s : State) : (raiseMsix v s).launches = s.launches := by unfold raiseMsix; split <;> rfl
@[simp] theorem raiseMsix_stands (v : Nat) (s : State) : (raiseMsix v s).stands = s.stands := by unfold raiseMsix; split <;> rfl
@[simp] theorem raiseMsix_held (v : Nat) (s : State) : (raiseMsix v s).held = s.held := by unfold raiseMsix; split <;> rfl
@[simp] theorem raiseMsix_completions (v : Nat) (s : State) : (raiseMsix v s).completions = s.completions := by unfold raiseMsix; split <;> rfl
@[simp] theorem raiseMsix_disp (v : Nat) (s : State) : (raiseMsix v s).disp = s.disp := by unfold raiseMsix; split <;> rfl
@[simp] theorem raiseMsix_iommu (v : Nat) (s : State) : (raiseMsix v s).iommu = s.iommu := by unfold raiseMsix; split <;> rfl
@[simp] theorem raiseMsix_almanac (v : Nat) (s : State) : (raiseMsix v s).almanac = s.almanac := by unfold raiseMsix; split <;> rfl
@[simp] theorem raiseMsix_fabric (v : Nat) (s : State) : (raiseMsix v s).fabric = s.fabric := by unfold raiseMsix; split <;> rfl
@[simp] theorem raiseMsix_mgmt_journal (v : Nat) (s : State) : (raiseMsix v s).mgmt.journal = s.mgmt.journal := by unfold raiseMsix; split <;> rfl
@[simp] theorem raiseMsix_mgmt_journalSeq (v : Nat) (s : State) : (raiseMsix v s).mgmt.journalSeq = s.mgmt.journalSeq := by unfold raiseMsix; split <;> rfl
@[simp] theorem raiseMsix_mgmt_quantum (v : Nat) (s : State) : (raiseMsix v s).mgmt.quantum = s.mgmt.quantum := by unfold raiseMsix; split <;> rfl
@[simp] theorem raiseMsix_mgmt_handlerNext (v : Nat) (s : State) : (raiseMsix v s).mgmt.handlerNext = s.mgmt.handlerNext := by unfold raiseMsix; split <;> rfl
@[simp] theorem raiseMsix_mgmt_retain (v : Nat) (s : State) : (raiseMsix v s).mgmt.retain = s.mgmt.retain := by unfold raiseMsix; split <;> rfl
@[simp] theorem raiseMsix_mgmt_sleepAsked (v : Nat) (s : State) : (raiseMsix v s).mgmt.sleepAsked = s.mgmt.sleepAsked := by unfold raiseMsix; split <;> rfl
@[simp] theorem raiseMsix_mgmt_asleep (v : Nat) (s : State) : (raiseMsix v s).mgmt.asleep = s.mgmt.asleep := by unfold raiseMsix; split <;> rfl
@[simp] theorem raiseMsix_mgmt_waking (v : Nat) (s : State) : (raiseMsix v s).mgmt.waking = s.mgmt.waking := by unfold raiseMsix; split <;> rfl
@[simp] theorem raiseMsix_mgmt_errors (v : Nat) (s : State) : (raiseMsix v s).mgmt.errors = s.mgmt.errors := by unfold raiseMsix; split <;> rfl
@[simp] theorem raiseMsix_mgmt_sampler (v : Nat) (s : State) : (raiseMsix v s).mgmt.sampler = s.mgmt.sampler := by unfold raiseMsix; split <;> rfl
@[simp] theorem raiseMsix_mgmt_sampleIndex (v : Nat) (s : State) : (raiseMsix v s).mgmt.sampleIndex = s.mgmt.sampleIndex := by unfold raiseMsix; split <;> rfl
@[simp] theorem raiseMsix_mgmt_sampleDropped (v : Nat) (s : State) : (raiseMsix v s).mgmt.sampleDropped = s.mgmt.sampleDropped := by unfold raiseMsix; split <;> rfl
@[simp] theorem raiseMsix_mgmt_events (v : Nat) (s : State) : (raiseMsix v s).mgmt.events = s.mgmt.events := by unfold raiseMsix; split <;> rfl
@[simp] theorem raiseMsix_mgmt_eventIndex (v : Nat) (s : State) : (raiseMsix v s).mgmt.eventIndex = s.mgmt.eventIndex := by unfold raiseMsix; split <;> rfl
@[simp] theorem raiseMsix_mgmt_eventData (v : Nat) (s : State) : (raiseMsix v s).mgmt.eventData = s.mgmt.eventData := by unfold raiseMsix; split <;> rfl
@[simp] theorem raiseMsix_mgmt_watches (v : Nat) (s : State) : (raiseMsix v s).mgmt.watches = s.mgmt.watches := by unfold raiseMsix; split <;> rfl
@[simp] theorem raiseMsix_mgmt_hits (v : Nat) (s : State) : (raiseMsix v s).mgmt.hits = s.mgmt.hits := by unfold raiseMsix; split <;> rfl
@[simp] theorem raiseMsix_mgmt_sliceClocks (v : Nat) (s : State) : (raiseMsix v s).mgmt.sliceClocks = s.mgmt.sliceClocks := by unfold raiseMsix; split <;> rfl
@[simp] theorem raiseMsix_mgmt_touched (v : Nat) (s : State) : (raiseMsix v s).mgmt.touched = s.mgmt.touched := by unfold raiseMsix; split <;> rfl
@[simp] theorem raiseMsix_mgmt_drowsy (v : Nat) (s : State) : (raiseMsix v s).mgmt.drowsy = s.mgmt.drowsy := by unfold raiseMsix; split <;> rfl
@[simp] theorem raiseMsix_mgmt_msixTable (v : Nat) (s : State) : (raiseMsix v s).mgmt.msixTable = s.mgmt.msixTable := by unfold raiseMsix; split <;> rfl
@[simp] theorem raiseMsix_mgmt_adminBusy (v : Nat) (s : State) : (raiseMsix v s).mgmt.adminBusy = s.mgmt.adminBusy := by unfold raiseMsix; split <;> rfl
@[simp] theorem raiseMsix_mgmt_image (v : Nat) (s : State) : (raiseMsix v s).mgmt.image = s.mgmt.image := by unfold raiseMsix; split <;> rfl
@[simp] theorem raiseMsix_mgmt_loadFail (v : Nat) (s : State) : (raiseMsix v s).mgmt.loadFail = s.mgmt.loadFail := by unfold raiseMsix; split <;> rfl
@[simp] theorem raiseMsix_mgmt_trainFails (v : Nat) (s : State) : (raiseMsix v s).mgmt.trainFails = s.mgmt.trainFails := by unfold raiseMsix; split <;> rfl
@[simp] theorem raiseMsix_mgmt_countsSet (v : Nat) (s : State) : (raiseMsix v s).mgmt.countsSet = s.mgmt.countsSet := by unfold raiseMsix; split <;> rfl
@[simp] theorem raiseMsix_mgmt_deckSet (v : Nat) (s : State) : (raiseMsix v s).mgmt.deckSet = s.mgmt.deckSet := by unfold raiseMsix; split <;> rfl
@[simp] theorem raiseMsix_mgmt_step (v : Nat) (s : State) : (raiseMsix v s).mgmt.step = s.mgmt.step := by unfold raiseMsix; split <;> rfl

/-! ### What the places read after an update -/

@[simp] theorem coreOf_setCore (s : State) (c : CoreId) (f : Core → Core) : coreOf (setCore s c f) c = f (coreOf s c) := by simp [coreOf]
theorem coreOf_setCore_other (s : State) (c d : CoreId) (f : Core → Core) (h : d ≠ c) : coreOf (setCore s c f) d = coreOf s d := by
  have : c.toNat ≠ d.toNat := fun e => h (BitVec.eq_of_toNat_eq e.symm)
  simp [coreOf, this]
@[simp] theorem clusterOf_setCluster (s : State) (c : ClusterId) (f : Cluster → Cluster) : clusterOf (setCluster s c f) c = f (clusterOf s c) := by simp [clusterOf]
theorem clusterOf_setCluster_other (s : State) (c d : ClusterId) (f : Cluster → Cluster) (h : d ≠ c) : clusterOf (setCluster s c f) d = clusterOf s d := by
  have : c.toNat ≠ d.toNat := fun e => h (BitVec.eq_of_toNat_eq e.symm)
  simp [clusterOf, this]
@[simp] theorem partOf_setPart (s : State) (p : PartId) (f : Partition → Partition) : partOf (setPart s p f) p = f (partOf s p) := by simp [partOf]
theorem partOf_setPart_other (s : State) (p q : PartId) (f : Partition → Partition) (h : q ≠ p) : partOf (setPart s p f) q = partOf s q := by
  have : p.toNat ≠ q.toNat := fun e => h (BitVec.eq_of_toNat_eq e.symm)
  simp [partOf, this]
@[simp] theorem dieOf_setDie (s : State) (d : DieId) (f : Die → Die) : dieOf (setDie s d f) d = f (dieOf s d) := by simp [dieOf]
theorem dieOf_setDie_other (s : State) (d e : DieId) (f : Die → Die) (h : e ≠ d) : dieOf (setDie s d f) e = dieOf s e := by
  have : d.toNat ≠ e.toNat := fun x => h (BitVec.eq_of_toNat_eq x.symm)
  simp [dieOf, this]
@[simp] theorem quadOf_setQuad (s : State) (q : QuadId) (f : List NbCmd → List NbCmd) : quadOf (setQuad s q f) q = f (quadOf s q) := by simp [quadOf]

end Sys2Proof.Laws
end

