-- ==== Sys2Proof/Laws/Registers.lean ====
section
/-! SUPPORT. Reads of registers, predicates, lanes and masks after writes. -/

namespace Sys2Proof.Laws

set_option Elab.async false

open Sys2Proof Sys2Proof.Machine

/-- Register numbers that differ name different places. -/
theorem toNat_ne {n : Nat} {a b : BitVec n} (h : a ≠ b) : a.toNat ≠ b.toNat := fun e => h (BitVec.eq_of_toNat_eq e)

/-- s0 reads 0 (R2). -/
@[simp] theorem reg_zero (s : State) : reg s 0#6 = 0 := by simp [reg, cordReg]
/-- A write to s0 is discarded (R2). -/
@[simp] theorem setReg_zero (s : State) (v : Word) : setReg s 0#6 v = s := by simp [setReg, setCordReg]

/-- A bank after a register of it is written. -/
@[simp] theorem bankOf_setBank (c : Cord) (b : Bool) (r : Reg) (v : Word) : bankOf (setBank c b r v) b = (bankOf c b).set r.toNat v r.isLt := by
  cases b <;> rfl
/-- Writing a register of a bank leaves the acting fragment as it was. -/
@[simp] theorem setBank_frag (c : Cord) (b : Bool) (r : Reg) (v : Word) : (setBank c b r v).frag = c.frag := by cases b <;> rfl

/-- Reads of registers below s61, and writes. -/
theorem cordReg_low (c : Cord) (r : Reg) (h0 : r ≠ 0) (h : r.toNat < 61) : cordReg c r = (bankOf c c.frag.bank)[r.toNat]'r.isLt := by
  rw [cordReg, if_neg h0, if_pos h]
theorem cordReg_high (c : Cord) (r : Reg) (h : ¬ r.toNat < 61) : cordReg c r = maskWord (c.frag.mask &&& c.frag.owned) (r.toNat - 61) := by
  have h0 : r ≠ 0 := by rintro rfl; simp at h
  rw [cordReg, if_neg h0, if_neg h]
theorem setCordReg_low (c : Cord) (r : Reg) (v : Word) (h0 : r ≠ 0) (h : r.toNat < 61) : setCordReg c r v = setBank c c.frag.bank r v := by
  rw [setCordReg, if_neg h0, if_pos h]

/-- A scalar register below s61 reads what was last written to it (R25). -/
theorem reg_setReg_same (s : State) (r : Reg) (v : Word) (h0 : r ≠ 0) (h : r.toNat < 61) : reg (setReg s r v) r = v := by
  rw [reg, setReg_cord, setCordReg_low _ _ _ h0 h, cordReg_low _ _ h0 h]
  simp

/-- A write to a scalar register below s61 leaves every other register as it was. -/
theorem reg_setReg_other (s : State) (r q : Reg) (v : Word) (h : r.toNat < 61) (hq : q ≠ r) : reg (setReg s r v) q = reg s q := by
  by_cases h0 : r = 0
  · subst h0; exact congrArg (fun s => reg s q) (setReg_zero s v)
  · rw [reg, reg, setReg_cord, setCordReg_low _ _ _ h0 h]
    by_cases q0 : q = 0
    · subst q0; rfl
    · by_cases q61 : q.toNat < 61
      · rw [cordReg_low _ _ q0 q61, cordReg_low _ _ q0 q61]
        simp [(toNat_ne hq).symm]
      · rw [cordReg_high _ _ q61, cordReg_high _ _ q61, setBank_frag]

/-- The acting fragment does not change when a register below s61 is written. -/
theorem setReg_frag (s : State) (r : Reg) (v : Word) (h : r.toNat < 61) : (setReg s r v).cord.frag = s.cord.frag := by
  by_cases h0 : r = 0
  · subst h0; exact congrArg (fun s => s.cord.frag) (setReg_zero s v)
  · rw [setReg_cord, setCordReg_low _ _ _ h0 h, setBank_frag]

/-- A lane register reads what was last written to it. -/
@[simp] theorem vreg_setVreg (c : Cord) (r : VReg) (v : LaneVec) : vreg (setVreg c r v) r = v := by simp [vreg, setVreg]
theorem vreg_setVreg_other (c : Cord) (r q : VReg) (v : LaneVec) (h : q ≠ r) : vreg (setVreg c r v) q = vreg c q := by
  have := (toNat_ne h).symm
  simp [vreg, setVreg, this]

/-- p0 reads 1 in every lane, and a write to it is discarded (R346). -/
@[simp] theorem predOf_zero (c : Cord) : predOf c 0#3 = ~~~0 := by simp [predOf]
@[simp] theorem setPred_zero (c : Cord) (m : Mask) : setPred c 0#3 m = c := by simp [setPred]
theorem predOf_setPred (c : Cord) (i : BitVec 3) (m : Mask) (h : i ≠ 0) : predOf (setPred c i m) i = m := by
  rw [predOf, if_neg h, setPred, if_neg h]
  simp
theorem predOf_setPred_other (c : Cord) (i j : BitVec 3) (m : Mask) (h : j ≠ i) : predOf (setPred c i m) j = predOf c j := by
  by_cases hi : i = 0
  · rw [setPred, if_pos hi]
  · by_cases hj : j = 0
    · rw [predOf, predOf, if_pos hj, if_pos hj]
    · rw [predOf, predOf, if_neg hj, if_neg hj, setPred, if_neg hi]
      simp [(toNat_ne h).symm]

/-- The lanes of a mask are those below 96 whose bits it has. -/
theorem mem_lanesOf (m : Mask) (l : Nat) : l ∈ lanesOf m ↔ l < 96 ∧ m.getLsbD l = true := by simp [lanesOf]

/-- A mask word is its 32 bits. -/
theorem maskWord_bit (m : Mask) (k b : Nat) (hb : b < 32) : (maskWord m k).getLsbD b = m.getLsbD (32 * k + b) := by
  simp [maskWord, hb]

/-- A bit of a mask with one word replaced. -/
theorem setMaskWord_bit (m : Mask) (k b : Nat) (v : Word) (hb : b < 96) :
    (setMaskWord m k v).getLsbD b = if 32 * k ≤ b ∧ b < 32 * k + 32 then v.getLsbD (b - 32 * k) else m.getLsbD b := by
  have h32 : (0xFFFFFFFF#96).getLsbD (b - 32 * k) = decide (b - 32 * k < 32) := by
    have h : (0xFFFFFFFF#96) = (BitVec.allOnes 32).setWidth 96 := by decide
    rw [h, BitVec.getLsbD_setWidth, BitVec.getLsbD_allOnes]
    have : b - 32 * k < 96 := by omega
    simp [this]
  simp only [setMaskWord, BitVec.getLsbD_or, BitVec.getLsbD_and, BitVec.getLsbD_not, BitVec.getLsbD_shiftLeft, h32, BitVec.getLsbD_setWidth]
  by_cases h1 : b < 32 * k
  · have h2 : ¬(32 * k ≤ b ∧ b < 32 * k + 32) := by omega
    simp [h1, hb, h2]
  · by_cases h3 : b < 32 * k + 32
    · have h2 : 32 * k ≤ b ∧ b < 32 * k + 32 := by omega
      have h4 : b - 32 * k < 32 := by omega
      have h5 : b - 32 * k < 96 := by omega
      simp [h1, hb, h2, h4, h5]
    · have h2 : ¬(32 * k ≤ b ∧ b < 32 * k + 32) := by omega
      have h4 : ¬ b - 32 * k < 32 := by omega
      have h5 : v.getLsbD (b - 32 * k) = false := BitVec.getLsbD_of_ge v _ (by omega)
      simp [h1, hb, h2, h4, h5]

/-- The next state of a meaning is unique. -/
theorem next_unique {i : Instr} {s t u : State} (h : exec i s = .next t) (h' : exec i s = .next u) : t = u := by
  rw [h] at h'; injection h'

end Sys2Proof.Laws
end

