-- ==== Sys2Proof/Laws/Effects.lean ====
section
/-! SUPPORT. What the operations do that many instructions share: the write of a result, the effect of a lane operation, a fence, a body, a trap. -/

namespace Sys2Proof.Laws

set_option Elab.async false

open Sys2Proof Sys2Proof.Machine

/-! ### The end of an instruction -/

/-- The next word is four bytes on unless an instruction was replayed (R56). -/
theorem nextPc_plain (f : Fragment) (h : f.after = none) : nextPc f = f.pc + 4 := by simp [nextPc, h]

/-- What atPc writes. -/
@[simp] theorem atPc_pc (pc : Word) (f : Fragment) : (atPc pc f).pc = pc := rfl
@[simp] theorem atPc_after (pc : Word) (f : Fragment) : (atPc pc f).after = none := rfl
@[simp] theorem atPc_mask (pc : Word) (f : Fragment) : (atPc pc f).mask = f.mask := rfl
@[simp] theorem atPc_owned (pc : Word) (f : Fragment) : (atPc pc f).owned = f.owned := rfl
@[simp] theorem atPc_queue (pc : Word) (f : Fragment) : (atPc pc f).queue = f.queue := rfl
@[simp] theorem atPc_faults (pc : Word) (f : Fragment) : (atPc pc f).faults = f.faults := rfl
@[simp] theorem atPc_arms (pc : Word) (f : Fragment) : (atPc pc f).arms = f.arms := rfl
@[simp] theorem atPc_bank (pc : Word) (f : Fragment) : (atPc pc f).bank = f.bank := rfl
@[simp] theorem atPc_tx (pc : Word) (f : Fragment) : (atPc pc f).tx = f.tx := rfl
@[simp] theorem atPc_id (pc : Word) (f : Fragment) : (atPc pc f).id = f.id := rfl
/-- A fragment outside every split goes on (R36). -/
theorem atPc_status (pc : Word) (f : Fragment) (h : f.arms = []) : (atPc pc f).status = .running := by simp [atPc, h]

/-- Going on does not change what registers read. -/
@[simp] theorem reg_advance (s : State) (r : Reg) : reg (advance s) r = reg s r := rfl
@[simp] theorem reg_jump (s : State) (t : Word) (r : Reg) : reg (jump s t) r = reg s r := rfl
@[simp] theorem reg_wait (s : State) (k : Nat) (r : Reg) : reg (wait k s) r = reg s r := rfl

/-- A scalar result: what is read from the destination, what from any other register, and that nothing outside the cord changes (R297). -/
theorem result_reg_same (d : Reg) (v : Word) (s : State) (h0 : d ≠ 0) (h : d.toNat < 61) : reg (result d v s) d = v := by
  rw [result, reg_advance, reg_setReg_same s d v h0 h]
theorem result_reg_other (d q : Reg) (v : Word) (s : State) (h : d.toNat < 61) (hq : q ≠ d) : reg (result d v s) q = reg s q := by
  rw [result, reg_advance, reg_setReg_other s d q v h hq]
theorem result_zero (v : Word) (s : State) : result 0 v s = advance s := by
  have h : setReg s 0 v = s := setReg_zero s v
  rw [result, h]
theorem result_outside (d : Reg) (v : Word) (s : State) : { result d v s with cord := s.cord } = s := rfl
@[simp] theorem result_mem (d : Reg) (v : Word) (s : State) : (result d v s).mem = s.mem := rfl
@[simp] theorem resultPair_mem (d : Reg) (v : DWord) (s : State) : (resultPair d v s).mem = s.mem := rfl

/-! ### Lanes -/

/-- A lane of a vector made by a function. -/
@[simp] theorem laneGet_ofFn (f : Fin 96 → Word) (l : Nat) (h : l < 96) : laneGet (Vector.ofFn f) l = f ⟨l, h⟩ := by
  simp [laneGet, Vector.getD, h]
theorem laneGet_laneVec (f : Nat → Word) (l : Nat) (h : l < 96) : laneGet (laneVec f) l = f l := by simp [laneVec, h]

/-- Vectors whose lanes read alike are the same. -/
theorem laneVec_ext (v w : LaneVec) (h : ∀ l, l < 96 → laneGet v l = laneGet w l) : v = w := by
  refine Vector.ext (fun l hl => ?_)
  have := h l hl
  simpa [laneGet, Vector.getD, hl] using this

/-- A bit of one lane's mask. -/
theorem oneLane_bit (l b : Nat) (hb : b < 96) : (1#96 <<< l).getLsbD b = decide (b = l) := by
  by_cases hlt : b < l
  · have : b ≠ l := by omega
    simp [hb, hlt, this]
  · by_cases he : b = l
    · subst he; simp [hb]
    · have : b - l ≠ 0 := by omega
      simp [hb, hlt, he, this]

/-- A bit of the mask of a list of lanes. -/
theorem maskOf_bit (ls : List Nat) (b : Nat) (hb : b < 96) : (maskOf ls).getLsbD b = decide (b ∈ ls) := by
  have aux : ∀ (ls : List Nat) (m : Mask), (ls.foldl (fun m l => m ||| (1#96 <<< l)) m).getLsbD b = (m.getLsbD b || decide (b ∈ ls)) := by
    intro ls
    induction ls with
    | nil => intro m; simp
    | cons x xs ih =>
      intro m
      rw [List.foldl_cons, ih, BitVec.getLsbD_or, oneLane_bit x b hb, Bool.or_assoc]
      congr 1
      by_cases h1 : b = x <;> by_cases h2 : b ∈ xs <;> simp [h1, h2]
  rw [maskOf, aux]
  simp

/-- A bit of the lanes where a test holds. -/
theorem lanesWhere_bit (p : Nat → Bool) (b : Nat) (hb : b < 96) : (lanesWhere p).getLsbD b = p b := by
  rw [lanesWhere, maskOf_bit _ _ hb]
  simp [hb]

/-- The active lanes: those of the mask that the guard admits (R294). -/
theorem activeMask_bit (c : Cord) (o : LaneOp) (l : Nat) (hl : l < 96) :
    (activeMask c o).getLsbD l = (c.frag.mask.getLsbD l && (if o.pneg then !(predOf c o.pidx).getLsbD l else (predOf c o.pidx).getLsbD l)) := by
  rw [activeMask, BitVec.getLsbD_and, guardMask]
  split <;> simp [hl]

/-! ### Fences and bodies -/

/-- A fence waits or goes on; what it has done lies in the cluster caches and memory that the state it answers with holds (R127). -/
theorem fence_cases (rel acq : Bool) (scope : Nat) (s : State) :
    (fence rel acq scope s).1 = none ∨ (fence rel acq scope s).1 = some (fence rel acq scope s).2 := by
  simp only [fence]
  repeat' split
  all_goals first
    | exact Or.inl rfl
    | exact Or.inr rfl

/-- A fence without release and without acquire, or one whose fragment still has lane words to issue, changes nothing. -/
theorem fence_queued (rel acq : Bool) (scope : Nat) (s : State) (h : lanesQueued s.cord.frag = true) : fence rel acq scope s = (none, s) := by
  simp [fence, h]

/-- An instruction that bodies do not support: outside them it has its effect, and in one it dooms the body's lanes and goes on (R154). -/
theorem outsideBody_out (k : State → State) (s : State) (h : anyInBody s.cord.frag = false) : outsideBody k s = k s := by simp [outsideBody, h]
theorem outsideBody_in (k : State → State) (s : State) (h : anyInBody s.cord.frag = true) : outsideBody k s = advance (setFrag (doomAll 7 0) s) := by
  simp [outsideBody, h]

/-! ### Steps -/

/-- A step with no turn chosen chooses the next ones. -/
theorem step_empty (s : State) (h : s.agenda = []) : step s = .next (schedule s) := by simp [step, h]
/-- A step takes the turn at the head of the agenda. -/
theorem step_turn (s : State) (t : Turn) (rest : List Turn) (h : s.agenda = t :: rest) : step s = runTurn t { s with agenda := rest } := by simp [step, h]
/-- An event turn is its event. -/
theorem runTurn_event (i : Instr) (s : State) : runTurn (.event i) s = exec i s := by
  simp only [runTurn, front]
  cases exec i s <;> rfl

/-- A fetch that a scalar turn makes: what it runs, and what it does otherwise. -/
theorem runTurn_rest (t : Turn) (s u : State) (h : front t s = .rest u) : runTurn t s = .next u := by simp [runTurn, h]
theorem runTurn_run (t : Turn) (s b u x : State) (i : Instr) (h : front t s = .run i b u) (hx : exec i u = .next x) : runTurn t s = .next (back t b x) := by
  simp [runTurn, h, hx]

end Sys2Proof.Laws
end

