-- ==== Sys2Proof/Laws/Encoding.lean ====
section
/-! SUPPORT. The codes of types, variants and operations are read back, and the fields of the words that are put together from them. -/

namespace Sys2Proof.Laws

set_option Elab.async false

open Sys2Proof

/-! ### Codes -/

@[simp] theorem laneTyOf_code (t : LaneTy) : laneTyOf (laneTyCode t) = t := by cases t <;> rfl
@[simp] theorem laneTyCode_of (c : BitVec 3) : laneTyCode (laneTyOf c) = c := by revert c; decide
@[simp] theorem variantOf_code (v : Variant) : variantOf (variantCode v) = v := by cases v <;> rfl
@[simp] theorem variantCode_of (c : BitVec 3) : variantCode (variantOf c) = c := by revert c; decide
@[simp] theorem compactKindOf_op8 (k : CompactKind) : compactKindOf (compactOp8 k) = some k := by cases k <;> rfl
theorem compactOp8_of (c : BitVec 8) (k : CompactKind) (h : compactKindOf c = some k) : compactOp8 k = c := by
  have all : ∀ c : BitVec 8, (compactKindOf c).all (fun k => compactOp8 k == c) = true := by decide +kernel
  have := all c
  rw [h] at this
  simpa using this

/-- An operation that shares its op10 with no other is read back whatever its variant and immediate (R288). -/
theorem laneKindOf_op10 (k : LaneKind) (var : Variant) (imm : Word) (h1 : k ≠ .vmov) (h2 : k ≠ .vmovInd) (h3 : k ≠ .vatom) (h4 : k ≠ .vatomNtf) (h5 : k ≠ .vpmovS)
    (h6 : k ≠ .vpmovP) : laneKindOf k.op10 var imm = some k := by
  cases k <;> first | rfl | contradiction
/-- The operations that share one, by what tells them apart (R365, R374, R378). -/
theorem laneKindOf_shared (var : Variant) (imm : Word) :
    laneKindOf LaneKind.vmov.op10 var imm = some (if var = .alt6 then .vmovInd else .vmov) ∧ laneKindOf LaneKind.vmovInd.op10 var imm = some (if var = .alt6 then .vmovInd else .vmov) ∧
    laneKindOf LaneKind.vatom.op10 var imm = some (if imm.getLsbD 7 then .vatomNtf else .vatom) ∧ laneKindOf LaneKind.vatomNtf.op10 var imm = some (if imm.getLsbD 7 then .vatomNtf else .vatom) ∧
    laneKindOf LaneKind.vpmovS.op10 var imm = some (if imm.getLsbD 0 then .vpmovP else .vpmovS) ∧ laneKindOf LaneKind.vpmovP.op10 var imm = some (if imm.getLsbD 0 then .vpmovP else .vpmovS) := by
  refine ⟨rfl, rfl, rfl, rfl, rfl, rfl⟩

/-- Every lane operation names itself. -/
@[simp] theorem lane_instr (k : LaneKind) (o : LaneOp) : (k.instr o).lane? = some (k, o) := by cases k <;> rfl

/-! ### Fields -/

/-- Bits of a joined value: those of the low part, then those of the high part. -/
theorem append_bit {m n : Nat} (x : BitVec m) (y : BitVec n) (i : Nat) : (x ++ y).getLsbD i = if i < n then y.getLsbD i else x.getLsbD (i - n) := by
  rw [BitVec.getLsbD_append]

/-- A field that lies in the high part of a joined value. -/
theorem field_high {m n : Nat} (x : BitVec m) (y : BitVec n) (k w : Nat) : (x ++ y).extractLsb' (n + k) w = x.extractLsb' k w := by
  apply BitVec.eq_of_getLsbD_eq
  intro i hi
  have h1 : ¬ n + k + i < n := by omega
  have h2 : n + k + i - n = k + i := by omega
  simp [BitVec.getLsbD_append, h1, h2]
/-- A field that lies in the low part. -/
theorem field_low {m n : Nat} (x : BitVec m) (y : BitVec n) (k w : Nat) (h : k + w ≤ n) : (x ++ y).extractLsb' k w = y.extractLsb' k w := by
  apply BitVec.eq_of_getLsbD_eq
  intro i hi
  have h1 : k + i < n := by omega
  simp [BitVec.getLsbD_append, h1]

/-- The fields of an SA word (R280). -/
theorem sa_fields (op d a b : BitVec 6) (fn la : BitVec 4) :
    (op ++ d ++ a ++ b ++ fn ++ la : BitVec 32).extractLsb' 26 6 = op ∧ (op ++ d ++ a ++ b ++ fn ++ la : BitVec 32).extractLsb' 20 6 = d ∧
    (op ++ d ++ a ++ b ++ fn ++ la : BitVec 32).extractLsb' 14 6 = a ∧ (op ++ d ++ a ++ b ++ fn ++ la : BitVec 32).extractLsb' 8 6 = b ∧
    (op ++ d ++ a ++ b ++ fn ++ la : BitVec 32).extractLsb' 4 4 = fn ∧ (op ++ d ++ a ++ b ++ fn ++ la : BitVec 32).extractLsb' 0 4 = la := by
  refine ⟨?_, ?_, ?_, ?_, ?_, ?_⟩ <;> apply BitVec.eq_of_getLsbD_eq <;> intro i hi <;> simp <;> grind

/-- A word is its fields (R280). -/
theorem sa_join (w : BitVec 32) :
    w.extractLsb' 26 6 ++ w.extractLsb' 20 6 ++ w.extractLsb' 14 6 ++ w.extractLsb' 8 6 ++ w.extractLsb' 4 4 ++ w.extractLsb' 0 4 = w := by
  apply BitVec.eq_of_getLsbD_eq
  intro i hi
  simp only [append_bit, BitVec.getLsbD_extractLsb']
  repeat' split
  all_goals
    rw [decide_eq_true (by omega), Bool.true_and]
    congr 1
    omega

/-- An unused low nibble is zero exactly when the mask of the opcode table finds it so. -/
theorem low_nibble (w : BitVec 32) : w &&& 0x0000000F#32 = 0#32 ↔ w.extractLsb' 0 4 = 0#4 := by
  constructor
  · intro h
    apply BitVec.eq_of_getLsbD_eq
    intro i hi
    have := congrArg (fun x => x.getLsbD i) h
    have hb : (0x0000000F#32).getLsbD i = true := by
      have : i = 0 ∨ i = 1 ∨ i = 2 ∨ i = 3 := by omega
      rcases this with rfl | rfl | rfl | rfl <;> rfl
    simp only [BitVec.getLsbD_and, hb, Bool.and_true] at this
    simp [this, hi]
  · intro h
    apply BitVec.eq_of_getLsbD_eq
    intro i hi
    by_cases h4 : i < 4
    · have := congrArg (fun x => x.getLsbD i) h
      simp [h4] at this
      simp [this]
    · have hb : (0x0000000F#32).getLsbD i = false := by
        have h15 : (0x0000000F#32) = (0xF#4).setWidth 32 := by decide
        rw [h15, BitVec.getLsbD_setWidth, BitVec.getLsbD_of_ge (0xF#4) i (by omega)]
        simp
      simp only [BitVec.getLsbD_and, hb, Bool.and_false]
      simp

/-- A whole value as a field of itself. -/
theorem field_all {n : Nat} (x : BitVec n) : x.extractLsb' 0 n = x := by simp

/-! The fields of a single lane word (R285). -/

theorem single_imm (k : LaneKind) (o : LaneOp) : (encodeSingle k o).extractLsb' 0 32 = o.imm :=
  (field_low _ o.imm 0 32 (by decide)).trans (field_all _)
theorem single_var (k : LaneKind) (o : LaneOp) : (encodeSingle k o).extractLsb' 32 3 = (variantCode o.var) :=
  (field_high _ o.imm 0 3).trans ((field_low _ (variantCode o.var) 0 3 (by decide)).trans (field_all _))
theorem single_ty (k : LaneKind) (o : LaneOp) : (encodeSingle k o).extractLsb' 35 3 = (laneTyCode o.ty) :=
  (field_high _ o.imm 3 3).trans ((field_high _ (variantCode o.var) 0 3).trans ((field_low _ (laneTyCode o.ty) 0 3 (by decide)).trans (field_all _)))
theorem single_ss (k : LaneKind) (o : LaneOp) : (encodeSingle k o).extractLsb' 38 6 = o.ss :=
  (field_high _ o.imm 6 6).trans ((field_high _ (variantCode o.var) 3 6).trans ((field_high _ (laneTyCode o.ty) 0 6).trans ((field_low _ o.ss 0 6 (by decide)).trans (field_all _))))
theorem single_la (k : LaneKind) (o : LaneOp) : (encodeSingle k o).extractLsb' 44 4 = o.la :=
  (field_high _ o.imm 12 4).trans ((field_high _ (variantCode o.var) 9 4).trans ((field_high _ (laneTyCode o.ty) 6 4).trans ((field_high _ o.ss 0 4).trans ((field_low _ o.la 0 4 (by decide)).trans (field_all _)))))
theorem single_pidx (k : LaneKind) (o : LaneOp) : (encodeSingle k o).extractLsb' 48 3 = o.pidx :=
  (field_high _ o.imm 16 3).trans ((field_high _ (variantCode o.var) 13 3).trans ((field_high _ (laneTyCode o.ty) 10 3).trans ((field_high _ o.ss 4 3).trans ((field_high _ o.la 0 3).trans ((field_low _ o.pidx 0 3 (by decide)).trans (field_all _))))))
theorem single_pneg (k : LaneKind) (o : LaneOp) : (encodeSingle k o).extractLsb' 51 1 = (BitVec.ofBool o.pneg) :=
  (field_high _ o.imm 19 1).trans ((field_high _ (variantCode o.var) 16 1).trans ((field_high _ (laneTyCode o.ty) 13 1).trans ((field_high _ o.ss 7 1).trans ((field_high _ o.la 3 1).trans ((field_high _ o.pidx 0 1).trans ((field_low _ (BitVec.ofBool o.pneg) 0 1 (by decide)).trans (field_all _)))))))
theorem single_vc (k : LaneKind) (o : LaneOp) : (encodeSingle k o).extractLsb' 52 8 = o.vc :=
  (field_high _ o.imm 20 8).trans ((field_high _ (variantCode o.var) 17 8).trans ((field_high _ (laneTyCode o.ty) 14 8).trans ((field_high _ o.ss 8 8).trans ((field_high _ o.la 4 8).trans ((field_high _ o.pidx 1 8).trans ((field_high _ (BitVec.ofBool o.pneg) 0 8).trans ((field_low _ o.vc 0 8 (by decide)).trans (field_all _))))))))
theorem single_vb (k : LaneKind) (o : LaneOp) : (encodeSingle k o).extractLsb' 60 8 = o.vb :=
  (field_high _ o.imm 28 8).trans ((field_high _ (variantCode o.var) 25 8).trans ((field_high _ (laneTyCode o.ty) 22 8).trans ((field_high _ o.ss 16 8).trans ((field_high _ o.la 12 8).trans ((field_high _ o.pidx 9 8).trans ((field_high _ (BitVec.ofBool o.pneg) 8 8).trans ((field_high _ o.vc 0 8).trans ((field_low _ o.vb 0 8 (by decide)).trans (field_all _)))))))))
theorem single_va (k : LaneKind) (o : LaneOp) : (encodeSingle k o).extractLsb' 68 8 = o.va :=
  (field_high _ o.imm 36 8).trans ((field_high _ (variantCode o.var) 33 8).trans ((field_high _ (laneTyCode o.ty) 30 8).trans ((field_high _ o.ss 24 8).trans ((field_high _ o.la 20 8).trans ((field_high _ o.pidx 17 8).trans ((field_high _ (BitVec.ofBool o.pneg) 16 8).trans ((field_high _ o.vc 8 8).trans ((field_high _ o.vb 0 8).trans ((field_low _ o.va 0 8 (by decide)).trans (field_all _))))))))))
theorem single_vd (k : LaneKind) (o : LaneOp) : (encodeSingle k o).extractLsb' 76 8 = o.vd :=
  (field_high _ o.imm 44 8).trans ((field_high _ (variantCode o.var) 41 8).trans ((field_high _ (laneTyCode o.ty) 38 8).trans ((field_high _ o.ss 32 8).trans ((field_high _ o.la 28 8).trans ((field_high _ o.pidx 25 8).trans ((field_high _ (BitVec.ofBool o.pneg) 24 8).trans ((field_high _ o.vc 16 8).trans ((field_high _ o.vb 8 8).trans ((field_high _ o.va 0 8).trans ((field_low _ o.vd 0 8 (by decide)).trans (field_all _)))))))))))
theorem single_op10 (k : LaneKind) (o : LaneOp) : (encodeSingle k o).extractLsb' 84 10 = k.op10 :=
  (field_high _ o.imm 52 10).trans ((field_high _ (variantCode o.var) 49 10).trans ((field_high _ (laneTyCode o.ty) 46 10).trans ((field_high _ o.ss 40 10).trans ((field_high _ o.la 36 10).trans ((field_high _ o.pidx 33 10).trans ((field_high _ (BitVec.ofBool o.pneg) 32 10).trans ((field_high _ o.vc 24 10).trans ((field_high _ o.vb 16 10).trans ((field_high _ o.va 8 10).trans ((field_high _ o.vd 0 10).trans ((field_low _ k.op10 0 10 (by decide)).trans (field_all _))))))))))))
theorem single_kind (k : LaneKind) (o : LaneOp) : (encodeSingle k o).extractLsb' 94 2 = 0#2 :=
  (field_high _ o.imm 62 2).trans ((field_high _ (variantCode o.var) 59 2).trans ((field_high _ (laneTyCode o.ty) 56 2).trans ((field_high _ o.ss 50 2).trans ((field_high _ o.la 46 2).trans ((field_high _ o.pidx 43 2).trans ((field_high _ (BitVec.ofBool o.pneg) 42 2).trans ((field_high _ o.vc 34 2).trans ((field_high _ o.vb 26 2).trans ((field_high _ o.va 18 2).trans ((field_high _ o.vd 10 2).trans ((field_high _ k.op10 0 2).trans (field_all 0#2))))))))))))

end Sys2Proof.Laws
end

