-- ==== Sys2Proof/Laws/Memory.lean ====
section
/-! SUPPORT. What the operations on memory do: the canonical form is kept, a byte read after a write is the byte written, and every other byte is as before. -/

namespace Sys2Proof.Laws

set_option Elab.async false

open Sys2Proof Sys2Proof.Machine

/-! ### The canonical form -/

@[simp] theorem wf_nil : Memory.wf [] = true := rfl

/-- The canonical form of a list is that of its tail, with a head that lies below it and is listed for a reason. -/
theorem wf_cons (k : Nat) (w : Byte) (r : Memory) :
    Memory.wf ((k, w) :: r) = true ↔ w ≠ Memory.unlisted ∧ (∀ c ∈ r, k < c.1) ∧ Memory.wf r = true := by
  induction r generalizing k w with
  | nil => simp [Memory.wf]
  | cons c r ih =>
    obtain ⟨k', w'⟩ := c
    have h : Memory.wf ((k, w) :: (k', w') :: r) = (w != Memory.unlisted && decide (k < k') && Memory.wf ((k', w') :: r)) := rfl
    rw [h]
    simp only [Bool.and_eq_true, bne_iff_ne, decide_eq_true_eq, List.mem_cons]
    constructor
    · rintro ⟨⟨h1, h2⟩, h3⟩
      refine ⟨h1, ?_, h3⟩
      rintro c (rfl | hc)
      · exact h2
      · exact Nat.lt_trans h2 (((ih k' w').mp h3).2.1 c hc)
    · rintro ⟨h1, h2, h3⟩
      exact ⟨⟨h1, h2 _ (Or.inl rfl)⟩, h3⟩

/-- An address below every listed one reads as an unlisted one. -/
theorem memGet_below (m : Memory) (a : Nat) (h : ∀ c ∈ m, a < c.1) : memGet m a = Memory.unlisted := by
  cases m with
  | nil => rfl
  | cons c r =>
    obtain ⟨k, w⟩ := c
    have : a < k := h _ (List.mem_cons_self ..)
    simp [memGet, Nat.ne_of_lt this, this]

/-- A listed byte lies at an address of the old list or at the one written. -/
theorem mem_memSet (m : Memory) (a : Nat) (v : Byte) (c : Nat × Byte) (h : c ∈ memSet m a v) : c ∈ m ∨ c.1 = a := by
  induction m with
  | nil =>
    simp only [memSet] at h
    split at h
    · cases h
    · simp at h; exact Or.inr (by rw [h])
  | cons x r ih =>
    obtain ⟨k, w⟩ := x
    simp only [memSet] at h
    split at h
    · split at h
      · exact Or.inl h
      · rcases List.mem_cons.mp h with h | h
        · exact Or.inr (by rw [h])
        · exact Or.inl h
    · split at h
      · split at h
        · exact Or.inl (List.mem_cons_of_mem _ h)
        · rcases List.mem_cons.mp h with h | h
          · exact Or.inr (by rw [h]; simp_all)
          · exact Or.inl (List.mem_cons_of_mem _ h)
      · rcases List.mem_cons.mp h with h | h
        · exact Or.inl (by rw [h]; exact List.mem_cons_self ..)
        · exact (ih h).imp (List.mem_cons_of_mem _) id

/-- Writing one byte keeps the canonical form. -/
theorem memSet_wf (m : Memory) (a : Nat) (v : Byte) (h : Memory.wf m = true) : Memory.wf (memSet m a v) = true := by
  induction m with
  | nil =>
    simp only [memSet]
    split
    · rfl
    · rename_i hv; simp [Memory.wf, hv]
  | cons x r ih =>
    obtain ⟨k, w⟩ := x
    obtain ⟨h1, h2, h3⟩ := (wf_cons k w r).mp h
    simp only [memSet]
    split
    · rename_i hk
      split
      · exact h
      · rename_i hv
        refine (wf_cons a v _).mpr ⟨hv, ?_, h⟩
        intro c hc
        rcases List.mem_cons.mp hc with hc | hc
        · rw [hc]; exact hk
        · exact Nat.lt_trans hk (h2 c hc)
    · split
      · split
        · exact h3
        · rename_i hv; exact (wf_cons k v r).mpr ⟨hv, h2, h3⟩
      · rename_i hk hne
        refine (wf_cons k w _).mpr ⟨h1, ?_, ih h3⟩
        intro c hc
        rcases mem_memSet r a v c hc with hc | hc
        · exact h2 c hc
        · omega

/-- Writing a number keeps the canonical form. -/
theorem memWrite_wf (n : Nat) (m : Memory) (a v : Nat) (h : Memory.wf m = true) : Memory.wf (memWrite m a n v) = true := by
  induction n generalizing m a v with
  | zero => exact h
  | succ n ih => exact ih _ _ _ (memSet_wf m a _ h)

/-- Writing the bytes that a mask names keeps the canonical form. -/
theorem memWriteMask_wf (n : Nat) (m : Memory) (a v mask : Nat) (h : Memory.wf m = true) : Memory.wf (memWriteMask m a n v mask) = true := by
  induction n generalizing m a v mask with
  | zero => exact h
  | succ n ih =>
    simp only [memWriteMask]
    refine ih _ _ _ _ ?_
    split
    · exact memSet_wf m a _ h
    · exact h

/-- Removing some of the listed bytes keeps the canonical form. -/
theorem filter_wf (m : Memory) (p : Nat × Byte → Bool) (h : Memory.wf m = true) : Memory.wf (m.filter p) = true := by
  induction m with
  | nil => rfl
  | cons x r ih =>
    obtain ⟨k, w⟩ := x
    obtain ⟨h1, h2, h3⟩ := (wf_cons k w r).mp h
    simp only [List.filter_cons]
    split
    · exact (wf_cons k w _).mpr ⟨h1, fun c hc => h2 c ((List.mem_filter.mp hc).1), ih h3⟩
    · exact ih h3

/-- Removing a range keeps the canonical form. -/
theorem memClear_wf (m : Memory) (lo hi : Nat) (h : Memory.wf m = true) : Memory.wf (memClear m lo hi) = true := filter_wf m _ h

/-- A list of writes of one byte keeps the canonical form. -/
theorem foldl_memSet_wf {α : Type} (f : α → Nat) (g : α → Byte) (xs : List α) (m : Memory) (h : Memory.wf m = true) :
    Memory.wf (xs.foldl (fun m c => memSet m (f c) (g c)) m) = true := by
  induction xs generalizing m with
  | nil => exact h
  | cons x xs ih => exact ih _ (memSet_wf m _ _ h)

/-- Memory after reset has the canonical form, and it lists nothing. -/
theorem reset_memory : State.reset.mem = [] ∧ Memory.wf State.reset.mem = true := ⟨rfl, rfl⟩

/-! ### Reading after writing -/

/-- A byte read after one byte is written: the byte written there, every other one as before. -/
theorem memGet_memSet (m : Memory) (a b : Nat) (v : Byte) (h : Memory.wf m = true) :
    memGet (memSet m a v) b = if b = a then v else memGet m b := by
  induction m with
  | nil =>
    simp only [memSet]
    split
    · rename_i hv; simp [memGet, hv]
    · by_cases hb : b = a <;> simp [memGet, hb]
  | cons x r ih =>
    obtain ⟨k, w⟩ := x
    obtain ⟨h1, h2, h3⟩ := (wf_cons k w r).mp h
    simp only [memSet]
    split
    · rename_i hk
      split
      · rename_i hv
        split
        · rename_i hb
          subst hb
          rw [memGet_below _ _ ?_, hv]
          intro c hc
          rcases List.mem_cons.mp hc with hc | hc
          · rw [hc]; exact hk
          · exact Nat.lt_trans hk (h2 c hc)
        · rfl
      · by_cases hb : b = a
        · simp [memGet, hb]
        · by_cases hlt : b < a
          · have : b < k := by omega
            simp [memGet, hb, hlt, this, Nat.ne_of_lt this]
          · simp [memGet, hb, hlt]
    · split
      · rename_i hk ha
        subst ha
        split
        · rename_i hv
          by_cases hb : b = a
          · subst hb
            rw [memGet_below r b h2, hv]
            simp
          · by_cases hlt : b < a
            · simp only [hb, if_false]
              rw [memGet_below r b (fun c hc => Nat.lt_trans hlt (h2 c hc))]
              simp [memGet, hb, hlt]
            · simp [memGet, hb, hlt]
        · by_cases hb : b = a <;> simp [memGet, hb]
      · rename_i hk ha
        simp only [memGet, ih h3]
        by_cases hb : b = a
        · subst hb
          simp [ha, hk]
        · simp [hb]

theorem memGet_memSet_same (m : Memory) (a : Nat) (v : Byte) (h : Memory.wf m = true) : memGet (memSet m a v) a = v := by
  simp [memGet_memSet m a a v h]

theorem memGet_memSet_other (m : Memory) (a b : Nat) (v : Byte) (h : Memory.wf m = true) (hb : b ≠ a) :
    memGet (memSet m a v) b = memGet m b := by
  simp [memGet_memSet m a b v h, hb]

/-- A byte read after a number is written: one of its bytes inside the range, and as before outside it. -/
theorem memGet_memWrite (n : Nat) (m : Memory) (a v b : Nat) (h : Memory.wf m = true) :
    memGet (memWrite m a n v) b = if a ≤ b ∧ b < a + n then BitVec.ofNat 8 (v / 256 ^ (b - a)) else memGet m b := by
  induction n generalizing m a v with
  | zero => rw [if_neg (by omega)]; rfl
  | succ n ih =>
    rw [memWrite, ih _ _ _ (memSet_wf m a _ h), memGet_memSet _ _ _ _ h]
    by_cases hb : b = a
    · subst hb
      have h1 : ¬(b + 1 ≤ b ∧ b < b + 1 + n) := by omega
      have h2 : b ≤ b ∧ b < b + (n + 1) := by omega
      rw [if_neg h1, if_pos rfl, if_pos h2]
      simp
    · by_cases hr : a + 1 ≤ b ∧ b < a + 1 + n
      · have hr' : a ≤ b ∧ b < a + (n + 1) := by omega
        have hd : b - a = (b - (a + 1)) + 1 := by omega
        simp only [hr, hr', and_self, if_true]
        rw [hd, Nat.pow_succ', Nat.div_div_eq_div_mul]
      · have hr' : ¬(a ≤ b ∧ b < a + (n + 1)) := by omega
        rw [if_neg hr, if_neg hb, if_neg hr']

theorem memGet_memWrite_other (n : Nat) (m : Memory) (a v b : Nat) (h : Memory.wf m = true) (hb : b < a ∨ a + n ≤ b) :
    memGet (memWrite m a n v) b = memGet m b := by
  rw [memGet_memWrite n m a v b h, if_neg (by omega)]

/-- Bytes that read alike one by one read alike together. -/
theorem memRead_congr (n : Nat) (m m' : Memory) (a : Nat) (h : ∀ b, a ≤ b → b < a + n → memGet m b = memGet m' b) : memRead m a n = memRead m' a n := by
  induction n generalizing a with
  | zero => rfl
  | succ n ih =>
    rw [memRead, memRead, h a (Nat.le_refl a) (by omega), ih (a + 1) (fun b h1 h2 => h b (by omega) (by omega))]

/-- Bytes read away from those written are as before. -/
theorem memRead_memWrite_other (k n : Nat) (m : Memory) (a v b : Nat) (h : Memory.wf m = true) (hb : b + k ≤ a ∨ a + n ≤ b) :
    memRead (memWrite m a n v) b k = memRead m b k :=
  memRead_congr k _ _ b (fun c h1 h2 => memGet_memWrite_other n m a v c h (by omega))

/-- A number of n bytes is below 256 ^ n. -/
theorem memRead_lt (n : Nat) (m : Memory) (a : Nat) : memRead m a n < 256 ^ n := by
  induction n generalizing a with
  | zero => simp [memRead]
  | succ n ih =>
    have h1 := ih (a + 1)
    have h2 := (memGet m a).isLt
    rw [memRead, Nat.pow_succ]
    omega

/-- The bytes of a number are read back as the number. -/
theorem memRead_memWrite (n : Nat) (m : Memory) (a v : Nat) (h : Memory.wf m = true) : memRead (memWrite m a n v) a n = v % 256 ^ n := by
  induction n generalizing m a v with
  | zero => simp [memRead, Nat.mod_one]
  | succ n ih =>
    have hw := memSet_wf m a (BitVec.ofNat 8 v) h
    have e : v % 256 ^ (n + 1) = v % 256 + 256 * (v / 256 % 256 ^ n) := by rw [Nat.pow_succ', Nat.mod_mul]
    rw [e, memRead, memWrite, ih _ _ _ hw, memGet_memWrite_other n _ (a + 1) _ a hw (Or.inl (Nat.lt_succ_self a)), memGet_memSet_same m a _ h,
      BitVec.toNat_ofNat]

/-- A byte read after a masked write: the value's byte where the mask has its bit, and as before elsewhere. -/
theorem memGet_memWriteMask (n : Nat) (m : Memory) (a v mask b : Nat) (h : Memory.wf m = true) :
    memGet (memWriteMask m a n v mask) b = if a ≤ b ∧ b < a + n ∧ mask.testBit (b - a) = true then BitVec.ofNat 8 (v / 256 ^ (b - a)) else memGet m b := by
  induction n generalizing m a v mask with
  | zero =>
    rw [if_neg (by omega)]
    rfl
  | succ n ih =>
    have hw : Memory.wf (if mask % 2 = 1 then memSet m a (BitVec.ofNat 8 v) else m) = true := by
      split
      · exact memSet_wf m a _ h
      · exact h
    rw [memWriteMask, ih _ _ _ _ hw]
    by_cases hb : b = a
    · subst hb
      have h1 : ¬(b + 1 ≤ b ∧ b < b + 1 + n ∧ (mask / 2).testBit (b - (b + 1)) = true) := by omega
      rw [if_neg h1]
      by_cases hm : mask % 2 = 1
      · have h2 : b ≤ b ∧ b < b + (n + 1) ∧ mask.testBit (b - b) = true := by simp [Nat.testBit_zero, hm]
        rw [if_pos h2, if_pos hm, memGet_memSet_same m b _ h]
        simp
      · have h2 : ¬(b ≤ b ∧ b < b + (n + 1) ∧ mask.testBit (b - b) = true) := by simp [Nat.testBit_zero, hm]
        rw [if_neg h2, if_neg hm]
    · have hg : memGet (if mask % 2 = 1 then memSet m a (BitVec.ofNat 8 v) else m) b = memGet m b := by
        split
        · exact memGet_memSet_other m a b _ h hb
        · rfl
      rw [hg]
      by_cases hr : a + 1 ≤ b ∧ b < a + 1 + n
      · have hd : b - a = (b - (a + 1)) + 1 := by omega
        have ht : mask.testBit (b - a) = (mask / 2).testBit (b - (a + 1)) := by rw [hd, Nat.testBit_succ]
        by_cases hbit : (mask / 2).testBit (b - (a + 1)) = true
        · rw [if_pos ⟨hr.1, hr.2, hbit⟩, if_pos ⟨by omega, by omega, ht.trans hbit⟩, hd, Nat.pow_succ', Nat.div_div_eq_div_mul]
        · rw [if_neg (fun c => hbit c.2.2), if_neg (fun c => hbit (ht ▸ c.2.2))]
      · rw [if_neg (fun c => hr ⟨c.1, c.2.1⟩), if_neg (fun c => hr ⟨by omega, by omega⟩)]

/-- A byte read after a range is removed. -/
theorem memGet_memClear (m : Memory) (lo hi b : Nat) (h : Memory.wf m = true) :
    memGet (memClear m lo hi) b = if lo ≤ b ∧ b < hi then Memory.unlisted else memGet m b := by
  induction m with
  | nil => simp [memClear, memGet]
  | cons x r ih =>
    obtain ⟨k, w⟩ := x
    obtain ⟨h1, h2, h3⟩ := (wf_cons k w r).mp h
    have ih := ih h3
    simp only [memClear] at ih ⊢
    rw [List.filter_cons]
    by_cases hk : lo ≤ k ∧ k < hi
    · have hf : (!(decide (lo ≤ k) && decide (k < hi))) = false := by simp [hk]
      simp only [hf, Bool.false_eq_true, if_false]
      rw [ih]
      by_cases hr : lo ≤ b ∧ b < hi
      · simp [hr]
      · simp only [hr, if_false, memGet]
        by_cases hb : b = k
        · subst hb; exact absurd hk hr
        · by_cases hlt : b < k
          · simp only [hb, hlt, if_false, if_true]
            exact memGet_below r b (fun c hc => Nat.lt_trans hlt (h2 c hc))
          · simp [hb, hlt]
    · have hf : (!(decide (lo ≤ k) && decide (k < hi))) = true := by
        simp only [Bool.not_eq_true', Bool.and_eq_false_iff, decide_eq_false_iff_not]; omega
      simp only [hf, if_true, memGet, ih]
      by_cases hb : b = k
      · subst hb; simp [hk]
      · by_cases hlt : b < k
        · simp only [hb, hlt, if_false, if_true]
          split <;> rfl
        · simp [hb, hlt]

end Sys2Proof.Laws
end

