-- ==== Sys2Proof/Laws/KeptBase.lean ====
section
/-! SUPPORT. Folds, optional states and pieces of a read: what keeps memory in canonical form at each step keeps it as a whole. -/

namespace Sys2Proof.Laws

set_option Elab.async false

open Sys2Proof Sys2Proof.Machine

/-- A fold keeps what each of its steps keeps. -/
theorem foldl_wf {α : Type} (f : State → α → State) (xs : List α) (s : State) (h : Memory.wf s.mem = true)
    (hf : ∀ s x, Memory.wf s.mem = true → Memory.wf (f s x).mem = true) : Memory.wf (xs.foldl f s).mem = true := by
  induction xs generalizing s with
  | nil => exact h
  | cons x xs ih => exact ih _ (hf s x h)

/-- The same for a fold of memory. -/
theorem foldl_memory_wf {α : Type} (f : Memory → α → Memory) (xs : List α) (m : Memory) (h : Memory.wf m = true)
    (hf : ∀ m x, Memory.wf m = true → Memory.wf (f m x) = true) : Memory.wf (xs.foldl f m) = true := by
  induction xs generalizing m with
  | nil => exact h
  | cons x xs ih => exact ih _ (hf m x h)

/-- The same for a fold that carries something beside the state. -/
theorem foldl_pair_wf {α β : Type} (f : β × State → α → β × State) (xs : List α) (p : β × State) (h : Memory.wf p.2.mem = true)
    (hf : ∀ p x, Memory.wf p.2.mem = true → Memory.wf (f p x).2.mem = true) : Memory.wf (xs.foldl f p).2.mem = true := by
  induction xs generalizing p with
  | nil => exact h
  | cons x xs ih => exact ih _ (hf p x h)

/-- A state, or the one it may be replaced by. -/
theorem getD_wf (o : Option State) (s : State) (hm : Memory.wf s.mem = true) (ho : ∀ u, o = some u → Memory.wf u.mem = true) : Memory.wf (o.getD s).mem = true := by
  cases o with
  | none => exact hm
  | some u => exact ho u rfl

/-- The state that a meaning answers. -/
theorem stateOf_wf (s : State) (r : Result) (hm : Memory.wf s.mem = true) (hr : ∀ u, r = .next u → Memory.wf u.mem = true) : Memory.wf (stateOf s r).mem = true := by
  cases r with
  | next t => exact hr t rfl
  | fault f => exact hm
  | refused x => exact hm

/-- Pieces read in turn keep what each read keeps. -/
theorem readPieces_wf (rd : Nat → Nat → State → Got × State) (ps : List (Nat × Nat)) (s : State) (hm : Memory.wf s.mem = true)
    (hr : ∀ a b s, Memory.wf s.mem = true → Memory.wf (rd a b s).2.mem = true) : Memory.wf (readPieces rd ps s).2.mem = true := by
  induction ps generalizing s with
  | nil => exact hm
  | cons p ps ih =>
    obtain ⟨off, len⟩ := p
    have h1 := ih _ (hr off len s hm)
    simp only [readPieces]
    split <;> exact h1

theorem writePieces_wf (wr : Nat → Nat → Nat → State → Got × State) (v : Nat) (ps : List (Nat × Nat)) (s : State) (hm : Memory.wf s.mem = true)
    (hr : ∀ a b c s, Memory.wf s.mem = true → Memory.wf (wr a b c s).2.mem = true) : Memory.wf (writePieces wr v ps s).2.mem = true := by
  induction ps generalizing s v with
  | nil => exact hm
  | cons p ps ih =>
    obtain ⟨off, len⟩ := p
    have h1 := ih (v / 2 ^ (8 * len)) _ (hr off len (v % 2 ^ (8 * len)) s hm)
    simp only [writePieces]
    split <;> exact h1

end Sys2Proof.Laws
end

