-- ==== Sys2Proof/Laws/KeptAccess.lean ====
section
/-! SUPPORT. The shared operations keep memory in canonical form: slices, translation, scratch, accesses, traps, the end of a launch. Each lemma is named after its operation. -/

namespace Sys2Proof.Laws

set_option Elab.async false

open Sys2Proof Sys2Proof.Machine

theorem wakeLine_wf (pa : Nat) (s : State) (hm : Memory.wf s.mem = true) :
    Memory.wf (wakeLine pa s).mem = true := by
  grind -ring -linarith -lia -order -ac [wakeLine]
theorem wakeLines_wf (pa n : Nat) (s : State) (hm : Memory.wf s.mem = true) :
    Memory.wf (wakeLines pa n s).mem = true := by
  grind -ring -linarith -lia -order -ac [wakeLines, wakeLine_wf, foldl_wf, foldl_memory_wf, foldl_pair_wf]
theorem setCore_wf (s : State) (c : CoreId) (f : Core → Core) (hm : Memory.wf s.mem = true) :
    Memory.wf (setCore s c f).mem = true := by
  grind -ring -linarith -lia -order -ac [setCore]
theorem setCluster_wf (s : State) (c : ClusterId) (f : Cluster → Cluster) (hm : Memory.wf s.mem = true) :
    Memory.wf (setCluster s c f).mem = true := by
  grind -ring -linarith -lia -order -ac [setCluster]
theorem setPart_wf (s : State) (p : PartId) (f : Partition → Partition) (hm : Memory.wf s.mem = true) :
    Memory.wf (setPart s p f).mem = true := by
  grind -ring -linarith -lia -order -ac [setPart]
theorem setDie_wf (s : State) (d : DieId) (f : Die → Die) (hm : Memory.wf s.mem = true) :
    Memory.wf (setDie s d f).mem = true := by
  grind -ring -linarith -lia -order -ac [setDie]
theorem setQuad_wf (s : State) (q : QuadId) (f : List NbCmd → List NbCmd) (hm : Memory.wf s.mem = true) :
    Memory.wf (setQuad s q f).mem = true := by
  grind -ring -linarith -lia -order -ac [setQuad]
theorem fresh_wf (s : State) (hm : Memory.wf s.mem = true) :
    Memory.wf (fresh s).2.mem = true := by
  grind -ring -linarith -lia -order -ac [fresh]
theorem draw_wf (s : State) (hm : Memory.wf s.mem = true) :
    Memory.wf (draw s).2.mem = true := by
  grind -ring -linarith -lia -order -ac [draw]
theorem selectCord_wf (s : State) (id : CordId) (hm : Memory.wf s.mem = true) :
    Memory.wf (selectCord s id).mem = true := by
  grind -ring -linarith -lia -order -ac [selectCord]
theorem mapCords_wf (f : Cord → Cord) (s : State) (hm : Memory.wf s.mem = true) :
    Memory.wf (mapCords f s).mem = true := by
  grind -ring -linarith -lia -order -ac [mapCords]
theorem setCord_wf (f : Cord → Cord) (s : State) (hm : Memory.wf s.mem = true) :
    Memory.wf (setCord f s).mem = true := by
  grind -ring -linarith -lia -order -ac [setCord]
theorem setFrag_wf (f : Fragment → Fragment) (s : State) (hm : Memory.wf s.mem = true) :
    Memory.wf (setFrag f s).mem = true := by
  grind -ring -linarith -lia -order -ac [setFrag]
theorem setReg_wf (s : State) (r : Reg) (v : Word) (hm : Memory.wf s.mem = true) :
    Memory.wf (setReg s r v).mem = true := by
  grind -ring -linarith -lia -order -ac [setReg]
theorem setPair_wf (s : State) (r : Reg) (v : DWord) (hm : Memory.wf s.mem = true) :
    Memory.wf (setPair s r v).mem = true := by
  grind -ring -linarith -lia -order -ac [setPair, setReg_wf]
theorem dropContexts_wf (k : CoreId) (s : State) (hm : Memory.wf s.mem = true) :
    Memory.wf (dropContexts k s).mem = true := by
  grind -ring -linarith -lia -order -ac [dropContexts, setCore_wf]
theorem advance_wf (s : State) (hm : Memory.wf s.mem = true) :
    Memory.wf (advance s).mem = true := by
  grind -ring -linarith -lia -order -ac [advance, setFrag_wf]
theorem jump_wf (s : State) (t : Word) (hm : Memory.wf s.mem = true) :
    Memory.wf (jump s t).mem = true := by
  grind -ring -linarith -lia -order -ac [jump, setFrag_wf]
theorem wait_wf (code : Nat) (s : State) (hm : Memory.wf s.mem = true) :
    Memory.wf (wait code s).mem = true := by
  grind -ring -linarith -lia -order -ac [wait, setFrag_wf]
theorem raiseMsix_wf (v : Nat) (s : State) (hm : Memory.wf s.mem = true) :
    Memory.wf (raiseMsix v s).mem = true := by
  grind -ring -linarith -lia -order -ac [raiseMsix]
theorem writeMsix_wf (e : MsixEntry) (s : State) (hm : Memory.wf s.mem = true) :
    Memory.wf (writeMsix e s).mem = true := by
  grind -ring -linarith -lia -order -ac [writeMsix, raiseMsix_wf]
theorem setCount_wf (cls : ErrClass) (f : ErrCount → ErrCount) (s : State) (hm : Memory.wf s.mem = true) :
    Memory.wf (setCount cls f s).mem = true := by
  grind -ring -linarith -lia -order -ac [setCount]
theorem countError_wf (cls : ErrClass) (s : State) (hm : Memory.wf s.mem = true) :
    Memory.wf (countError cls s).mem = true := by
  grind -ring -linarith -lia -order -ac [countError, setCount_wf]
theorem setThreshold_wf (cls : ErrClass) (limit vector : Option Nat) (s : State) (hm : Memory.wf s.mem = true) :
    Memory.wf (setThreshold cls limit vector s).mem = true := by
  grind -ring -linarith -lia -order -ac [setThreshold, setCount_wf]
theorem addValue_wf (line : Nat) (v : BitVec 1024) (s : State) (hm : Memory.wf s.mem = true) :
    Memory.wf (addValue line v s).mem = true := by
  grind -ring -linarith -lia -order -ac [addValue]
theorem setPeer_wf (p : PkgNo) (f : Peer → Peer) (s : State) (hm : Memory.wf s.mem = true) :
    Memory.wf (setPeer p f s).mem = true := by
  grind -ring -linarith -lia -order -ac [setPeer]
theorem sendMsg_wf (dst : PkgNo) (m : OutMsg) (s : State) (hm : Memory.wf s.mem = true) :
    Memory.wf (sendMsg dst m s).mem = true := by
  grind -ring -linarith -lia -order -ac [sendMsg, setPeer_wf]
theorem sendBulk_wf (dst : PkgNo) (pa : Nat) (m : OutMsg) (s : State) (hm : Memory.wf s.mem = true) :
    Memory.wf (sendBulk dst pa m s).mem = true := by
  grind -ring -linarith -lia -order -ac [sendBulk, sendMsg_wf]
theorem usedOnce_wf (w : Want) (s : State) (hm : Memory.wf s.mem = true) :
    Memory.wf (usedOnce w s).mem = true := by
  grind -ring -linarith -lia -order -ac [usedOnce, setDie_wf]
theorem dropOlder_wf (w : Want) (s : State) (hm : Memory.wf s.mem = true) :
    Memory.wf (dropOlder w s).mem = true := by
  grind -ring -linarith -lia -order -ac [dropOlder, addValue_wf, foldl_wf, foldl_memory_wf, foldl_pair_wf]
theorem sendNow_wf (w : Want) (s : State) (hm : Memory.wf s.mem = true) :
    Memory.wf (sendNow w s).2.mem = true := by
  (unfold sendNow; repeat' split) <;> grind -ring -linarith -lia -order -ac [sendMsg_wf, sendBulk_wf, usedOnce_wf, dropOlder_wf]
theorem dropHeld_wf (line : Nat) (s : State) (hm : Memory.wf s.mem = true) :
    Memory.wf (dropHeld line s).mem = true := by
  grind -ring -linarith -lia -order -ac [dropHeld, addValue_wf, foldl_wf, foldl_memory_wf, foldl_pair_wf]
theorem evictHeld_wf (x : PartnerLine) (s : State) (hm : Memory.wf s.mem = true) :
    ∀ u, evictHeld x s = some u → Memory.wf u.mem = true := by
  grind -ring -linarith -lia -order -ac [evictHeld, sendNow_wf, dropHeld_wf]
theorem sendReq_wf (w : Want) (s : State) (hm : Memory.wf s.mem = true) :
    Memory.wf (sendReq w s).2.mem = true := by
  have key : ∀ (xs : List PartnerLine) (o : Option State), (∀ u, o = some u → Memory.wf u.mem = true) →
      ∀ u, xs.foldl (fun t x => t.bind (evictHeld x)) o = some u → Memory.wf u.mem = true := by
    intro xs
    induction xs with
    | nil => intro o h u hu; exact h u hu
    | cons x xs ih =>
      intro o h u hu
      refine ih _ (fun v hv => ?_) u hu
      cases o with
      | none => cases hv
      | some w => exact evictHeld_wf x w (h w rfl) v hv
  unfold sendReq
  split
  · rename_i he
    exact sendNow_wf _ _ (key _ (some s) (fun u hu => by cases hu; exact hm) _ he)
  · exact hm
theorem askOwner_wf (s : State) (d : DieId) (g : Gfn) (registrar : PkgNo) (hm : Memory.wf s.mem = true) :
    Memory.wf (askOwner s d g registrar).mem = true := by
  grind -ring -linarith -lia -order -ac [askOwner, sendReq_wf]
theorem flushHosts_wf (s : State) (hm : Memory.wf s.mem = true) :
    Memory.wf (flushHosts s).mem = true := by
  grind -ring -linarith -lia -order -ac [flushHosts]
theorem mapHosts_wf (f : HostCore → HostCore) (s : State) (hm : Memory.wf s.mem = true) :
    Memory.wf (mapHosts f s).mem = true := by
  grind -ring -linarith -lia -order -ac [mapHosts]
theorem hostConflict_wf (line : Nat) (isWrite : Bool) (s : State) (hm : Memory.wf s.mem = true) :
    Memory.wf (hostConflict line isWrite s).mem = true := by
  grind -ring -linarith -lia -order -ac [hostConflict, flushHosts_wf, mapHosts_wf]
theorem keepText_wf (line : Nat) (v : BitVec 1024) (s : State) (hm : Memory.wf s.mem = true) :
    Memory.wf (keepText line v s).mem = true := by
  grind -ring -linarith -lia -order -ac [keepText]
theorem noteText_wf (line : Nat) (s : State) (hm : Memory.wf s.mem = true) :
    Memory.wf (noteText line s).mem = true := by
  grind -ring -linarith -lia -order -ac [noteText, keepText_wf]
theorem touchMask_wf (ag : Agent) (kind pa mask : Nat) (s : State) (hm : Memory.wf s.mem = true) :
    Memory.wf (touchMask ag kind pa mask s).mem = true := by
  grind -ring -linarith -lia -order -ac [touchMask, wakeLine_wf, hostConflict_wf, addValue_wf, noteText_wf]
theorem touchSlice_wf (ag : Agent) (kind pa n : Nat) (s : State) (hm : Memory.wf s.mem = true) :
    Memory.wf (touchSlice ag kind pa n s).mem = true := by
  grind -ring -linarith -lia -order -ac [touchSlice, touchMask_wf]
theorem sendCoh_wf (fn line : Nat) (p : PkgNo) (s : State) (hm : Memory.wf s.mem = true) :
    Memory.wf (sendCoh fn line p s).mem = true := by
  grind -ring -linarith -lia -order -ac [sendCoh, sendReq_wf]
theorem claimLine_wf (line : Nat) (isWrite : Bool) (writer : Option PkgNo) (s : State) (hm : Memory.wf s.mem = true) :
    ∀ u, claimLine line isWrite writer s = some u → Memory.wf u.mem = true := by
  grind -ring -linarith -lia -order -ac [claimLine, sendCoh_wf, foldl_wf, foldl_memory_wf, foldl_pair_wf]
theorem reachMask_wf (ag : Agent) (kind pa mask : Nat) (writer : Option PkgNo) (s : State) (hm : Memory.wf s.mem = true) :
    Memory.wf (reachMask ag kind pa mask writer s).2.mem = true := by
  grind -ring -linarith -lia -order -ac [reachMask, touchMask_wf, claimLine_wf]
theorem reachSlice_wf (ag : Agent) (kind pa n : Nat) (writer : Option PkgNo) (s : State) (hm : Memory.wf s.mem = true) :
    Memory.wf (reachSlice ag kind pa n writer s).2.mem = true := by
  grind -ring -linarith -lia -order -ac [reachSlice, reachMask_wf]
theorem sliceRead_wf (ag : Agent) (pa n : Nat) (s : State) (hm : Memory.wf s.mem = true) :
    Memory.wf (sliceRead ag pa n s).2.mem = true := by
  grind -ring -linarith -lia -order -ac [sliceRead, reachSlice_wf]
theorem sliceWrite_wf (ag : Agent) (pa n v mask : Nat) (writer : Option PkgNo) (s : State) (hm : Memory.wf s.mem = true) :
    Memory.wf (sliceWrite ag pa n v mask writer s).2.mem = true := by
  grind -ring -linarith -lia -order -ac [sliceWrite, reachMask_wf, memWriteMask_wf]
theorem sliceAtom_wf (ag : Agent) (fn pa : Nat) (b new : Word) (s : State) (hm : Memory.wf s.mem = true) :
    Memory.wf (sliceAtom ag fn pa b new s).2.mem = true := by
  grind -ring -linarith -lia -order -ac [sliceAtom, reachSlice_wf, memWrite_wf]
theorem keepOwn_wf (op : Nat) (r : Req) (s : State) (hm : Memory.wf s.mem = true) :
    Memory.wf (keepOwn op r s).mem = true := by
  grind -ring -linarith -lia -order -ac [keepOwn]
theorem putNow_wf (a n v : Nat) (s : State) (hm : Memory.wf s.mem = true) :
    Memory.wf (putNow a n v s).2.mem = true := by
  grind -ring -linarith -lia -order -ac [putNow, sendReq_wf, askOwner_wf, sliceWrite_wf]
theorem putPiece_wf (a n v : Nat) (s : State) (hm : Memory.wf s.mem = true) :
    Memory.wf (putPiece a n v s).mem = true := by
  grind -ring -linarith -lia -order -ac [putPiece, keepOwn_wf, putNow_wf]
theorem putMem_wf (a n v : Nat) (s : State) (hm : Memory.wf s.mem = true) :
    Memory.wf (putMem a n v s).mem = true := by
  grind -ring -linarith -lia -order -ac [putMem, putPiece_wf, foldl_wf, foldl_memory_wf, foldl_pair_wf]
theorem putFree_wf (a n : Nat) (s : State) (hm : Memory.wf s.mem = true) :
    Memory.wf (putFree a n s).mem = true := by
  grind -ring -linarith -lia -order -ac [putFree, putPiece_wf, foldl_wf, foldl_memory_wf, foldl_pair_wf]
theorem journalEntry_wf (type queue a b : Nat) (s : State) (hm : Memory.wf s.mem = true) :
    Memory.wf (journalEntry type queue a b s).mem = true := by
  grind -ring -linarith -lia -order -ac [journalEntry, putMem_wf]
theorem eventRecord_wf (x : EventRec) (s : State) (hm : Memory.wf s.mem = true) :
    Memory.wf (eventRecord x s).mem = true := by
  grind -ring -linarith -lia -order -ac [eventRecord, putFree_wf]
theorem errorEvent_wf (s : State) (hm : Memory.wf s.mem = true) :
    Memory.wf (errorEvent s).mem = true := by
  grind -ring -linarith -lia -order -ac [errorEvent, journalEntry_wf, eventRecord_wf]
theorem markDest_wf (line : Nat) (s : State) (hm : Memory.wf s.mem = true) :
    Memory.wf (markDest line s).mem = true := by
  grind -ring -linarith -lia -order -ac [markDest, countError_wf, errorEvent_wf]
theorem writeBackFor_wf (replay : Bool) (c : ClusterId) (l : CacheLine) (s : State) (hm : Memory.wf s.mem = true) :
    Memory.wf (writeBackFor replay c l s).mem = true := by
  unfold writeBackFor
  split
  · exact hm
  · dsimp only
    generalize copyBad (clusterOf s c) l.addr l.stack = bad
    split
    · cases bad with
      | true => exact markDest_wf _ _ (setCluster_wf _ _ _ hm)
      | false =>
        have h1 := sliceWrite_wf { cls := 1, pkg := s.fabric.num, replay := replay } l.addr 128 l.data.toNat l.dirty.toNat none s hm
        simp only [Bool.false_eq_true, if_false]
        split <;> rename_i he <;> rw [he] at h1
        · exact setCluster_wf _ _ _ h1
        · exact h1
        · exact errorEvent_wf _ (setCluster_wf _ _ _ h1)
    · generalize maskedPayload _ = pl
      rename_i p _
      have h1 := sendReq_wf { die := c.die.toNat, dst := p, op := 0x03, size := 128, scope := 5, fn := 0, pasid := 0, addr := l.addr, payload := pl, waiter := .writeBack l.addr } s hm
      split <;> rename_i he <;> rw [he] at h1
      · cases bad <;> exact h1
      · exact h1
    · exact errorEvent_wf _ (setCluster_wf _ _ _ hm)
    · exact askOwner_wf _ _ _ _ hm
    · exact hm
theorem writeBack_wf (c : ClusterId) (l : CacheLine) (s : State) (hm : Memory.wf s.mem = true) :
    Memory.wf (writeBack c l s).mem = true := by
  grind -ring -linarith -lia -order -ac [writeBack, writeBackFor_wf]
theorem tellMig_wf (dst : PkgNo) (fn : Nat) (g : Gfn) (payload : List Byte) (s : State) (hm : Memory.wf s.mem = true) :
    Memory.wf (tellMig dst fn g payload s).mem = true := by
  grind -ring -linarith -lia -order -ac [tellMig, keepOwn_wf]
theorem tellFlags_wf (g : Gfn) (what : Nat) (s : State) (hm : Memory.wf s.mem = true) :
    Memory.wf (tellFlags g what s).mem = true := by
  grind -ring -linarith -lia -order -ac [tellFlags, tellMig_wf]
theorem dropLine_wf (c : ClusterId) (line : Nat) (stack : Bool) (s : State) (hm : Memory.wf s.mem = true) :
    Memory.wf (dropLine c line stack s).mem = true := by
  grind -ring -linarith -lia -order -ac [dropLine, setCluster_wf]
theorem flushFor_wf (replay : Bool) (c : ClusterId) (line : Nat) (stack : Bool) (s : State) (hm : Memory.wf s.mem = true) :
    Memory.wf (flushFor replay c line stack s).2.mem = true ∧ ∀ u, (flushFor replay c line stack s).1 = some u → Memory.wf u.mem = true := by
  grind -ring -linarith -lia -order -ac [flushFor, writeBackFor_wf, dropLine_wf]
theorem flushCopy_wf (c : ClusterId) (line : Nat) (stack : Bool) (s : State) (hm : Memory.wf s.mem = true) :
    Memory.wf (flushCopy c line stack s).2.mem = true ∧ ∀ u, (flushCopy c line stack s).1 = some u → Memory.wf u.mem = true := by
  grind -ring -linarith -lia -order -ac [flushCopy, flushFor_wf]
theorem flushLine_wf (c : ClusterId) (line : Nat) (s : State) (hm : Memory.wf s.mem = true) :
    Memory.wf (flushLine c line s).2.mem = true ∧ ∀ u, (flushLine c line s).1 = some u → Memory.wf u.mem = true := by
  grind -ring -linarith -lia -order -ac [flushLine, flushCopy_wf]
theorem leaveFor_wf (replay : Bool) (c : ClusterId) (line : Nat) (stack : Bool) (s : State) (hm : Memory.wf s.mem = true) :
    Memory.wf (leaveFor replay c line stack s).2.mem = true ∧ ∀ u, (leaveFor replay c line stack s).1 = some u → Memory.wf u.mem = true := by
  grind -ring -linarith -lia -order -ac [leaveFor, flushFor_wf]
theorem leaveBank_wf (c : ClusterId) (line : Nat) (stack : Bool) (s : State) (hm : Memory.wf s.mem = true) :
    Memory.wf (leaveBank c line stack s).2.mem = true ∧ ∀ u, (leaveBank c line stack s).1 = some u → Memory.wf u.mem = true := by
  grind -ring -linarith -lia -order -ac [leaveBank, leaveFor_wf]
theorem withRoom_wf (c : ClusterId) (line : Nat) (stack : Bool) (s : State) (hm : Memory.wf s.mem = true) :
    Memory.wf (withRoom c line stack s).2.mem = true := by
  (unfold withRoom; repeat' split) <;> grind [draw_wf, flushCopy_wf]
theorem keepIn_wf (c : ClusterId) (l : CacheLine) (s : State) (hm : Memory.wf s.mem = true) :
    Memory.wf (keepIn c l s).mem = true := by
  grind -ring -linarith -lia -order -ac [keepIn, setCluster_wf]
theorem addMark_wf (m : EngLine) (s : State) (hm : Memory.wf s.mem = true) :
    Memory.wf (addMark m s).mem = true := by
  grind -ring -linarith -lia -order -ac [addMark]
theorem clearMarks_wf (id : Nat) (s : State) (hm : Memory.wf s.mem = true) :
    Memory.wf (clearMarks id s).mem = true := by
  grind -ring -linarith -lia -order -ac [clearMarks]
theorem forgetEng_wf (id : Nat) (s : State) (hm : Memory.wf s.mem = true) :
    Memory.wf (forgetEng id s).mem = true := by
  grind -ring -linarith -lia -order -ac [forgetEng, clearMarks_wf]
theorem engSend_wf (e : Eng) (p : PkgNo) (op size fn pa key : Nat) (write : Bool) (payload : List Byte) (s : State) (hm : Memory.wf s.mem = true) :
    Memory.wf (engSend e p op size fn pa key write payload s).2.mem = true := by
  grind -ring -linarith -lia -order -ac [engSend, sendReq_wf]
theorem gotOf_wf (r : Served × State) (hm : Memory.wf r.2.mem = true) :
    Memory.wf (gotOf r).2.mem = true := by
  grind -ring -linarith -lia -order -ac [gotOf]
theorem engCache_wf (e : Eng) (pa : Nat) (s : State) (k : State → Got × State) (hm : Memory.wf s.mem = true) (hk : ∀ a0, Memory.wf a0.mem = true → Memory.wf (k a0).2.mem = true) :
    Memory.wf (engCache e pa s k).2.mem = true := by
  grind -ring -linarith -lia -order -ac [engCache, leaveFor_wf]
theorem engReadPhys_wf (e : Eng) (pa n : Nat) (s : State) (hm : Memory.wf s.mem = true) :
    Memory.wf (engReadPhys e pa n s).2.mem = true := by
  grind -ring -linarith -lia -order -ac [engReadPhys, askOwner_wf, sliceRead_wf, engSend_wf, gotOf_wf, engCache_wf]
theorem engWritePhys_wf (e : Eng) (pa n v : Nat) (s : State) (hm : Memory.wf s.mem = true) :
    Memory.wf (engWritePhys e pa n v s).2.mem = true := by
  grind -ring -linarith -lia -order -ac [engWritePhys, askOwner_wf, sliceWrite_wf, withRoom_wf, keepIn_wf, addMark_wf, engSend_wf, gotOf_wf, engCache_wf]
theorem engAtomPhys_wf (e : Eng) (fn pa : Nat) (b : Word) (s : State) (hm : Memory.wf s.mem = true) :
    Memory.wf (engAtomPhys e fn pa b s).2.mem = true := by
  grind -ring -linarith -lia -order -ac [engAtomPhys, askOwner_wf, sliceAtom_wf, addMark_wf, engSend_wf, gotOf_wf]
theorem walkFrom_wf (e : Eng) (va need : Nat) (x0 : Nat) (x1 : Nat) (s : State) (hm : Memory.wf s.mem = true) :
    Memory.wf (walkFrom e va need x0 x1 s).2.mem = true := by
  fun_induction walkFrom e va need x0 x1 s <;> grind -ring -linarith -lia -order -ac [engReadPhys_wf]
theorem dirWalk_wf (e : Eng) (x0 : List (Nat × Nat)) (x1 : Nat) (s : State) (hm : Memory.wf s.mem = true) :
    Memory.wf (dirWalk e x0 x1 s).2.mem = true := by
  fun_induction dirWalk e x0 x1 s <;> grind -ring -linarith -lia -order -ac [engReadPhys_wf]
theorem processRoot_wf (e : Eng) (s : State) (hm : Memory.wf s.mem = true) :
    Memory.wf (processRoot e s).2.mem = true := by
  grind -ring -linarith -lia -order -ac [processRoot, engReadPhys_wf, dirWalk_wf]
theorem sv57Root_wf (e : Eng) (p : Pasid) (s : State) (hm : Memory.wf s.mem = true) :
    Memory.wf (sv57Root e p s).2.mem = true := by
  grind -ring -linarith -lia -order -ac [sv57Root, engReadPhys_wf, dirWalk_wf, processRoot_wf]
theorem walkNow_wf (e : Eng) (p : Pasid) (va need : Nat) (s : State) (hm : Memory.wf s.mem = true) :
    Memory.wf (walkNow e p va need s).2.mem = true := by
  grind -ring -linarith -lia -order -ac [walkNow, walkFrom_wf, sv57Root_wf]
theorem markEntry_wf (e : Eng) (a need : Nat) (s : State) (hm : Memory.wf s.mem = true) :
    Memory.wf (markEntry e a need s).2.mem = true := by
  grind -ring -linarith -lia -order -ac [markEntry, engAtomPhys_wf]
theorem startWalk_wf (d : DieId) (p : Pasid) (page need : Nat) (engine : Option Nat) (s : State) (hm : Memory.wf s.mem = true) :
    Memory.wf (startWalk d p page need engine s).mem = true := by
  grind -ring -linarith -lia -order -ac [startWalk, setDie_wf]
theorem pageRequest_wf (d : DieId) (p : Pasid) (page need : Nat) (engine : Option (Nat × Nat)) (s : State) (hm : Memory.wf s.mem = true) :
    ∀ u, pageRequest d p page need engine s = some u → Memory.wf u.mem = true := by
  grind -ring -linarith -lia -order -ac [pageRequest, setDie_wf]
theorem engTranslate_wf (d : DieId) (p : Pasid) (id va need : Nat) (s : State) (hm : Memory.wf s.mem = true) :
    Memory.wf (engTranslate d p id va need s).2.mem = true := by
  grind -ring -linarith -lia -order -ac [engTranslate, startWalk_wf]
theorem engMiss_wf (d : DieId) (p : Pasid) (page code : Nat) (e : Nat × Nat) (s : State) (hm : Memory.wf s.mem = true) :
    Memory.wf (engMiss d p page code e s).mem = true := by
  grind -ring -linarith -lia -order -ac [engMiss, pageRequest_wf, getD_wf]
theorem devAt_wf (w : DevWrite) (s : State) (hm : Memory.wf s.mem = true) :
    Memory.wf (devAt w s).2.mem = true := by
  grind -ring -linarith -lia -order -ac [devAt, walkNow_wf, engTranslate_wf]
theorem devNext_wf (w : DevWrite) (s : State) (hm : Memory.wf s.mem = true) :
    Memory.wf (devNext w s).2.mem = true := by
  grind -ring -linarith -lia -order -ac [devNext, putMem_wf, putFree_wf, forgetEng_wf, devAt_wf]
theorem devGo_wf  (x0 : Nat) (x1 : DevWrite) (s : State) (hm : Memory.wf s.mem = true) :
    Memory.wf (devGo x0 x1 s).2.mem = true := by
  fun_induction devGo x0 x1 s <;> grind -ring -linarith -lia -order -ac [devNext_wf]
theorem devWrite_wf (w : DevWrite) (s : State) (hm : Memory.wf s.mem = true) :
    Memory.wf (devWrite w s).mem = true := by
  grind -ring -linarith -lia -order -ac [devWrite, journalEntry_wf, devGo_wf]
theorem devAgain_wf (id : Nat) (s : State) (hm : Memory.wf s.mem = true) :
    Memory.wf (devAgain id s).mem = true := by
  grind -ring -linarith -lia -order -ac [devAgain, devWrite_wf]
theorem writeVirt_wf (d : DieId) (p : Pasid) (va n : Nat) (data : Option Nat) (dump : Option (QueueNo × Nat × Nat × Nat)) (s : State) (hm : Memory.wf s.mem = true) :
    Memory.wf (writeVirt d p va n data dump s).mem = true := by
  grind -ring -linarith -lia -order -ac [writeVirt, fresh_wf, devWrite_wf]
theorem logImage_wf (c : CoreId) (e : LogEntry) (slotState : Nat) (s : State) (hm : Memory.wf s.mem = true) :
    Memory.wf (logImage c e slotState s).mem = true := by
  grind -ring -linarith -lia -order -ac [logImage, putMem_wf]
theorem logEntries_wf (c : CordId) (k : StandKey) (p : Pasid) (page code flight : Nat) (pc : Word) (atom : Option Nat) (scope : Nat) (recs : List LogRec) (s : State) (hm : Memory.wf s.mem = true) :
    ∀ u, logEntries c k p page code flight pc atom scope recs s = some u → Memory.wf u.mem = true := by
  intro u hu
  unfold logEntries at hu
  dsimp only at hu
  obtain ⟨i, -, rfl⟩ := Option.map_eq_some_iff.1 hu
  exact foldl_wf _ _ _ hm (fun s x h => logImage_wf _ _ _ _ (setCore_wf _ _ _ h))
theorem freeLog_wf (c : CoreId) (e : LogEntry) (s : State) (hm : Memory.wf s.mem = true) :
    Memory.wf (freeLog c e s).mem = true := by
  grind -ring -linarith -lia -order -ac [freeLog, setCore_wf, logImage_wf]
theorem setStand_wf (k : StandKey) (f : Stand → Stand) (s : State) (hm : Memory.wf s.mem = true) :
    Memory.wf (setStand k f s).mem = true := by
  grind -ring -linarith -lia -order -ac [setStand]
theorem setRing_wf (c : ClusterId) (i : BitVec 6) (f : Ring → Ring) (s : State) (hm : Memory.wf s.mem = true) :
    Memory.wf (setRing c i f s).mem = true := by
  grind -ring -linarith -lia -order -ac [setRing, setCluster_wf]
theorem wakeWaiters_wf (k : StandKey) (s : State) (hm : Memory.wf s.mem = true) :
    Memory.wf (wakeWaiters k s).mem = true := by
  grind -ring -linarith -lia -order -ac [wakeWaiters]
theorem scratchWrite_wf (t : Target) (n v : Nat) (s : State) (hm : Memory.wf s.mem = true) :
    Memory.wf (scratchWrite t n v s).mem = true := by
  (unfold scratchWrite; repeat' split) <;> grind -ring -linarith -lia -order -ac [setStand_wf, setRing_wf, wakeWaiters_wf, memWrite_wf]
theorem scratchAtom_wf (t : Target) (fn : Nat) (b new : Word) (s : State) (hm : Memory.wf s.mem = true) :
    Memory.wf (scratchAtom t fn b new s).2.mem = true := by
  grind -ring -linarith -lia -order -ac [scratchAtom, scratchWrite_wf]
theorem deliverRing_wf (c : ClusterId) (m : RingMsg) (s : State) (hm : Memory.wf s.mem = true) :
    Memory.wf (deliverRing c m s).2.mem = true := by
  grind -ring -linarith -lia -order -ac [deliverRing, setCluster_wf, setRing_wf]
theorem arriveAt_wf (t : Target) (n : Nat) (s : State) (hm : Memory.wf s.mem = true) :
    Memory.wf (arriveAt t n s).mem = true := by
  grind -ring -linarith -lia -order -ac [arriveAt, scratchWrite_wf]
theorem setFragById_wf (id : Nat) (f : Fragment → Fragment) (s : State) (hm : Memory.wf s.mem = true) :
    Memory.wf (setFragById id f s).mem = true := by
  grind -ring -linarith -lia -order -ac [setFragById, setCord_wf]
theorem laneFault_wf (f : Flight) (l : LaneAcc) (code sub : Nat) (s : State) (hm : Memory.wf s.mem = true) :
    Memory.wf (laneFault f l code sub s).2.mem = true := by
  grind -ring -linarith -lia -order -ac [laneFault, setFragById_wf]
theorem served_wf (f : Flight) (l : LaneAcc) (r : Served × State) (k : Nat → AccState) (hm : Memory.wf r.2.mem = true) :
    Memory.wf (served f l r k).2.mem = true := by
  grind -ring -linarith -lia -order -ac [served, laneFault_wf]
theorem laneSend_wf (f : Flight) (l : LaneAcc) (p : PkgNo) (op size fn pa : Nat) (payload : List Byte) (flag : Bool) (s : State) (hm : Memory.wf s.mem = true) :
    Memory.wf (laneSend f l p op size fn pa payload flag s).2.mem = true := by
  grind -ring -linarith -lia -order -ac [laneSend, sendReq_wf]
theorem atOwner_wf (f : Flight) (l : LaneAcc) (pa : Nat) (here : State → LaneAcc × State) (away : PkgNo → State → LaneAcc × State) (s : State) (hm : Memory.wf s.mem = true) (hhere : ∀ a0, Memory.wf a0.mem = true → Memory.wf (here a0).2.mem = true) (haway : ∀ a0 a1, Memory.wf a1.mem = true → Memory.wf (away a0 a1).2.mem = true) :
    Memory.wf (atOwner f l pa here away s).2.mem = true := by
  grind -ring -linarith -lia -order -ac [atOwner, askOwner_wf, laneFault_wf]
theorem viaCache_wf (l : LaneAcc) (line : Nat) (stack : Bool) (s : State) (k : State → LaneAcc × State) (hm : Memory.wf s.mem = true) (hk : ∀ a0, Memory.wf a0.mem = true → Memory.wf (k a0).2.mem = true) :
    Memory.wf (viaCache l line stack s k).2.mem = true := by
  grind -ring -linarith -lia -order -ac [viaCache, leaveBank_wf]
theorem withCopy_wf (l : LaneAcc) (line : Nat) (stack : Bool) (s : State) (k : CacheLine → State → LaneAcc × State) (hm : Memory.wf s.mem = true) (hk : ∀ a0 a1, Memory.wf a1.mem = true → Memory.wf (k a0 a1).2.mem = true) :
    Memory.wf (withCopy l line stack s k).2.mem = true := by
  grind -ring -linarith -lia -order -ac [withCopy, withRoom_wf]
theorem noteLine_wf (id line : Nat) (s : State) (hm : Memory.wf s.mem = true) :
    Memory.wf (noteLine id line s).mem = true := by
  grind -ring -linarith -lia -order -ac [noteLine, draw_wf]
theorem fillCopy_wf (l : LaneAcc) (line : Nat) (v : BitVec 1024) (s : State) (k : State → LaneAcc × State) (hm : Memory.wf s.mem = true) (hk : ∀ a0, Memory.wf a0.mem = true → Memory.wf (k a0).2.mem = true) :
    Memory.wf (fillCopy l line v s k).2.mem = true := by
  grind -ring -linarith -lia -order -ac [fillCopy, keepIn_wf, withCopy_wf]
theorem mostlyLater_wf (f : Flight) (line : Nat) (s : State) (hm : Memory.wf s.mem = true) :
    Memory.wf (mostlyLater f line s).2.mem = true := by
  grind -ring -linarith -lia -order -ac [mostlyLater, draw_wf, noteLine_wf]
theorem oneOf_wf (vs : List (BitVec 1024)) (s : State) (hm : Memory.wf s.mem = true) :
    Memory.wf (oneOf vs s).2.mem = true := by
  grind -ring -linarith -lia -order -ac [oneOf, draw_wf]
theorem absorbedInto_wf (f : Flight) (line : Nat) (s : State) (hm : Memory.wf s.mem = true) :
    Memory.wf (absorbedInto f line s).2.mem = true := by
  grind -ring -linarith -lia -order -ac [absorbedInto, draw_wf]
theorem loadCached_wf (f : Flight) (l : LaneAcc) (pa : Nat) (s : State) (hm : Memory.wf s.mem = true) :
    Memory.wf (loadCached f l pa s).2.mem = true := by
  unfold loadCached
  dsimp only
  refine viaCache_wf _ _ _ _ _ hm (fun s hs => ?_)
  split
  · exact laneFault_wf _ _ _ _ _ hs
  · split
    · exact hs
    · have h0 := mostlyLater_wf f (lineOf pa) s hs
      split
      · rename_i he
        rw [he] at h0
        exact h0
      · rename_i s0 he
        rw [he] at h0
        have h1 := oneOf_wf (absorbed f (lineOf pa) s0) s0 h0
        refine atOwner_wf _ _ _ _ _ _ h1 (fun s hs => ?_) (fun p s hs => ?_)
        · have h2 := sliceRead_wf (cordAgent s) (lineOf pa) 128 s hs
          split
          · rename_i he
            rw [he] at h2
            exact fillCopy_wf _ _ _ _ _ h2 (fun _ h => h)
          · exact served_wf _ _ _ _ h2
        · split
          · exact hs
          · split
            · exact fillCopy_wf _ _ _ _ _ hs (fun _ h => h)
            · have h2 := absorbedInto_wf f (lineOf pa) s hs
              split <;> rename_i he <;> rw [he] at h2
              · exact h2
              · exact laneSend_wf _ _ _ _ _ _ _ _ _ _ h2
theorem storeCached_wf (f : Flight) (l : LaneAcc) (pa : Nat) (s : State) (hm : Memory.wf s.mem = true) :
    Memory.wf (storeCached f l pa s).2.mem = true := by
  grind -ring -linarith -lia -order -ac [storeCached, sliceWrite_wf, keepIn_wf, served_wf, laneSend_wf, atOwner_wf, viaCache_wf, withCopy_wf]
theorem afterFlush_wf (l : LaneAcc) (pa : Nat) (stack : Bool) (s : State) (k : State → LaneAcc × State) (hm : Memory.wf s.mem = true) (hk : ∀ a0, Memory.wf a0.mem = true → Memory.wf (k a0).2.mem = true) :
    Memory.wf (afterFlush l pa stack s k).2.mem = true := by
  grind -ring -linarith -lia -order -ac [afterFlush, flushCopy_wf]
theorem atomCopy_wf (l : LaneAcc) (fn pa : Nat) (cur : CacheLine) (k : Nat → AccState) (s : State) (hm : Memory.wf s.mem = true) :
    Memory.wf (atomCopy l fn pa cur k s).2.mem = true := by
  grind -ring -linarith -lia -order -ac [atomCopy, keepIn_wf]
theorem atomSlice_wf (f : Flight) (l : LaneAcc) (fn pa : Nat) (k : Nat → AccState) (s : State) (hm : Memory.wf s.mem = true) :
    Memory.wf (atomSlice f l fn pa k s).2.mem = true := by
  grind -ring -linarith -lia -order -ac [atomSlice, sliceAtom_wf, served_wf, laneSend_wf, atOwner_wf]
theorem atomGlobal_wf (f : Flight) (l : LaneAcc) (fn pa : Nat) (stack : Bool) (k : Nat → AccState) (s : State) (hm : Memory.wf s.mem = true) :
    Memory.wf (atomGlobal f l fn pa stack k s).2.mem = true := by
  grind -ring -linarith -lia -order -ac [atomGlobal, sliceRead_wf, laneFault_wf, served_wf, laneSend_wf, atOwner_wf, viaCache_wf, withCopy_wf, afterFlush_wf, atomCopy_wf, atomSlice_wf]
theorem txLoadWords_wf (l : LaneAcc) (f : Flight) (x0 : Nat) (x1 : Nat) (s : State) (hm : Memory.wf s.mem = true) :
    Memory.wf (txLoadWords l f x0 x1 s).2.mem = true := by
  induction x0 generalizing x1 s with
  | zero => exact hm
  | succ n ih =>
    have hr : ∀ (w : Word) (b : Nat) (s : State), Memory.wf s.mem = true → Memory.wf (match txLoadWords l f n b s with
        | (.ok ws, s') => ((.ok (w :: ws) : Except Nat (List Word)), s')
        | r => r).2.mem = true := by
      intro w b s h
      have h1 := ih b s h
      split
      · rename_i he; rw [he] at h1; exact h1
      · exact h1
    unfold txLoadWords
    dsimp only
    split
    · exact hm
    · split
      · exact hm
      · split
        · exact hr _ _ _ hm
        · split
          · exact hm
          · have h2 := sliceRead_wf (cordAgent s) x1 4 s hm
            split <;> rename_i he <;> rw [he] at h2
            · exact hr _ _ _ (setFragById_wf _ _ _ h2)
            · exact h2
            · exact h2
theorem txAccess_wf (f : Flight) (l : LaneAcc) (pa : Nat) (s : State) (hm : Memory.wf s.mem = true) :
    Memory.wf (txAccess f l pa s).2.mem = true := by
  grind -ring -linarith -lia -order -ac [txAccess, askOwner_wf, writeBack_wf, setFragById_wf, txLoadWords_wf]
theorem slicePlain_wf (f : Flight) (l : LaneAcc) (pa : Nat) (s : State) (hm : Memory.wf s.mem = true) :
    Memory.wf (slicePlain f l pa s).2.mem = true := by
  grind -ring -linarith -lia -order -ac [slicePlain, sliceRead_wf, sliceWrite_wf, served_wf, laneSend_wf, atOwner_wf, afterFlush_wf]
theorem notifyData_wf (f : Flight) (l : LaneAcc) (pa : Nat) (s : State) (hm : Memory.wf s.mem = true) :
    Memory.wf (notifyData f l pa s).2.mem = true := by
  grind -ring -linarith -lia -order -ac [notifyData, sliceWrite_wf, served_wf, laneSend_wf, atOwner_wf, afterFlush_wf]
theorem writeBackReach_wf (c : ClusterId) (scope : Nat) (s : State) (hm : Memory.wf s.mem = true) :
    Memory.wf (writeBackReach c scope s).mem = true := by
  grind -ring -linarith -lia -order -ac [writeBackReach, writeBack_wf, foldl_wf, foldl_memory_wf, foldl_pair_wf]
theorem forkReady_wf (c : CordId) (k : StandKey) (fork scope : Nat) (s : State) (hm : Memory.wf s.mem = true) :
    Memory.wf (forkReady c k fork scope s).2.mem = true ∧ ∀ u, (forkReady c k fork scope s).1 = some u → Memory.wf u.mem = true := by
  grind -ring -linarith -lia -order -ac [forkReady, writeBackReach_wf]
theorem forkMay_wf (c : CordId) (k : StandKey) (fork scope : Nat) (s : State) (hm : Memory.wf s.mem = true) :
    Memory.wf (forkMay c k fork scope s).2.mem = true ∧ ∀ u, (forkMay c k fork scope s).1 = some u → Memory.wf u.mem = true := by
  grind -ring -linarith -lia -order -ac [forkMay, forkReady_wf]
theorem sndmPerform_wf (f : Flight) (l : LaneAcc) (s : State) (hm : Memory.wf s.mem = true) :
    Memory.wf (sndmPerform f l s).2.mem = true := by
  grind -ring -linarith -lia -order -ac [sndmPerform, sendReq_wf, deliverRing_wf]
theorem migReport_wf (st : MigStatus) (outcome : Nat) (s : State) (hm : Memory.wf s.mem = true) :
    Memory.wf (migReport st outcome s).mem = true := by
  (unfold migReport; repeat' split) <;> grind -ring -linarith -lia -order -ac [keepOwn_wf, scratchWrite_wf]
theorem pgmvPerform_wf (f : Flight) (l : LaneAcc) (pa : Nat) (s : State) (hm : Memory.wf s.mem = true) :
    Memory.wf (pgmvPerform f l pa s).2.mem = true := by
  grind -ring -linarith -lia -order -ac [pgmvPerform, sendReq_wf, askOwner_wf, laneFault_wf, migReport_wf]
theorem rdxPerform_wf (f : Flight) (l : LaneAcc) (pa : Nat) (s : State) (hm : Memory.wf s.mem = true) :
    Memory.wf (rdxPerform f l pa s).2.mem = true := by
  grind -ring -linarith -lia -order -ac [rdxPerform, setDie_wf, askOwner_wf, laneFault_wf, laneSend_wf, forkReady_wf]
theorem performPhys_wf (f : Flight) (l : LaneAcc) (pa : Nat) (s : State) (hm : Memory.wf s.mem = true) :
    Memory.wf (performPhys f l pa s).2.mem = true := by
  grind -ring -linarith -lia -order -ac [performPhys, loadCached_wf, storeCached_wf, atomGlobal_wf, txAccess_wf, slicePlain_wf, notifyData_wf, pgmvPerform_wf, rdxPerform_wf]
theorem afterUpdate_wf (f : Flight) (l : LaneAcc) (s : State) (k : State → LaneAcc × State) (hm : Memory.wf s.mem = true) (hk : ∀ a0, Memory.wf a0.mem = true → Memory.wf (k a0).2.mem = true) :
    Memory.wf (afterUpdate f l s k).2.mem = true := by
  grind -ring -linarith -lia -order -ac [afterUpdate, afterFlush_wf]
theorem flagPhys_wf (f : Flight) (l : LaneAcc) (pa : Nat) (s : State) (hm : Memory.wf s.mem = true) :
    Memory.wf (flagPhys f l pa s).2.mem = true := by
  grind -ring -linarith -lia -order -ac [flagPhys, atomGlobal_wf]
theorem performScratch_wf (f : Flight) (l : LaneAcc) (t : Target) (s : State) (hm : Memory.wf s.mem = true) :
    Memory.wf (performScratch f l t s).2.mem = true := by
  grind -ring -linarith -lia -order -ac [performScratch, scratchWrite_wf, scratchAtom_wf, laneFault_wf]
theorem flagScratch_wf (f : Flight) (l : LaneAcc) (t : Target) (s : State) (hm : Memory.wf s.mem = true) :
    Memory.wf (flagScratch f l t s).2.mem = true := by
  grind -ring -linarith -lia -order -ac [flagScratch, scratchAtom_wf, laneFault_wf]
theorem stackRow_wf (f : Flight) (l : LaneAcc) (line : Nat) (s : State) (hm : Memory.wf s.mem = true) :
    Memory.wf (stackRow f l line s).2.mem = true := by
  grind -ring -linarith -lia -order -ac [stackRow, sliceRead_wf, keepIn_wf, served_wf, laneSend_wf, atOwner_wf, withCopy_wf]
theorem stackWord_wf (f : Flight) (l : LaneAcc) (pa n : Nat) (s : State) (hm : Memory.wf s.mem = true) :
    Memory.wf (stackWord f l pa n s).2.2.mem = true := by
  grind -ring -linarith -lia -order -ac [stackWord, leaveBank_wf, laneFault_wf, stackRow_wf]
theorem stackLoad_wf (f : Flight) (x0 : List (Nat × Nat)) (x1 : LaneAcc) (s : State) (hm : Memory.wf s.mem = true) :
    Memory.wf (stackLoad f x0 x1 s).2.2.mem = true := by
  fun_induction stackLoad f x0 x1 s <;> grind -ring -linarith -lia -order -ac [stackWord_wf]
theorem stackStore_wf (f : Flight) (l : LaneAcc) (x0 : List (Nat × Nat)) (x1 : Nat) (s : State) (hm : Memory.wf s.mem = true) :
    Memory.wf (stackStore f l x0 x1 s).2.mem = true := by
  induction x0 generalizing x1 s with
  | nil => exact hm
  | cons p ps ih =>
    obtain ⟨pa, n⟩ := p
    unfold stackStore
    dsimp only
    refine viaCache_wf _ _ _ _ _ hm (fun s h => ?_)
    split
    · exact withCopy_wf _ _ _ _ _ h (fun c s h => ih _ _ (keepIn_wf _ _ _ h))
    · refine atOwner_wf _ _ _ _ _ _ h (fun s h => ?_) (fun p s h => ?_)
      · have h1 := sliceWrite_wf (cordAgent s) pa n x1 (2 ^ n - 1) none s h
        split
        · rename_i he; rw [he] at h1; exact ih _ _ h1
        · exact served_wf _ _ _ _ h1
      · split
        · exact laneSend_wf _ _ _ _ _ _ _ _ _ _ h
        · have h1 := sendReq_wf { die := (thisDie s).toNat, dst := p, op := 0x03, size := 128, scope := f.scope, fn := 0, pasid := 0, addr := lineOf pa
                                  payload := maskedPayload (storeLine (emptyLine (lineOf pa) true) (pa % 128) n x1), waiter := .writeBack (lineOf pa) } s h
          split <;> rename_i he <;> rw [he] at h1
          · exact ih _ _ h1
          · exact h1
theorem performStack_wf (f : Flight) (l : LaneAcc) (pa : Nat) (s : State) (hm : Memory.wf s.mem = true) :
    Memory.wf (performStack f l pa s).2.mem = true := by
  grind -ring -linarith -lia -order -ac [performStack, atomGlobal_wf, stackLoad_wf, stackStore_wf]
theorem performVirt_wf (f : Flight) (l : LaneAcc) (va : DWord) (need : Nat) (k : Nat → State → LaneAcc × State) (s : State) (hm : Memory.wf s.mem = true) (hk : ∀ a0 a1, Memory.wf a1.mem = true → Memory.wf (k a0 a1).2.mem = true) :
    Memory.wf (performVirt f l va need k s).2.mem = true := by
  grind -ring -linarith -lia -order -ac [performVirt, startWalk_wf, laneFault_wf]
theorem missLane_wf (f : Flight) (l : LaneAcc) (code : Nat) (s : State) (hm : Memory.wf s.mem = true) :
    Memory.wf (missLane f l code s).2.mem = true := by
  grind -ring -linarith -lia -order -ac [missLane, pageRequest_wf, laneFault_wf]
theorem nbstEnter_wf (f : Flight) (l : LaneAcc) (s : State) (hm : Memory.wf s.mem = true) :
    Memory.wf (nbstEnter f l s).2.mem = true := by
  grind -ring -linarith -lia -order -ac [nbstEnter, setQuad_wf]
theorem performAt_wf (f : Flight) (l : LaneAcc) (pa : Nat) (s : State) (hm : Memory.wf s.mem = true) :
    Memory.wf (performAt f l pa s).2.mem = true := by
  unfold performAt
  generalize ({ l with at_ := some pa } : LaneAcc) = l
  dsimp only
  split
  · exact hm
  · have h0 := performPhys_wf f l pa s hm
    generalize performPhys f l pa s = r at h0 ⊢
    generalize coveredBy f l pa = c
    generalize twin f l pa = t
    cases c
    · cases t with
      | none => exact h0
      | some x =>
        obtain ⟨_, _, _, st, _, _, _, _, _, _, _, _, _, got, _, _⟩ := x
        cases got with
        | some v => exact hm
        | none => cases st <;> exact hm
    · exact hm
    · exact hm
theorem pushLane_wf (f : Flight) (l : LaneAcc) (s : State) (hm : Memory.wf s.mem = true) :
    Memory.wf (pushLane f l s).2.mem = true := by
  grind -ring -linarith -lia -order -ac [pushLane, laneFault_wf, sndmPerform_wf, performPhys_wf, flagPhys_wf, performScratch_wf, flagScratch_wf, performStack_wf, performVirt_wf, missLane_wf, nbstEnter_wf, performAt_wf, afterUpdate_wf]
theorem pushLanes_wf (f : Flight) (past : List LaneAcc) (x0 : List LaneAcc) (s : State) (hm : Memory.wf s.mem = true) :
    Memory.wf (pushLanes f past x0 s).2.mem = true := by
  fun_induction pushLanes f past x0 s <;> grind -ring -linarith -lia -order -ac [pushLane_wf]
theorem logLanes_wf (f : Flight) (pages : List Nat) (s : State) (hm : Memory.wf s.mem = true) :
    Memory.wf (logLanes f pages s).2.mem = true := by
  induction pages generalizing f s with
  | nil => exact hm
  | cons page rest ih =>
    unfold logLanes
    dsimp only
    split
    · exact ih _ _ hm
    · split
      · exact ih _ _ hm
      · rename_i s' he
        have h1 : Memory.wf s'.mem = true := by
          split at he
          · injection he with he; rw [← he]; exact hm
          · exact pageRequest_wf _ _ _ _ _ _ hm _ he
        split
        · rename_i s'' he2
          exact ih _ _ (logEntries_wf _ _ _ _ _ _ _ _ _ _ _ h1 _ he2)
        · exact ih _ _ hm
theorem pushFlight_wf (id : Nat) (s : State) (hm : Memory.wf s.mem = true) :
    Memory.wf (pushFlight id s).mem = true := by
  grind -ring -linarith -lia -order -ac [pushFlight, setCord_wf, pushLanes_wf, logLanes_wf]
theorem refuseMsg_wf (sub : Nat) (m : RingMsg) (s : State) (hm : Memory.wf s.mem = true) :
    Memory.wf (refuseMsg sub m s).mem = true := by
  grind -ring -linarith -lia -order -ac [refuseMsg, mapCords_wf, sendMsg_wf]
theorem startLeave_wf (k : StandKey) (c : ClusterId) (s : State) (hm : Memory.wf s.mem = true) :
    Memory.wf (startLeave k c s).mem = true := by
  grind -ring -linarith -lia -order -ac [startLeave, setCluster_wf]
theorem performInto_wf (k : StandKey) (s : State) (hm : Memory.wf s.mem = true) :
    Memory.wf (performInto k s).mem = true := by
  grind -ring -linarith -lia -order -ac [performInto, selectCord_wf, pushFlight_wf, foldl_wf, foldl_memory_wf, foldl_pair_wf]
theorem stopRings_wf (c : ClusterId) (rings : List (BitVec 6)) (s : State) (hm : Memory.wf s.mem = true) :
    Memory.wf (stopRings c rings s).mem = true := by
  grind -ring -linarith -lia -order -ac [stopRings]
theorem endStand_wf (k : StandKey) (s : State) (hm : Memory.wf s.mem = true) :
    Memory.wf (endStand k s).mem = true := by
  grind -ring -linarith -lia -order -ac [endStand, setCluster_wf, refuseMsg_wf, stopRings_wf, foldl_wf, foldl_memory_wf, foldl_pair_wf]
theorem journalLots_wf (k : StandKey) (bs : List Batch) (s : State) (hm : Memory.wf s.mem = true) :
    Memory.wf (journalLots k bs s).mem = true := by
  grind -ring -linarith -lia -order -ac [journalLots, journalEntry_wf, foldl_wf, foldl_memory_wf, foldl_pair_wf]
theorem journalCut_wf (q : QueueNo) (seq : Nat) (s : State) (hm : Memory.wf s.mem = true) :
    Memory.wf (journalCut q seq s).mem = true := by
  grind -ring -linarith -lia -order -ac [journalCut, journalLots_wf, foldl_wf, foldl_memory_wf, foldl_pair_wf]
theorem cutCore_wf (q : QueueNo) (seq : Nat) (ids : List CordId) (i : CoreId) (s : State) (hm : Memory.wf s.mem = true) :
    Memory.wf (cutCore q seq ids i s).mem = true := by
  grind -ring -linarith -lia -order -ac [cutCore, setCore_wf, freeLog_wf, foldl_wf, foldl_memory_wf, foldl_pair_wf]
theorem cutEngines_wf (q : QueueNo) (seq : Nat) (ids : List CordId) (s : State) (hm : Memory.wf s.mem = true) :
    Memory.wf (cutEngines q seq ids s).mem = true := by
  grind -ring -linarith -lia -order -ac [cutEngines]
theorem unreserve_wf (q : QueueNo) (seq : Nat) (s : State) (hm : Memory.wf s.mem = true) :
    Memory.wf (unreserve q seq s).mem = true := by
  grind -ring -linarith -lia -order -ac [unreserve]
theorem cutLaunch_wf (q : QueueNo) (seq status code : Nat) (s : State) (hm : Memory.wf s.mem = true) :
    Memory.wf (cutLaunch q seq status code s).mem = true := by
  unfold cutLaunch
  dsimp only
  refine unreserve_wf _ _ _ (foldl_wf _ _ _ ?_ (fun s k h => dropContexts_wf _ _ h))
  dsimp only
  refine foldl_wf _ _ _ ?_ (fun s k h => endStand_wf _ _ h)
  dsimp only
  exact foldl_wf _ _ _ (cutEngines_wf _ _ _ _ (foldl_wf _ _ _ (journalCut_wf _ _ _ hm) (fun s k h => performInto_wf _ _ h))) (fun s i h => cutCore_wf _ _ _ _ _ h)
theorem fatal_wf (code : Nat) (s : State) (hm : Memory.wf s.mem = true) :
    Memory.wf (fatal code s).mem = true := by
  grind -ring -linarith -lia -order -ac [fatal, journalEntry_wf, writeVirt_wf, cutLaunch_wf]
theorem toSupervisor_wf (code : Nat) (s : State) (hm : Memory.wf s.mem = true) :
    Memory.wf (toSupervisor code s).mem = true := by
  grind -ring -linarith -lia -order -ac [toSupervisor, setCore_wf, selectCord_wf, setCord_wf, fatal_wf]
theorem dropWait_wf (s : State) (hm : Memory.wf s.mem = true) :
    Memory.wf (dropWait s).mem = true := by
  grind -ring -linarith -lia -order -ac [dropWait]
theorem takeTrap_wf (f : PendFault) (s : State) (hm : Memory.wf s.mem = true) :
    Memory.wf (takeTrap f s).mem = true := by
  grind -ring -linarith -lia -order -ac [takeTrap, setCord_wf, toSupervisor_wf, dropWait_wf]
theorem deliverTrap_wf (s : State) (hm : Memory.wf s.mem = true) :
    Memory.wf (deliverTrap s).mem = true := by
  grind -ring -linarith -lia -order -ac [deliverTrap, setCord_wf, takeTrap_wf]
theorem raise_wf (f : PendFault) (s : State) (hm : Memory.wf s.mem = true) :
    Memory.wf (raise f s).mem = true := by
  grind -ring -linarith -lia -order -ac [raise, setCord_wf, deliverTrap_wf]
theorem raiseScalar_wf (code : Nat) (s : State) (hm : Memory.wf s.mem = true) :
    Memory.wf (raiseScalar code s).mem = true := by
  grind -ring -linarith -lia -order -ac [raiseScalar, advance_wf, raise_wf]
theorem raiseAgain_wf (code : Nat) (s : State) (hm : Memory.wf s.mem = true) :
    Memory.wf (raiseAgain code s).mem = true := by
  grind -ring -linarith -lia -order -ac [raiseAgain, advance_wf, raise_wf]
theorem raiseOwn_wf (code : Nat) (s : State) (hm : Memory.wf s.mem = true) :
    Memory.wf (raiseOwn code s).mem = true := by
  grind -ring -linarith -lia -order -ac [raiseOwn, setFrag_wf, raiseScalar_wf]
theorem raiseLane_wf (code : Nat) (lanes : Mask) (x y : Bool) (s : State) (hm : Memory.wf s.mem = true) :
    Memory.wf (raiseLane code lanes x y s).mem = true := by
  grind -ring -linarith -lia -order -ac [raiseLane, raise_wf]
theorem noteMostly_wf (id : Nat) (ls : List LaneAcc) (s : State) (hm : Memory.wf s.mem = true) :
    Memory.wf (noteMostly id ls s).mem = true := by
  grind -ring -linarith -lia -order -ac [noteMostly, noteLine_wf, foldl_wf, foldl_memory_wf, foldl_pair_wf]
theorem dropMostly_wf (s : State) (hm : Memory.wf s.mem = true) :
    Memory.wf (dropMostly s).mem = true := by
  grind -ring -linarith -lia -order -ac [dropMostly]
theorem issueAccess_wf (a : Access) (s : State) (hm : Memory.wf s.mem = true) :
    Memory.wf (issueAccess a s).mem = true := by
  grind -ring -linarith -lia -order -ac [issueAccess, fresh_wf, draw_wf, setCord_wf, pushFlight_wf, noteMostly_wf]
theorem returnFlight_wf (id : Nat) (s : State) (hm : Memory.wf s.mem = true) :
    Memory.wf (returnFlight id s).mem = true := by
  grind -ring -linarith -lia -order -ac [returnFlight, setCord_wf, pushFlight_wf, deliverTrap_wf, dropMostly_wf]
theorem issue_wf (a : Access) (s : State) (hm : Memory.wf s.mem = true) :
    Memory.wf (issue a s).mem = true := by
  grind -ring -linarith -lia -order -ac [issue, issueAccess_wf, returnFlight_wf]
theorem dropReach_wf (c : ClusterId) (scope : Nat) (s : State) (hm : Memory.wf s.mem = true) :
    Memory.wf (dropReach c scope s).mem = true := by
  grind -ring -linarith -lia -order -ac [dropReach, setCluster_wf]
theorem fence_wf (rel acq : Bool) (scope : Nat) (s : State) (hm : Memory.wf s.mem = true) :
    Memory.wf (fence rel acq scope s).2.mem = true ∧ ∀ u, (fence rel acq scope s).1 = some u → Memory.wf u.mem = true := by
  grind -ring -linarith -lia -order -ac [fence, writeBackReach_wf, dropReach_wf]
theorem outsideBody_wf (k : State → State) (s : State) (hm : Memory.wf s.mem = true) (hk : ∀ a0, Memory.wf a0.mem = true → Memory.wf (k a0).mem = true) :
    Memory.wf (outsideBody k s).mem = true := by
  grind -ring -linarith -lia -order -ac [outsideBody, setFrag_wf, advance_wf]

end Sys2Proof.Laws
end

