-- ==== Sys2Proof/Laws/KeptCords.lean ====
section
/-! SUPPORT. The scalar words and the placement of cords keep memory in canonical form. Each lemma is named after its operation. -/

namespace Sys2Proof.Laws

set_option Elab.async false

open Sys2Proof Sys2Proof.Machine

theorem result_wf (d : Reg) (v : Word) (s : State) (hm : Memory.wf s.mem = true) :
    Memory.wf (result d v s).mem = true := by
  grind -ring -linarith -lia -order -ac [result, setReg_wf, advance_wf]
theorem resultPair_wf (d : Reg) (v : DWord) (s : State) (hm : Memory.wf s.mem = true) :
    Memory.wf (resultPair d v s).mem = true := by
  grind -ring -linarith -lia -order -ac [resultPair, setPair_wf, advance_wf]
theorem execAdd_wf (d : Reg) (a : Reg) (b : Reg) (s : State) (hm : Memory.wf s.mem = true) :
    ∀ u, execAdd d a b s = .next u → Memory.wf u.mem = true := by
  grind -ring -linarith -lia -order -ac [execAdd, result_wf]
theorem execAddImm_wf (d : Reg) (a : Reg) (i : BitVec 14) (s : State) (hm : Memory.wf s.mem = true) :
    ∀ u, execAddImm d a i s = .next u → Memory.wf u.mem = true := by
  grind -ring -linarith -lia -order -ac [execAddImm, result_wf]
theorem execSub_wf (d : Reg) (a : Reg) (b : Reg) (s : State) (hm : Memory.wf s.mem = true) :
    ∀ u, execSub d a b s = .next u → Memory.wf u.mem = true := by
  grind -ring -linarith -lia -order -ac [execSub, result_wf]
theorem execAnd_wf (d : Reg) (a : Reg) (b : Reg) (s : State) (hm : Memory.wf s.mem = true) :
    ∀ u, execAnd d a b s = .next u → Memory.wf u.mem = true := by
  grind -ring -linarith -lia -order -ac [execAnd, result_wf]
theorem execAndImm_wf (d : Reg) (a : Reg) (i : BitVec 14) (s : State) (hm : Memory.wf s.mem = true) :
    ∀ u, execAndImm d a i s = .next u → Memory.wf u.mem = true := by
  grind -ring -linarith -lia -order -ac [execAndImm, result_wf]
theorem execOr_wf (d : Reg) (a : Reg) (b : Reg) (s : State) (hm : Memory.wf s.mem = true) :
    ∀ u, execOr d a b s = .next u → Memory.wf u.mem = true := by
  grind -ring -linarith -lia -order -ac [execOr, result_wf]
theorem execOrImm_wf (d : Reg) (a : Reg) (i : BitVec 14) (s : State) (hm : Memory.wf s.mem = true) :
    ∀ u, execOrImm d a i s = .next u → Memory.wf u.mem = true := by
  grind -ring -linarith -lia -order -ac [execOrImm, result_wf]
theorem execXor_wf (d : Reg) (a : Reg) (b : Reg) (s : State) (hm : Memory.wf s.mem = true) :
    ∀ u, execXor d a b s = .next u → Memory.wf u.mem = true := by
  grind -ring -linarith -lia -order -ac [execXor, result_wf]
theorem execXorImm_wf (d : Reg) (a : Reg) (i : BitVec 14) (s : State) (hm : Memory.wf s.mem = true) :
    ∀ u, execXorImm d a i s = .next u → Memory.wf u.mem = true := by
  grind -ring -linarith -lia -order -ac [execXorImm, result_wf]
theorem execShl_wf (d : Reg) (a : Reg) (b : Reg) (s : State) (hm : Memory.wf s.mem = true) :
    ∀ u, execShl d a b s = .next u → Memory.wf u.mem = true := by
  grind -ring -linarith -lia -order -ac [execShl, result_wf]
theorem execShlImm_wf (d : Reg) (a : Reg) (n : BitVec 5) (s : State) (hm : Memory.wf s.mem = true) :
    ∀ u, execShlImm d a n s = .next u → Memory.wf u.mem = true := by
  grind -ring -linarith -lia -order -ac [execShlImm, result_wf]
theorem execShr_wf (d : Reg) (a : Reg) (b : Reg) (s : State) (hm : Memory.wf s.mem = true) :
    ∀ u, execShr d a b s = .next u → Memory.wf u.mem = true := by
  grind -ring -linarith -lia -order -ac [execShr, result_wf]
theorem execShrImm_wf (d : Reg) (a : Reg) (n : BitVec 5) (s : State) (hm : Memory.wf s.mem = true) :
    ∀ u, execShrImm d a n s = .next u → Memory.wf u.mem = true := by
  grind -ring -linarith -lia -order -ac [execShrImm, result_wf]
theorem execSar_wf (d : Reg) (a : Reg) (b : Reg) (s : State) (hm : Memory.wf s.mem = true) :
    ∀ u, execSar d a b s = .next u → Memory.wf u.mem = true := by
  grind -ring -linarith -lia -order -ac [execSar, result_wf]
theorem execSarImm_wf (d : Reg) (a : Reg) (n : BitVec 5) (s : State) (hm : Memory.wf s.mem = true) :
    ∀ u, execSarImm d a n s = .next u → Memory.wf u.mem = true := by
  grind -ring -linarith -lia -order -ac [execSarImm, result_wf]
theorem execMin_wf (d : Reg) (a : Reg) (b : Reg) (s : State) (hm : Memory.wf s.mem = true) :
    ∀ u, execMin d a b s = .next u → Memory.wf u.mem = true := by
  grind -ring -linarith -lia -order -ac [execMin, result_wf]
theorem execMax_wf (d : Reg) (a : Reg) (b : Reg) (s : State) (hm : Memory.wf s.mem = true) :
    ∀ u, execMax d a b s = .next u → Memory.wf u.mem = true := by
  grind -ring -linarith -lia -order -ac [execMax, result_wf]
theorem execMinn_wf (d : Reg) (a : Reg) (b : Reg) (s : State) (hm : Memory.wf s.mem = true) :
    ∀ u, execMinn d a b s = .next u → Memory.wf u.mem = true := by
  grind -ring -linarith -lia -order -ac [execMinn, result_wf]
theorem execMaxn_wf (d : Reg) (a : Reg) (b : Reg) (s : State) (hm : Memory.wf s.mem = true) :
    ∀ u, execMaxn d a b s = .next u → Memory.wf u.mem = true := by
  grind -ring -linarith -lia -order -ac [execMaxn, result_wf]
theorem execSlt_wf (d : Reg) (a : Reg) (b : Reg) (s : State) (hm : Memory.wf s.mem = true) :
    ∀ u, execSlt d a b s = .next u → Memory.wf u.mem = true := by
  grind -ring -linarith -lia -order -ac [execSlt, result_wf]
theorem execSltImm_wf (d : Reg) (a : Reg) (i : BitVec 14) (s : State) (hm : Memory.wf s.mem = true) :
    ∀ u, execSltImm d a i s = .next u → Memory.wf u.mem = true := by
  grind -ring -linarith -lia -order -ac [execSltImm, result_wf]
theorem execSltn_wf (d : Reg) (a : Reg) (b : Reg) (s : State) (hm : Memory.wf s.mem = true) :
    ∀ u, execSltn d a b s = .next u → Memory.wf u.mem = true := by
  grind -ring -linarith -lia -order -ac [execSltn, result_wf]
theorem execSltnImm_wf (d : Reg) (a : Reg) (i : BitVec 14) (s : State) (hm : Memory.wf s.mem = true) :
    ∀ u, execSltnImm d a i s = .next u → Memory.wf u.mem = true := by
  grind -ring -linarith -lia -order -ac [execSltnImm, result_wf]
theorem execSeq_wf (d : Reg) (a : Reg) (b : Reg) (s : State) (hm : Memory.wf s.mem = true) :
    ∀ u, execSeq d a b s = .next u → Memory.wf u.mem = true := by
  grind -ring -linarith -lia -order -ac [execSeq, result_wf]
theorem execSeqImm_wf (d : Reg) (a : Reg) (i : BitVec 14) (s : State) (hm : Memory.wf s.mem = true) :
    ∀ u, execSeqImm d a i s = .next u → Memory.wf u.mem = true := by
  grind -ring -linarith -lia -order -ac [execSeqImm, result_wf]
theorem execSel_wf (d : Reg) (a : Reg) (b : Reg) (s : State) (hm : Memory.wf s.mem = true) :
    ∀ u, execSel d a b s = .next u → Memory.wf u.mem = true := by
  grind -ring -linarith -lia -order -ac [execSel, result_wf]
theorem execMul_wf (d : Reg) (a : Reg) (b : Reg) (_l : BitVec 4) (s : State) (hm : Memory.wf s.mem = true) :
    ∀ u, execMul d a b _l s = .next u → Memory.wf u.mem = true := by
  grind -ring -linarith -lia -order -ac [execMul, result_wf]
theorem execMulh_wf (d : Reg) (a : Reg) (b : Reg) (_l : BitVec 4) (s : State) (hm : Memory.wf s.mem = true) :
    ∀ u, execMulh d a b _l s = .next u → Memory.wf u.mem = true := by
  grind -ring -linarith -lia -order -ac [execMulh, result_wf]
theorem execMulhn_wf (d : Reg) (a : Reg) (b : Reg) (_l : BitVec 4) (s : State) (hm : Memory.wf s.mem = true) :
    ∀ u, execMulhn d a b _l s = .next u → Memory.wf u.mem = true := by
  grind -ring -linarith -lia -order -ac [execMulhn, result_wf]
theorem execClz_wf (d : Reg) (a : Reg) (s : State) (hm : Memory.wf s.mem = true) :
    ∀ u, execClz d a s = .next u → Memory.wf u.mem = true := by
  grind -ring -linarith -lia -order -ac [execClz, result_wf]
theorem execPopc_wf (d : Reg) (a : Reg) (s : State) (hm : Memory.wf s.mem = true) :
    ∀ u, execPopc d a s = .next u → Memory.wf u.mem = true := by
  grind -ring -linarith -lia -order -ac [execPopc, result_wf]
theorem execBfx_wf (d : Reg) (a : Reg) (p : BitVec 5) (n : BitVec 5) (s : State) (hm : Memory.wf s.mem = true) :
    ∀ u, execBfx d a p n s = .next u → Memory.wf u.mem = true := by
  grind -ring -linarith -lia -order -ac [execBfx, result_wf]
theorem execBfi_wf (d : Reg) (a : Reg) (p : BitVec 5) (n : BitVec 5) (s : State) (hm : Memory.wf s.mem = true) :
    ∀ u, execBfi d a p n s = .next u → Memory.wf u.mem = true := by
  grind -ring -linarith -lia -order -ac [execBfi, result_wf]
theorem execLi_wf (d : Reg) (i : BitVec 20) (s : State) (hm : Memory.wf s.mem = true) :
    ∀ u, execLi d i s = .next u → Memory.wf u.mem = true := by
  grind -ring -linarith -lia -order -ac [execLi, result_wf]
theorem execLih_wf (d : Reg) (i : BitVec 20) (s : State) (hm : Memory.wf s.mem = true) :
    ∀ u, execLih d i s = .next u → Memory.wf u.mem = true := by
  grind -ring -linarith -lia -order -ac [execLih, result_wf]
theorem execDadd_wf (d a b : Reg) (s : State) (hm : Memory.wf s.mem = true) :
    ∀ u, execDadd d a b s = .next u → Memory.wf u.mem = true := by
  grind -ring -linarith -lia -order -ac [execDadd, resultPair_wf]
theorem execDsub_wf (d a b : Reg) (s : State) (hm : Memory.wf s.mem = true) :
    ∀ u, execDsub d a b s = .next u → Memory.wf u.mem = true := by
  grind -ring -linarith -lia -order -ac [execDsub, resultPair_wf]
theorem jumpReg_wf (t : Word) (k : State → State) (s : State) (hm : Memory.wf s.mem = true) (hk : ∀ a0, Memory.wf a0.mem = true → Memory.wf (k a0).mem = true) :
    Memory.wf (jumpReg t k s).mem = true := by
  grind -ring -linarith -lia -order -ac [jumpReg, jump_wf, raiseScalar_wf]
theorem writeLink_wf (s : State) (hm : Memory.wf s.mem = true) :
    Memory.wf (writeLink s).mem = true := by
  grind -ring -linarith -lia -order -ac [writeLink, setPair_wf]
theorem execB_wf (d : BitVec 26) (s : State) (hm : Memory.wf s.mem = true) :
    ∀ u, execB d s = .next u → Memory.wf u.mem = true := by
  grind -ring -linarith -lia -order -ac [execB, jump_wf]
theorem execCall_wf (d : BitVec 26) (s : State) (hm : Memory.wf s.mem = true) :
    ∀ u, execCall d s = .next u → Memory.wf u.mem = true := by
  grind -ring -linarith -lia -order -ac [execCall, jump_wf, writeLink_wf]
theorem execBc_wf (a : Reg) (c : BitVec 4) (d : BitVec 16) (s : State) (hm : Memory.wf s.mem = true) :
    ∀ u, execBc a c d s = .next u → Memory.wf u.mem = true := by
  grind -ring -linarith -lia -order -ac [execBc, advance_wf, jump_wf]
theorem execBd_wf (p : BitVec 3) (n : BitVec 1) (d j : BitVec 11) (s : State) (hm : Memory.wf s.mem = true) :
    ∀ u, execBd p n d j s = .next u → Memory.wf u.mem = true := by
  grind -ring -linarith -lia -order -ac [execBd, setCord_wf, advance_wf, jump_wf, wait_wf, raiseScalar_wf]
theorem execBx_wf (a : Reg) (s : State) (hm : Memory.wf s.mem = true) :
    ∀ u, execBx a s = .next u → Memory.wf u.mem = true := by
  grind -ring -linarith -lia -order -ac [execBx, jumpReg_wf]
theorem execCallr_wf (a : Reg) (s : State) (hm : Memory.wf s.mem = true) :
    ∀ u, execCallr a s = .next u → Memory.wf u.mem = true := by
  grind -ring -linarith -lia -order -ac [execCallr, jumpReg_wf, writeLink_wf]
theorem execRet_wf (s : State) (hm : Memory.wf s.mem = true) :
    ∀ u, execRet s = .next u → Memory.wf u.mem = true := by
  grind -ring -linarith -lia -order -ac [execRet, jumpReg_wf]
theorem execNop_wf (s : State) (hm : Memory.wf s.mem = true) :
    ∀ u, execNop s = .next u → Memory.wf u.mem = true := by
  grind -ring -linarith -lia -order -ac [execNop, advance_wf]
theorem execTrap_wf (s : State) (hm : Memory.wf s.mem = true) :
    ∀ u, execTrap s = .next u → Memory.wf u.mem = true := by
  grind -ring -linarith -lia -order -ac [execTrap, raiseOwn_wf]
theorem exitFrag_wf (s : State) (hm : Memory.wf s.mem = true) :
    Memory.wf (exitFrag s).mem = true := by
  grind -ring -linarith -lia -order -ac [exitFrag, setFrag_wf]
theorem execExit_wf (s : State) (hm : Memory.wf s.mem = true) :
    ∀ u, execExit s = .next u → Memory.wf u.mem = true := by
  grind -ring -linarith -lia -order -ac [execExit, setCord_wf, advance_wf, wait_wf, raiseScalar_wf, outsideBody_wf, exitFrag_wf]
theorem execTret_wf (s : State) (hm : Memory.wf s.mem = true) :
    ∀ u, execTret s = .next u → Memory.wf u.mem = true := by
  grind -ring -linarith -lia -order -ac [execTret, setCord_wf, deliverTrap_wf, raiseScalar_wf]
theorem onEvent_wf (c : CordId) (f : State → State) (s : State) (hm : Memory.wf s.mem = true) (hf : ∀ a0, Memory.wf a0.mem = true → Memory.wf (f a0).mem = true) :
    Memory.wf (onEvent c f s).mem = true := by
  grind -ring -linarith -lia -order -ac [onEvent, selectCord_wf]
theorem unfrozen_wf (f : State → State) (s : State) (hm : Memory.wf s.mem = true) (hf : ∀ a0, Memory.wf a0.mem = true → Memory.wf (f a0).mem = true) :
    Memory.wf (unfrozen f s).mem = true := by
  grind -ring -linarith -lia -order -ac [unfrozen]
theorem execFusion_wf (c : CordId) (split : Nat) (s : State) (hm : Memory.wf s.mem = true) :
    ∀ u, execFusion c split s = .next u → Memory.wf u.mem = true := by
  grind -ring -linarith -lia -order -ac [execFusion, setCord_wf, onEvent_wf, unfrozen_wf]
theorem execSerialArmStart_wf (c : CordId) (split : Nat) (s : State) (hm : Memory.wf s.mem = true) :
    ∀ u, execSerialArmStart c split s = .next u → Memory.wf u.mem = true := by
  grind -ring -linarith -lia -order -ac [execSerialArmStart, setCord_wf, onEvent_wf, unfrozen_wf]
theorem holdSlot_wf (c : Cord) (s : State) (hm : Memory.wf s.mem = true) :
    Memory.wf (holdSlot c s).mem = true := by
  grind -ring -linarith -lia -order -ac [holdSlot]
theorem freeCord_wf (s : State) (hm : Memory.wf s.mem = true) :
    Memory.wf (freeCord s).mem = true := by
  grind -ring -linarith -lia -order -ac [freeCord, setCore_wf, setPart_wf, dropContexts_wf, setStand_wf, endStand_wf, journalLots_wf, holdSlot_wf]
theorem leaveLast_wf (s : State) (hm : Memory.wf s.mem = true) :
    Memory.wf (leaveLast s).mem = true := by
  grind -ring -linarith -lia -order -ac [leaveLast, startLeave_wf]
theorem execCordEnd_wf (c : CordId) (s : State) (hm : Memory.wf s.mem = true) :
    ∀ u, execCordEnd c s = .next u → Memory.wf u.mem = true := by
  grind -ring -linarith -lia -order -ac [execCordEnd, onEvent_wf, unfrozen_wf, freeCord_wf, leaveLast_wf]
theorem setLaunch_wf (q : QueueNo) (seq : Nat) (f : Launch → Launch) (s : State) (hm : Memory.wf s.mem = true) :
    Memory.wf (setLaunch q seq f s).mem = true := by
  grind -ring -linarith -lia -order -ac [setLaunch]
theorem setQueue_wf (q : QueueNo) (f : Queue → Queue) (s : State) (hm : Memory.wf s.mem = true) :
    Memory.wf (setQueue q f s).mem = true := by
  grind -ring -linarith -lia -order -ac [setQueue]
theorem fenceStep_wf (rel acq : Bool) (scope : Nat) (k : State → State) (s : State) (hm : Memory.wf s.mem = true) (hk : ∀ a0, Memory.wf a0.mem = true → Memory.wf (k a0).mem = true) :
    Memory.wf (fenceStep rel acq scope k s).mem = true := by
  grind -ring -linarith -lia -order -ac [fenceStep, wait_wf, fence_wf]
theorem execFenceAcq_wf (z : BitVec 6) (s : State) (hm : Memory.wf s.mem = true) :
    ∀ u, execFenceAcq z s = .next u → Memory.wf u.mem = true := by
  grind -ring -linarith -lia -order -ac [execFenceAcq, advance_wf, outsideBody_wf, fenceStep_wf]
theorem execFenceRel_wf (z : BitVec 6) (s : State) (hm : Memory.wf s.mem = true) :
    ∀ u, execFenceRel z s = .next u → Memory.wf u.mem = true := by
  grind -ring -linarith -lia -order -ac [execFenceRel, advance_wf, outsideBody_wf, fenceStep_wf]
theorem execFenceFull_wf (z : BitVec 6) (s : State) (hm : Memory.wf s.mem = true) :
    ∀ u, execFenceFull z s = .next u → Memory.wf u.mem = true := by
  grind -ring -linarith -lia -order -ac [execFenceFull, advance_wf, outsideBody_wf, fenceStep_wf]
theorem raiseData_wf (code : Nat) (va : DWord) (s : State) (hm : Memory.wf s.mem = true) :
    Memory.wf (raiseData code va s).mem = true := by
  grind -ring -linarith -lia -order -ac [raiseData, advance_wf, raise_wf]
theorem barrierRead_wf (k : StandKey) (o : Nat) (s : State) (hm : Memory.wf s.mem = true) :
    Memory.wf (barrierRead k o s).2.mem = true := by
  grind -ring -linarith -lia -order -ac [barrierRead]
theorem onBarrier_wf (va : DWord) (k : StandKey → Nat → State → State) (s : State) (hm : Memory.wf s.mem = true) (hk : ∀ a0 a1 a2, Memory.wf a2.mem = true → Memory.wf (k a0 a1 a2).mem = true) :
    Memory.wf (onBarrier va k s).mem = true := by
  grind -ring -linarith -lia -order -ac [onBarrier, raiseData_wf]
theorem execBari_wf (a b : Reg) (s : State) (hm : Memory.wf s.mem = true) :
    ∀ u, execBari a b s = .next u → Memory.wf u.mem = true := by
  grind -ring -linarith -lia -order -ac [execBari, advance_wf, wait_wf, scratchWrite_wf, raiseScalar_wf, outsideBody_wf, onBarrier_wf]
theorem execArv_wf (c a b : Reg) (s : State) (hm : Memory.wf s.mem = true) :
    ∀ u, execArv c a b s = .next u → Memory.wf u.mem = true := by
  grind -ring -linarith -lia -order -ac [execArv, advance_wf, scratchWrite_wf, raiseScalar_wf, outsideBody_wf, fenceStep_wf, barrierRead_wf, onBarrier_wf]
theorem waitbDone_wf (scope : Nat) (s : State) (hm : Memory.wf s.mem = true) :
    Memory.wf (waitbDone scope s).mem = true := by
  grind -ring -linarith -lia -order -ac [waitbDone, advance_wf, fenceStep_wf, dropWait_wf]
theorem execWaitb_wf (c a b : Reg) (s : State) (hm : Memory.wf s.mem = true) :
    ∀ u, execWaitb c a b s = .next u → Memory.wf u.mem = true := by
  grind -ring -linarith -lia -order -ac [execWaitb, wait_wf, outsideBody_wf, barrierRead_wf, onBarrier_wf, dropWait_wf, waitbDone_wf]
theorem execWpath_wf (n b : BitVec 6) (s : State) (hm : Memory.wf s.mem = true) :
    ∀ u, execWpath n b s = .next u → Memory.wf u.mem = true := by
  grind -ring -linarith -lia -order -ac [execWpath, advance_wf, wait_wf]
theorem execRngw_wf (d a b : Reg) (s : State) (hm : Memory.wf s.mem = true) :
    ∀ u, execRngw d a b s = .next u → Memory.wf u.mem = true := by
  grind -ring -linarith -lia -order -ac [execRngw, wait_wf, result_wf, raiseData_wf]
theorem execLot_wf (d : Reg) (s : State) (hm : Memory.wf s.mem = true) :
    ∀ u, execLot d s = .next u → Memory.wf u.mem = true := by
  grind -ring -linarith -lia -order -ac [execLot, setCord_wf, outsideBody_wf, result_wf]
theorem execWlot_wf (a : Reg) (s : State) (hm : Memory.wf s.mem = true) :
    ∀ u, execWlot a s = .next u → Memory.wf u.mem = true := by
  intro u hu
  simp only [execWlot, Host.Outcome.next.injEq] at hu
  subst hu
  unfold outsideBody
  split
  · exact advance_wf _ (setFrag_wf _ _ hm)
  · dsimp only
    split
    · exact raiseScalar_wf _ _ hm
    · split
      · exact wait_wf _ _ hm
      · split
        · exact advance_wf _ hm
        · exact raise_wf _ _ (advance_wf _ hm)
theorem readCycles_wf (d : Reg) (s : State) (hm : Memory.wf s.mem = true) :
    Memory.wf (readCycles d s).mem = true := by
  grind -ring -linarith -lia -order -ac [readCycles, setFrag_wf, result_wf]
theorem execMfs_wf (d r : BitVec 6) (s : State) (hm : Memory.wf s.mem = true) :
    ∀ u, execMfs d r s = .next u → Memory.wf u.mem = true := by
  grind -ring -linarith -lia -order -ac [execMfs, raiseScalar_wf, result_wf, readCycles_wf]
theorem execCyclesLoRead_wf (d : Reg) (s : State) (hm : Memory.wf s.mem = true) :
    ∀ u, execCyclesLoRead d s = .next u → Memory.wf u.mem = true := by
  grind -ring -linarith -lia -order -ac [execCyclesLoRead, readCycles_wf]
theorem requestBank_wf (c : ClusterId) (v : Word) (s : State) (k : Nat) (hm : Memory.wf s.mem = true) :
    Memory.wf (requestBank c v s k).mem = true := by
  grind -ring -linarith -lia -order -ac [requestBank, setCluster_wf]
theorem writeBankmode_wf (c : ClusterId) (v : Word) (s : State) (hm : Memory.wf s.mem = true) :
    Memory.wf (writeBankmode c v s).mem = true := by
  grind -ring -linarith -lia -order -ac [writeBankmode, requestBank_wf, foldl_wf, foldl_memory_wf, foldl_pair_wf]
theorem writeBankstat_wf (c : ClusterId) (v : Word) (s : State) (hm : Memory.wf s.mem = true) :
    Memory.wf (writeBankstat c v s).mem = true := by
  grind -ring -linarith -lia -order -ac [writeBankstat, setCluster_wf]
theorem execBankmodeWrite_wf (c : ClusterId) (v : Word) (s : State) (hm : Memory.wf s.mem = true) :
    ∀ u, execBankmodeWrite c v s = .next u → Memory.wf u.mem = true := by
  grind -ring -linarith -lia -order -ac [execBankmodeWrite, writeBankmode_wf]
theorem execBankstatWrite_wf (c : ClusterId) (v : Word) (s : State) (hm : Memory.wf s.mem = true) :
    ∀ u, execBankstatWrite c v s = .next u → Memory.wf u.mem = true := by
  grind -ring -linarith -lia -order -ac [execBankstatWrite, writeBankstat_wf]
theorem execBankModeChangeComplete_wf (c : ClusterId) (bank : BitVec 4) (s : State) (hm : Memory.wf s.mem = true) :
    ∀ u, execBankModeChangeComplete c bank s = .next u → Memory.wf u.mem = true := by
  grind -ring -linarith -lia -order -ac [execBankModeChangeComplete, setCluster_wf, flushCopy_wf, foldl_wf, foldl_memory_wf, foldl_pair_wf]
theorem writeFdlrel_wf (c : CoreId) (v : Word) (s : State) (hm : Memory.wf s.mem = true) :
    Memory.wf (writeFdlrel c v s).mem = true := by
  grind -ring -linarith -lia -order -ac [writeFdlrel, freeLog_wf, foldl_wf, foldl_memory_wf, foldl_pair_wf]
theorem execFdlrelWrite_wf (c : CoreId) (v : Word) (s : State) (hm : Memory.wf s.mem = true) :
    ∀ u, execFdlrelWrite c v s = .next u → Memory.wf u.mem = true := by
  grind -ring -linarith -lia -order -ac [execFdlrelWrite, writeFdlrel_wf]
theorem writeSupervisor_wf (n : Nat) (v : Word) (s : State) (hm : Memory.wf s.mem = true) :
    Memory.wf (writeSupervisor n v s).mem = true := by
  (unfold writeSupervisor; repeat' split) <;> grind -ring -linarith -lia -order -ac [writeBankmode_wf, writeBankstat_wf, writeFdlrel_wf]
theorem execMts_wf (a r : BitVec 6) (s : State) (hm : Memory.wf s.mem = true) :
    ∀ u, execMts a r s = .next u → Memory.wf u.mem = true := by
  grind -ring -linarith -lia -order -ac [execMts, setCord_wf, advance_wf, raiseScalar_wf, writeSupervisor_wf]
theorem execLq_wf (a b : Reg) (s : State) (hm : Memory.wf s.mem = true) :
    ∀ u, execLq a b s = .next u → Memory.wf u.mem = true := by
  grind -ring -linarith -lia -order -ac [execLq, setFrag_wf, advance_wf, wait_wf, raiseScalar_wf]
theorem joinGrove_wf (key : Word) (s : State) (hm : Memory.wf s.mem = true) :
    Memory.wf (joinGrove key s).2.mem = true := by
  grind -ring -linarith -lia -order -ac [joinGrove, setCluster_wf]
theorem execGjoin_wf (d a : Reg) (s : State) (hm : Memory.wf s.mem = true) :
    ∀ u, execGjoin d a s = .next u → Memory.wf u.mem = true := by
  grind -ring -linarith -lia -order -ac [execGjoin, wait_wf, outsideBody_wf, result_wf, joinGrove_wf]
theorem execGleave_wf (d : Reg) (s : State) (hm : Memory.wf s.mem = true) :
    ∀ u, execGleave d s = .next u → Memory.wf u.mem = true := by
  grind -ring -linarith -lia -order -ac [execGleave, setCluster_wf, wait_wf, startLeave_wf, outsideBody_wf, result_wf]
theorem addContext_wf (p : Pasid) (k : CoreId) (s : State) (hm : Memory.wf s.mem = true) :
    Memory.wf (addContext p k s).mem = true := by
  grind -ring -linarith -lia -order -ac [addContext, setCore_wf]
theorem placeCord_wf (l : Launch) (pasid : Pasid) (key : StandKey) (c : ClusterId) (s : State) (i : Nat × Nat) (hm : Memory.wf s.mem = true) :
    Memory.wf (placeCord l pasid key c s i).mem = true := by
  grind -ring -linarith -lia -order -ac [placeCord, addContext_wf]
theorem layWindow_wf (key : StandKey) (c : ClusterId) (pages : List (BitVec 4)) (s : State) (hm : Memory.wf s.mem = true) :
    Memory.wf (layWindow key c pages s).mem = true := by
  grind -ring -linarith -lia -order -ac [layWindow, setCluster_wf]
theorem layRing_wf (c : ClusterId) (i : BitVec 6) (bank : BitVec 4) (runs : Nat) (s : State) (hm : Memory.wf s.mem = true) :
    Memory.wf (layRing c i bank runs s).mem = true := by
  grind -ring -linarith -lia -order -ac [layRing, setCluster_wf]
theorem placeRing_wf (r : BitVec 1024) (pasid : Pasid) (key : StandKey) (c : ClusterId) (s : State) (x : Nat × Nat × Nat) (hm : Memory.wf s.mem = true) :
    Memory.wf (placeRing r pasid key c s x).mem = true := by
  grind -ring -linarith -lia -order -ac [placeRing, setCluster_wf, layRing_wf]
theorem placeStand_wf (l : Launch) (n : Need) (gang f : Nat) (c : ClusterId) (fit : Fit) (s : State) (hm : Memory.wf s.mem = true) :
    Memory.wf (placeStand l n gang f c fit s).mem = true := by
  grind -ring -linarith -lia -order -ac [placeStand, dropReach_wf, placeCord_wf, layWindow_wf, placeRing_wf, foldl_wf, foldl_memory_wf, foldl_pair_wf]
theorem beginLaunch_wf (l : Launch) (s : State) (hm : Memory.wf s.mem = true) :
    Memory.wf (beginLaunch l s).2.mem = true := by
  grind -ring -linarith -lia -order -ac [beginLaunch, setLaunch_wf]
theorem placeGang_wf (l : Launch) (n : Need) (d : Nat) (xs : List (Nat × Fit)) (s : State) (hm : Memory.wf s.mem = true) :
    Memory.wf (placeGang l n d xs s).mem = true := by
  grind -ring -linarith -lia -order -ac [placeGang, setLaunch_wf, placeStand_wf, beginLaunch_wf, foldl_wf, foldl_memory_wf, foldl_pair_wf]
theorem markServed_wf (q : Queue) (s : State) (hm : Memory.wf s.mem = true) :
    Memory.wf (markServed q s).mem = true := by
  grind -ring -linarith -lia -order -ac [markServed, served_wf]
theorem preempt_wf (ks : List StandKey) (s : State) (hm : Memory.wf s.mem = true) :
    Memory.wf (preempt ks s).mem = true := by
  grind -ring -linarith -lia -order -ac [preempt]
theorem preemptFor_wf (priority : Nat) (ds : List DieId) (fits : List StandKey → Bool) (s : State) (hm : Memory.wf s.mem = true) :
    ∀ u, preemptFor priority ds fits s = some u → Memory.wf u.mem = true := by
  grind -ring -linarith -lia -order -ac [preemptFor, preempt_wf, foldl_wf, foldl_memory_wf, foldl_pair_wf]
theorem tryGang_wf (q : Queue) (l : Launch) (s : State) (hm : Memory.wf s.mem = true) :
    ∀ u, tryGang q l s = some u → Memory.wf u.mem = true := by
  intro u hu
  unfold tryGang at hu
  dsimp only [draw] at hu
  split at hu
  · injection hu with hu
    subst hu
    exact markServed_wf _ _ (placeGang_wf _ _ _ _ _ hm)
  · split at hu
    · exact preemptFor_wf _ _ _ _ hm _ hu
    · cases hd : dieToReserve s l (needOfRecord q l.record) with
      | none => rw [hd] at hu; cases hu
      | some d => rw [hd] at hu; injection hu with hu; subst hu; exact hm
theorem placeAll_wf (l : Launch) (n : Need) (xs : List (Nat × List (Nat × Fit))) (s : State) (hm : Memory.wf s.mem = true) :
    Memory.wf (placeAll l n xs s).mem = true := by
  grind -ring -linarith -lia -order -ac [placeAll, unreserve_wf, placeGang_wf, foldl_wf, foldl_memory_wf, foldl_pair_wf]
theorem tryWhole_wf (q : Queue) (l : Launch) (s : State) (hm : Memory.wf s.mem = true) :
    ∀ u, tryWhole q l s = some u → Memory.wf u.mem = true := by
  grind -ring -linarith -lia -order -ac [tryWhole, markServed_wf, preemptFor_wf, placeAll_wf]
theorem dispatch_wf  (x0 : List Queue) (s : State) (hm : Memory.wf s.mem = true) :
    Memory.wf (dispatch x0 s).mem = true := by
  fun_induction dispatch x0 s <;> grind -ring -linarith -lia -order -ac [tryGang_wf, tryWhole_wf]
theorem execGangPlacement_wf (s : State) (hm : Memory.wf s.mem = true) :
    ∀ u, execGangPlacement s = .next u → Memory.wf u.mem = true := by
  grind -ring -linarith -lia -order -ac [execGangPlacement, dispatch_wf]
theorem pointRots_wf (ps : List PartId) (s : State) (hm : Memory.wf s.mem = true) :
    Memory.wf (pointRots ps s).mem = true := by
  grind -ring -linarith -lia -order -ac [pointRots, setPart_wf, foldl_wf, foldl_memory_wf, foldl_pair_wf]
theorem execRotationStreak_wf (p : PartId) (s : State) (hm : Memory.wf s.mem = true) :
    ∀ u, execRotationStreak p s = .next u → Memory.wf u.mem = true := by
  grind -ring -linarith -lia -order -ac [execRotationStreak, setPart_wf]
theorem countStreak_wf (p : PartId) (c : Cord) (s : State) (hm : Memory.wf s.mem = true) :
    Memory.wf (countStreak p c s).mem = true := by
  grind -ring -linarith -lia -order -ac [countStreak, setPart_wf]
theorem switchTo_wf (k : CoreId) (p : Pasid) (s : State) (hm : Memory.wf s.mem = true) :
    Memory.wf (switchTo k p s).mem = true := by
  grind -ring -linarith -lia -order -ac [switchTo, setCore_wf, setPart_wf, foldl_wf, foldl_memory_wf, foldl_pair_wf]
theorem execContextSwitch_wf (k : CoreId) (s : State) (hm : Memory.wf s.mem = true) :
    ∀ u, execContextSwitch k s = .next u → Memory.wf u.mem = true := by
  grind -ring -linarith -lia -order -ac [execContextSwitch, switchTo_wf]
theorem execQuantumExpiry_wf (k : CoreId) (s : State) (hm : Memory.wf s.mem = true) :
    ∀ u, execQuantumExpiry k s = .next u → Memory.wf u.mem = true := by
  grind -ring -linarith -lia -order -ac [execQuantumExpiry, switchTo_wf]
theorem execIdleSwitchCount_wf (k : CoreId) (s : State) (hm : Memory.wf s.mem = true) :
    ∀ u, execIdleSwitchCount k s = .next u → Memory.wf u.mem = true := by
  grind -ring -linarith -lia -order -ac [execIdleSwitchCount, setCore_wf, switchTo_wf]
theorem writeImages_wf (a : Nat) (x0 : List Cord) (s : State) (hm : Memory.wf s.mem = true) :
    Memory.wf (writeImages a x0 s).mem = true := by
  fun_induction writeImages a x0 s <;> grind -ring -linarith -lia -order -ac [putFree_wf]
theorem writeSave_wf (k : CoreId) (p : Pasid) (s : State) (hm : Memory.wf s.mem = true) :
    Memory.wf (writeSave k p s).mem = true := by
  grind -ring -linarith -lia -order -ac [writeSave, writeImages_wf, foldl_wf, foldl_memory_wf, foldl_pair_wf]
theorem saveCords_wf (k : CoreId) (p : Pasid) (cs : List Cord) (s : State) (hm : Memory.wf s.mem = true) :
    Memory.wf (saveCords k p cs s).mem = true := by
  grind -ring -linarith -lia -order -ac [saveCords, setCore_wf, dropContexts_wf, writeSave_wf]
theorem execStreamOut_wf (k : CoreId) (p : Pasid) (s : State) (hm : Memory.wf s.mem = true) :
    ∀ u, execStreamOut k p s = .next u → Memory.wf u.mem = true := by
  grind -ring -linarith -lia -order -ac [execStreamOut, mapCords_wf, saveCords_wf]
theorem execStreamIn_wf (k : CoreId) (p : Pasid) (s : State) (hm : Memory.wf s.mem = true) :
    ∀ u, execStreamIn k p s = .next u → Memory.wf u.mem = true := by
  intro u hu
  simp only [execStreamIn, Host.Outcome.next.injEq] at hu
  subst hu
  split
  · exact hm
  · dsimp only
    refine addContext_wf _ _ _ ?_
    exact hm
theorem execPreemptedStandResume_wf (k : StandKey) (s : State) (hm : Memory.wf s.mem = true) :
    ∀ u, execPreemptedStandResume k s = .next u → Memory.wf u.mem = true := by
  grind -ring -linarith -lia -order -ac [execPreemptedStandResume]

end Sys2Proof.Laws
end

