-- ==== Sys2Proof/Laws/KeptLanes.lean ====
section
/-! SUPPORT. The lane operations, the matrix engine and transactions keep memory in canonical form. Each lemma is named after its operation. -/

namespace Sys2Proof.Laws

set_option Elab.async false

open Sys2Proof Sys2Proof.Machine

theorem raiseLaneOwn_wf (code : Nat) (x y : Bool) (s : State) (hm : Memory.wf s.mem = true) :
    Memory.wf (raiseLaneOwn code x y s).mem = true := by
  grind -ring -linarith -lia -order -ac [raiseLaneOwn, setFrag_wf, raiseLane_wf]
theorem finishLane_wf (o : LaneOp) (out : LaneOut) (s : State) (hm : Memory.wf s.mem = true) :
    Memory.wf (finishLane o out s).mem = true := by
  grind -ring -linarith -lia -order -ac [finishLane, setCord_wf, setFrag_wf, raise_wf]
theorem laneAlu_wf (k : LaneKind) (out : LaneOp → Cord → LaneOut) (o : LaneOp) (s : State) (hm : Memory.wf s.mem = true) :
    Memory.wf (laneAlu k out o s).mem = true := by
  grind -ring -linarith -lia -order -ac [laneAlu, raiseLaneOwn_wf, finishLane_wf]
theorem cordicIssue_wf (k : LaneKind) (fn : CordicFn) (o : LaneOp) (s : State) (hm : Memory.wf s.mem = true) :
    Memory.wf (cordicIssue k fn o s).mem = true := by
  grind -ring -linarith -lia -order -ac [cordicIssue, setPart_wf, fresh_wf, setCord_wf, raiseLaneOwn_wf]
theorem cordicDone_wf (e : CordicOp) (s : State) (hm : Memory.wf s.mem = true) :
    Memory.wf (cordicDone e s).mem = true := by
  grind -ring -linarith -lia -order -ac [cordicDone, setCord_wf, setFragById_wf, deliverTrap_wf]
theorem execCordicBeatWrite_wf (p : PartId) (s : State) (hm : Memory.wf s.mem = true) :
    ∀ u, execCordicBeatWrite p s = .next u → Memory.wf u.mem = true := by
  grind -ring -linarith -lia -order -ac [execCordicBeatWrite, setPart_wf, selectCord_wf, setCord_wf, cordicDone_wf]
theorem execVcrsc_wf (o : LaneOp) (s : State) (hm : Memory.wf s.mem = true) :
    ∀ u, execVcrsc o s = .next u → Memory.wf u.mem = true := by
  grind -ring -linarith -lia -order -ac [execVcrsc, cordicIssue_wf]
theorem execVcrat_wf (o : LaneOp) (s : State) (hm : Memory.wf s.mem = true) :
    ∀ u, execVcrat o s = .next u → Memory.wf u.mem = true := by
  grind -ring -linarith -lia -order -ac [execVcrat, cordicIssue_wf]
theorem execVcrhy_wf (o : LaneOp) (s : State) (hm : Memory.wf s.mem = true) :
    ∀ u, execVcrhy o s = .next u → Memory.wf u.mem = true := by
  grind -ring -linarith -lia -order -ac [execVcrhy, cordicIssue_wf]
theorem execVcrex_wf (o : LaneOp) (s : State) (hm : Memory.wf s.mem = true) :
    ∀ u, execVcrex o s = .next u → Memory.wf u.mem = true := by
  grind -ring -linarith -lia -order -ac [execVcrex, cordicIssue_wf]
theorem execVcrlg_wf (o : LaneOp) (s : State) (hm : Memory.wf s.mem = true) :
    ∀ u, execVcrlg o s = .next u → Memory.wf u.mem = true := by
  grind -ring -linarith -lia -order -ac [execVcrlg, cordicIssue_wf]
theorem execVcrsq_wf (o : LaneOp) (s : State) (hm : Memory.wf s.mem = true) :
    ∀ u, execVcrsq o s = .next u → Memory.wf u.mem = true := by
  grind -ring -linarith -lia -order -ac [execVcrsq, cordicIssue_wf]
theorem execVcrrs_wf (o : LaneOp) (s : State) (hm : Memory.wf s.mem = true) :
    ∀ u, execVcrrs o s = .next u → Memory.wf u.mem = true := by
  grind -ring -linarith -lia -order -ac [execVcrrs, cordicIssue_wf]
theorem execVcrdv_wf (o : LaneOp) (s : State) (hm : Memory.wf s.mem = true) :
    ∀ u, execVcrdv o s = .next u → Memory.wf u.mem = true := by
  grind -ring -linarith -lia -order -ac [execVcrdv, cordicIssue_wf]
theorem execVcrth_wf (o : LaneOp) (s : State) (hm : Memory.wf s.mem = true) :
    ∀ u, execVcrth o s = .next u → Memory.wf u.mem = true := by
  grind -ring -linarith -lia -order -ac [execVcrth, cordicIssue_wf]
theorem countPath_wf (n : Nat) (s : State) (hm : Memory.wf s.mem = true) :
    Memory.wf (countPath n s).mem = true := by
  grind -ring -linarith -lia -order -ac [countPath, fresh_wf, setCord_wf]
theorem refuseCmd_wf (s : State) (hm : Memory.wf s.mem = true) :
    Memory.wf (refuseCmd s).mem = true := by
  grind -ring -linarith -lia -order -ac [refuseCmd, raiseAgain_wf]
theorem onOwner_wf (c : CordId) (k : StandKey) (f : Cord → Cord) (g : DeadCord → DeadCord) (s : State) (hm : Memory.wf s.mem = true) :
    Memory.wf (onOwner c k f g s).mem = true := by
  grind -ring -linarith -lia -order -ac [onOwner, setPart_wf, mapCords_wf]
theorem setTile_wf (c : CordId) (k : StandKey) (n : Nat) (t : Vector Word 4096) (s : State) (hm : Memory.wf s.mem = true) :
    Memory.wf (setTile c k n t s).mem = true := by
  (unfold setTile; repeat' split) <;> grind -ring -linarith -lia -order -ac [onOwner_wf]
theorem buryDead_wf (p : PartId) (s : State) (hm : Memory.wf s.mem = true) :
    Memory.wf (buryDead p s).mem = true := by
  grind -ring -linarith -lia -order -ac [buryDead, setPart_wf, journalLots_wf, foldl_wf, foldl_memory_wf, foldl_pair_wf]
theorem storeRows_wf (m : MatCmd) (row : Nat → Nat) (len : Nat) (x0 : Nat) (x1 : Nat) (s : State) (hm : Memory.wf s.mem = true) :
    Memory.wf (storeRows m row len x0 x1 s).2.mem = true := by
  fun_induction storeRows m row len x0 x1 s <;> grind -ring -linarith -lia -order -ac [scratchWrite_wf]
theorem runMat_wf (m : MatCmd) (s : State) (hm : Memory.wf s.mem = true) :
    Memory.wf (runMat m s).2.mem = true := by
  grind -ring -linarith -lia -order -ac [runMat, setTile_wf, storeRows_wf, foldl_wf, foldl_memory_wf, foldl_pair_wf, getD_wf]
theorem execMatrixCommandStart_wf (p : PartId) (s : State) (hm : Memory.wf s.mem = true) :
    ∀ u, execMatrixCommandStart p s = .next u → Memory.wf u.mem = true := by
  grind -ring -linarith -lia -order -ac [execMatrixCommandStart, setPart_wf, forkReady_wf]
theorem execMatrixCommandEnd_wf (p : PartId) (s : State) (hm : Memory.wf s.mem = true) :
    ∀ u, execMatrixCommandEnd p s = .next u → Memory.wf u.mem = true := by
  grind -ring -linarith -lia -order -ac [execMatrixCommandEnd, setPart_wf, onOwner_wf, buryDead_wf, runMat_wf]
theorem acceptMat_wf (m : MatCmd) (s : State) (hm : Memory.wf s.mem = true) :
    Memory.wf (acceptMat m s).mem = true := by
  grind -ring -linarith -lia -order -ac [acceptMat, setPart_wf, setCord_wf, advance_wf, countPath_wf]
theorem matIssue_wf (tiles : List Nat) (build : State → Option MatCmd) (s : State) (hm : Memory.wf s.mem = true) :
    Memory.wf (matIssue tiles build s).mem = true := by
  grind -ring -linarith -lia -order -ac [matIssue, wait_wf, raiseScalar_wf, outsideBody_wf, refuseCmd_wf, acceptMat_wf]
theorem execMma_wf (a : Reg) (n x y k _l : BitVec 4) (s : State) (hm : Memory.wf s.mem = true) :
    ∀ u, execMma a n x y k _l s = .next u → Memory.wf u.mem = true := by
  grind -ring -linarith -lia -order -ac [execMma, matIssue_wf]
theorem execMmlut_wf (a : Reg) (n x y k _l : BitVec 4) (s : State) (hm : Memory.wf s.mem = true) :
    ∀ u, execMmlut a n x y k _l s = .next u → Memory.wf u.mem = true := by
  grind -ring -linarith -lia -order -ac [execMmlut, matIssue_wf]
theorem execMmax_wf (a : Reg) (n x y : BitVec 4) (_l : BitVec 4) (s : State) (hm : Memory.wf s.mem = true) :
    ∀ u, execMmax a n x y _l s = .next u → Memory.wf u.mem = true := by
  grind -ring -linarith -lia -order -ac [execMmax, matIssue_wf]
theorem execMmz_wf (n _l : BitVec 4) (s : State) (hm : Memory.wf s.mem = true) :
    ∀ u, execMmz n _l s = .next u → Memory.wf u.mem = true := by
  grind -ring -linarith -lia -order -ac [execMmz, matIssue_wf]
theorem execMmld_wf (a : Reg) (n _l : BitVec 4) (s : State) (hm : Memory.wf s.mem = true) :
    ∀ u, execMmld a n _l s = .next u → Memory.wf u.mem = true := by
  grind -ring -linarith -lia -order -ac [execMmld, matIssue_wf]
theorem execMmst_wf (a : Reg) (n f _l : BitVec 4) (s : State) (hm : Memory.wf s.mem = true) :
    ∀ u, execMmst a n f _l s = .next u → Memory.wf u.mem = true := by
  grind -ring -linarith -lia -order -ac [execMmst, matIssue_wf]
theorem execMmstRelu_wf (a : Reg) (n f _l : BitVec 4) (s : State) (hm : Memory.wf s.mem = true) :
    ∀ u, execMmstRelu a n f _l s = .next u → Memory.wf u.mem = true := by
  grind -ring -linarith -lia -order -ac [execMmstRelu, matIssue_wf]
theorem engGlobal_wf (e : Eng) (need : Nat) (va : Nat) (k : Nat → State → Got × State) (s : State) (hm : Memory.wf s.mem = true) (hk : ∀ a0 a1, Memory.wf a1.mem = true → Memory.wf (k a0 a1).2.mem = true) :
    Memory.wf (engGlobal e need va k s).2.mem = true := by
  grind -ring -linarith -lia -order -ac [engGlobal, engTranslate_wf]
theorem winWrite_wf (e : Eng) (w : WinPos) (off n v : Nat) (s : State) (hm : Memory.wf s.mem = true) :
    Memory.wf (winWrite e w off n v s).2.mem = true := by
  grind -ring -linarith -lia -order -ac [winWrite, scratchWrite_wf]
theorem engRead_wf (e : Eng) (a : DWord) (n : Nat) (s : State) (hm : Memory.wf s.mem = true) :
    Memory.wf (engRead e a n s).2.mem = true := by
  grind -ring -linarith -lia -order -ac [engRead, engReadPhys_wf, engGlobal_wf, readPieces_wf]
theorem engWrite_wf (e : Eng) (a : DWord) (n v : Nat) (s : State) (hm : Memory.wf s.mem = true) :
    Memory.wf (engWrite e a n v s).2.mem = true := by
  grind -ring -linarith -lia -order -ac [engWrite, engWritePhys_wf, engGlobal_wf, writePieces_wf]
theorem execVmovInd_wf (o : LaneOp) (s : State) (hm : Memory.wf s.mem = true) :
    ∀ u, execVmovInd o s = .next u → Memory.wf u.mem = true := by
  grind -ring -linarith -lia -order -ac [execVmovInd, raiseLaneOwn_wf, laneAlu_wf]
theorem execVabs_wf (o : LaneOp) (s : State) (hm : Memory.wf s.mem = true) :
    ∀ u, execVabs o s = .next u → Memory.wf u.mem = true := by
  grind -ring -linarith -lia -order -ac [execVabs, laneAlu_wf]
theorem execVadd_wf (o : LaneOp) (s : State) (hm : Memory.wf s.mem = true) :
    ∀ u, execVadd o s = .next u → Memory.wf u.mem = true := by
  grind -ring -linarith -lia -order -ac [execVadd, laneAlu_wf]
theorem execVand_wf (o : LaneOp) (s : State) (hm : Memory.wf s.mem = true) :
    ∀ u, execVand o s = .next u → Memory.wf u.mem = true := by
  grind -ring -linarith -lia -order -ac [execVand, laneAlu_wf]
theorem execVclz_wf (o : LaneOp) (s : State) (hm : Memory.wf s.mem = true) :
    ∀ u, execVclz o s = .next u → Memory.wf u.mem = true := by
  grind -ring -linarith -lia -order -ac [execVclz, laneAlu_wf]
theorem execVbfx_wf (o : LaneOp) (s : State) (hm : Memory.wf s.mem = true) :
    ∀ u, execVbfx o s = .next u → Memory.wf u.mem = true := by
  grind -ring -linarith -lia -order -ac [execVbfx, laneAlu_wf]
theorem execVcmp_wf (o : LaneOp) (s : State) (hm : Memory.wf s.mem = true) :
    ∀ u, execVcmp o s = .next u → Memory.wf u.mem = true := by
  grind -ring -linarith -lia -order -ac [execVcmp, laneAlu_wf]
theorem execVcmpn_wf (o : LaneOp) (s : State) (hm : Memory.wf s.mem = true) :
    ∀ u, execVcmpn o s = .next u → Memory.wf u.mem = true := by
  grind -ring -linarith -lia -order -ac [execVcmpn, laneAlu_wf]
theorem execVlane_wf (o : LaneOp) (s : State) (hm : Memory.wf s.mem = true) :
    ∀ u, execVlane o s = .next u → Memory.wf u.mem = true := by
  grind -ring -linarith -lia -order -ac [execVlane, laneAlu_wf]
theorem execVmad_wf (o : LaneOp) (s : State) (hm : Memory.wf s.mem = true) :
    ∀ u, execVmad o s = .next u → Memory.wf u.mem = true := by
  grind -ring -linarith -lia -order -ac [execVmad, laneAlu_wf]
theorem execVmul_wf (o : LaneOp) (s : State) (hm : Memory.wf s.mem = true) :
    ∀ u, execVmul o s = .next u → Memory.wf u.mem = true := by
  grind -ring -linarith -lia -order -ac [execVmul, laneAlu_wf]
theorem execVmulh_wf (o : LaneOp) (s : State) (hm : Memory.wf s.mem = true) :
    ∀ u, execVmulh o s = .next u → Memory.wf u.mem = true := by
  grind -ring -linarith -lia -order -ac [execVmulh, laneAlu_wf]
theorem execVmulhn_wf (o : LaneOp) (s : State) (hm : Memory.wf s.mem = true) :
    ∀ u, execVmulhn o s = .next u → Memory.wf u.mem = true := by
  grind -ring -linarith -lia -order -ac [execVmulhn, laneAlu_wf]
theorem execVsub_wf (o : LaneOp) (s : State) (hm : Memory.wf s.mem = true) :
    ∀ u, execVsub o s = .next u → Memory.wf u.mem = true := by
  grind -ring -linarith -lia -order -ac [execVsub, laneAlu_wf]
theorem execVmin_wf (o : LaneOp) (s : State) (hm : Memory.wf s.mem = true) :
    ∀ u, execVmin o s = .next u → Memory.wf u.mem = true := by
  grind -ring -linarith -lia -order -ac [execVmin, laneAlu_wf]
theorem execVmax_wf (o : LaneOp) (s : State) (hm : Memory.wf s.mem = true) :
    ∀ u, execVmax o s = .next u → Memory.wf u.mem = true := by
  grind -ring -linarith -lia -order -ac [execVmax, laneAlu_wf]
theorem execVminn_wf (o : LaneOp) (s : State) (hm : Memory.wf s.mem = true) :
    ∀ u, execVminn o s = .next u → Memory.wf u.mem = true := by
  grind -ring -linarith -lia -order -ac [execVminn, laneAlu_wf]
theorem execVmaxn_wf (o : LaneOp) (s : State) (hm : Memory.wf s.mem = true) :
    ∀ u, execVmaxn o s = .next u → Memory.wf u.mem = true := by
  grind -ring -linarith -lia -order -ac [execVmaxn, laneAlu_wf]
theorem execVor_wf (o : LaneOp) (s : State) (hm : Memory.wf s.mem = true) :
    ∀ u, execVor o s = .next u → Memory.wf u.mem = true := by
  grind -ring -linarith -lia -order -ac [execVor, laneAlu_wf]
theorem execVxor_wf (o : LaneOp) (s : State) (hm : Memory.wf s.mem = true) :
    ∀ u, execVxor o s = .next u → Memory.wf u.mem = true := by
  grind -ring -linarith -lia -order -ac [execVxor, laneAlu_wf]
theorem execVpopc_wf (o : LaneOp) (s : State) (hm : Memory.wf s.mem = true) :
    ∀ u, execVpopc o s = .next u → Memory.wf u.mem = true := by
  grind -ring -linarith -lia -order -ac [execVpopc, laneAlu_wf]
theorem execVshl_wf (o : LaneOp) (s : State) (hm : Memory.wf s.mem = true) :
    ∀ u, execVshl o s = .next u → Memory.wf u.mem = true := by
  grind -ring -linarith -lia -order -ac [execVshl, laneAlu_wf]
theorem execVshr_wf (o : LaneOp) (s : State) (hm : Memory.wf s.mem = true) :
    ∀ u, execVshr o s = .next u → Memory.wf u.mem = true := by
  grind -ring -linarith -lia -order -ac [execVshr, laneAlu_wf]
theorem execVsar_wf (o : LaneOp) (s : State) (hm : Memory.wf s.mem = true) :
    ∀ u, execVsar o s = .next u → Memory.wf u.mem = true := by
  grind -ring -linarith -lia -order -ac [execVsar, laneAlu_wf]
theorem execVsel_wf (o : LaneOp) (s : State) (hm : Memory.wf s.mem = true) :
    ∀ u, execVsel o s = .next u → Memory.wf u.mem = true := by
  grind -ring -linarith -lia -order -ac [execVsel, laneAlu_wf]
theorem execVmov_wf (o : LaneOp) (s : State) (hm : Memory.wf s.mem = true) :
    ∀ u, execVmov o s = .next u → Memory.wf u.mem = true := by
  grind -ring -linarith -lia -order -ac [execVmov, laneAlu_wf]
theorem execVmovs_wf (o : LaneOp) (s : State) (hm : Memory.wf s.mem = true) :
    ∀ u, execVmovs o s = .next u → Memory.wf u.mem = true := by
  grind -ring -linarith -lia -order -ac [execVmovs, laneAlu_wf]
theorem execVpack_wf (o : LaneOp) (s : State) (hm : Memory.wf s.mem = true) :
    ∀ u, execVpack o s = .next u → Memory.wf u.mem = true := by
  grind -ring -linarith -lia -order -ac [execVpack, laneAlu_wf]
theorem execVunpk_wf (o : LaneOp) (s : State) (hm : Memory.wf s.mem = true) :
    ∀ u, execVunpk o s = .next u → Memory.wf u.mem = true := by
  grind -ring -linarith -lia -order -ac [execVunpk, laneAlu_wf]
theorem execVplog_wf (o : LaneOp) (s : State) (hm : Memory.wf s.mem = true) :
    ∀ u, execVplog o s = .next u → Memory.wf u.mem = true := by
  grind -ring -linarith -lia -order -ac [execVplog, laneAlu_wf]
theorem execVpmovS_wf (o : LaneOp) (s : State) (hm : Memory.wf s.mem = true) :
    ∀ u, execVpmovS o s = .next u → Memory.wf u.mem = true := by
  grind -ring -linarith -lia -order -ac [execVpmovS, laneAlu_wf]
theorem execVpmovP_wf (o : LaneOp) (s : State) (hm : Memory.wf s.mem = true) :
    ∀ u, execVpmovP o s = .next u → Memory.wf u.mem = true := by
  grind -ring -linarith -lia -order -ac [execVpmovP, laneAlu_wf]
theorem execVrng_wf (o : LaneOp) (s : State) (hm : Memory.wf s.mem = true) :
    ∀ u, execVrng o s = .next u → Memory.wf u.mem = true := by
  grind -ring -linarith -lia -order -ac [execVrng, laneAlu_wf]
theorem execVfadd_wf (o : LaneOp) (s : State) (hm : Memory.wf s.mem = true) :
    ∀ u, execVfadd o s = .next u → Memory.wf u.mem = true := by
  grind -ring -linarith -lia -order -ac [execVfadd, laneAlu_wf]
theorem execVfsub_wf (o : LaneOp) (s : State) (hm : Memory.wf s.mem = true) :
    ∀ u, execVfsub o s = .next u → Memory.wf u.mem = true := by
  grind -ring -linarith -lia -order -ac [execVfsub, laneAlu_wf]
theorem execVfmul_wf (o : LaneOp) (s : State) (hm : Memory.wf s.mem = true) :
    ∀ u, execVfmul o s = .next u → Memory.wf u.mem = true := by
  grind -ring -linarith -lia -order -ac [execVfmul, laneAlu_wf]
theorem execVfma_wf (o : LaneOp) (s : State) (hm : Memory.wf s.mem = true) :
    ∀ u, execVfma o s = .next u → Memory.wf u.mem = true := by
  grind -ring -linarith -lia -order -ac [execVfma, laneAlu_wf]
theorem execVhfma_wf (o : LaneOp) (s : State) (hm : Memory.wf s.mem = true) :
    ∀ u, execVhfma o s = .next u → Memory.wf u.mem = true := by
  grind -ring -linarith -lia -order -ac [execVhfma, laneAlu_wf]
theorem execVbfma_wf (o : LaneOp) (s : State) (hm : Memory.wf s.mem = true) :
    ∀ u, execVbfma o s = .next u → Memory.wf u.mem = true := by
  grind -ring -linarith -lia -order -ac [execVbfma, laneAlu_wf]
theorem execVfmin_wf (o : LaneOp) (s : State) (hm : Memory.wf s.mem = true) :
    ∀ u, execVfmin o s = .next u → Memory.wf u.mem = true := by
  grind -ring -linarith -lia -order -ac [execVfmin, laneAlu_wf]
theorem execVfmax_wf (o : LaneOp) (s : State) (hm : Memory.wf s.mem = true) :
    ∀ u, execVfmax o s = .next u → Memory.wf u.mem = true := by
  grind -ring -linarith -lia -order -ac [execVfmax, laneAlu_wf]
theorem execVfsgn_wf (o : LaneOp) (s : State) (hm : Memory.wf s.mem = true) :
    ∀ u, execVfsgn o s = .next u → Memory.wf u.mem = true := by
  grind -ring -linarith -lia -order -ac [execVfsgn, laneAlu_wf]
theorem execVfcls_wf (o : LaneOp) (s : State) (hm : Memory.wf s.mem = true) :
    ∀ u, execVfcls o s = .next u → Memory.wf u.mem = true := by
  grind -ring -linarith -lia -order -ac [execVfcls, laneAlu_wf]
theorem execVfcmp_wf (o : LaneOp) (s : State) (hm : Memory.wf s.mem = true) :
    ∀ u, execVfcmp o s = .next u → Memory.wf u.mem = true := by
  grind -ring -linarith -lia -order -ac [execVfcmp, laneAlu_wf]
theorem execVcvt_wf (o : LaneOp) (s : State) (hm : Memory.wf s.mem = true) :
    ∀ u, execVcvt o s = .next u → Memory.wf u.mem = true := by
  grind -ring -linarith -lia -order -ac [execVcvt, laneAlu_wf]
theorem execVcvts_wf (o : LaneOp) (s : State) (hm : Memory.wf s.mem = true) :
    ∀ u, execVcvts o s = .next u → Memory.wf u.mem = true := by
  grind -ring -linarith -lia -order -ac [execVcvts, laneAlu_wf]
theorem execVbcst_wf (o : LaneOp) (s : State) (hm : Memory.wf s.mem = true) :
    ∀ u, execVbcst o s = .next u → Memory.wf u.mem = true := by
  grind -ring -linarith -lia -order -ac [execVbcst, laneAlu_wf]
theorem execVshfl_wf (o : LaneOp) (s : State) (hm : Memory.wf s.mem = true) :
    ∀ u, execVshfl o s = .next u → Memory.wf u.mem = true := by
  grind -ring -linarith -lia -order -ac [execVshfl, laneAlu_wf]
theorem execVrot_wf (o : LaneOp) (s : State) (hm : Memory.wf s.mem = true) :
    ∀ u, execVrot o s = .next u → Memory.wf u.mem = true := by
  grind -ring -linarith -lia -order -ac [execVrot, laneAlu_wf]
theorem execVred_wf (o : LaneOp) (s : State) (hm : Memory.wf s.mem = true) :
    ∀ u, execVred o s = .next u → Memory.wf u.mem = true := by
  grind -ring -linarith -lia -order -ac [execVred, laneAlu_wf]
theorem execVscan_wf (o : LaneOp) (s : State) (hm : Memory.wf s.mem = true) :
    ∀ u, execVscan o s = .next u → Memory.wf u.mem = true := by
  grind -ring -linarith -lia -order -ac [execVscan, laneAlu_wf]
theorem execVvote_wf (o : LaneOp) (s : State) (hm : Memory.wf s.mem = true) :
    ∀ u, execVvote o s = .next u → Memory.wf u.mem = true := by
  grind -ring -linarith -lia -order -ac [execVvote, laneAlu_wf]
theorem laneAccess_wf (isY : Bool) (la : Nat) (r : LaneReq) (s : State) (hm : Memory.wf s.mem = true) :
    Memory.wf (laneAccess isY la r s).2.mem = true := by
  grind -ring -linarith -lia -order -ac [laneAccess, setFrag_wf]
theorem laneIssue_wf (isY : Bool) (la : Nat) (r : LaneReq) (s : State) (hm : Memory.wf s.mem = true) :
    Memory.wf (laneIssue isY la r s).mem = true := by
  grind -ring -linarith -lia -order -ac [laneIssue, issue_wf, laneAccess_wf]
theorem laneMem_wf (k : LaneKind) (r : LaneOp → State → LaneReq) (o : LaneOp) (s : State) (hm : Memory.wf s.mem = true) :
    Memory.wf (laneMem k r o s).mem = true := by
  grind -ring -linarith -lia -order -ac [laneMem, raiseLaneOwn_wf, laneIssue_wf]
theorem execVld_wf (o : LaneOp) (s : State) (hm : Memory.wf s.mem = true) :
    ∀ u, execVld o s = .next u → Memory.wf u.mem = true := by
  grind -ring -linarith -lia -order -ac [execVld, laneMem_wf]
theorem execVldc_wf (o : LaneOp) (s : State) (hm : Memory.wf s.mem = true) :
    ∀ u, execVldc o s = .next u → Memory.wf u.mem = true := by
  grind -ring -linarith -lia -order -ac [execVldc, laneMem_wf]
theorem execVldm_wf (o : LaneOp) (s : State) (hm : Memory.wf s.mem = true) :
    ∀ u, execVldm o s = .next u → Memory.wf u.mem = true := by
  grind -ring -linarith -lia -order -ac [execVldm, laneMem_wf]
theorem execVprf_wf (o : LaneOp) (s : State) (hm : Memory.wf s.mem = true) :
    ∀ u, execVprf o s = .next u → Memory.wf u.mem = true := by
  grind -ring -linarith -lia -order -ac [execVprf, laneMem_wf]
theorem execVst_wf (o : LaneOp) (s : State) (hm : Memory.wf s.mem = true) :
    ∀ u, execVst o s = .next u → Memory.wf u.mem = true := by
  grind -ring -linarith -lia -order -ac [execVst, laneMem_wf]
theorem execVstc_wf (o : LaneOp) (s : State) (hm : Memory.wf s.mem = true) :
    ∀ u, execVstc o s = .next u → Memory.wf u.mem = true := by
  grind -ring -linarith -lia -order -ac [execVstc, laneMem_wf]
theorem execVstn_wf (o : LaneOp) (s : State) (hm : Memory.wf s.mem = true) :
    ∀ u, execVstn o s = .next u → Memory.wf u.mem = true := by
  grind -ring -linarith -lia -order -ac [execVstn, laneMem_wf]
theorem execVatom_wf (o : LaneOp) (s : State) (hm : Memory.wf s.mem = true) :
    ∀ u, execVatom o s = .next u → Memory.wf u.mem = true := by
  grind -ring -linarith -lia -order -ac [execVatom, laneMem_wf]
theorem execVatomNtf_wf (o : LaneOp) (s : State) (hm : Memory.wf s.mem = true) :
    ∀ u, execVatomNtf o s = .next u → Memory.wf u.mem = true := by
  grind -ring -linarith -lia -order -ac [execVatomNtf, laneMem_wf]
theorem execVcas_wf (o : LaneOp) (s : State) (hm : Memory.wf s.mem = true) :
    ∀ u, execVcas o s = .next u → Memory.wf u.mem = true := by
  grind -ring -linarith -lia -order -ac [execVcas, laneMem_wf]
theorem pairRun_wf (x y : CompactOp) (s : State) (hm : Memory.wf s.mem = true) :
    Memory.wf (pairRun x y s).mem = true := by
  grind -ring -linarith -lia -order -ac [pairRun, setCord_wf, setFrag_wf, deliverTrap_wf, issue_wf, laneAccess_wf]
theorem execPairWord_wf (x y : CompactOp) (s : State) (hm : Memory.wf s.mem = true) :
    ∀ u, execPairWord x y s = .next u → Memory.wf u.mem = true := by
  grind -ring -linarith -lia -order -ac [execPairWord, raiseLaneOwn_wf, pairRun_wf]
theorem takeLock_wf (h : LockHolder) (s : State) (hm : Memory.wf s.mem = true) :
    Memory.wf (takeLock h s).mem = true := by
  grind -ring -linarith -lia -order -ac [takeLock, flushHosts_wf, mapHosts_wf]
theorem releaseLock_wf (s : State) (hm : Memory.wf s.mem = true) :
    Memory.wf (releaseLock s).mem = true := by
  grind -ring -linarith -lia -order -ac [releaseLock]
theorem awaitLock_wf (h : LockHolder) (s : State) (hm : Memory.wf s.mem = true) :
    Memory.wf (awaitLock h s).mem = true := by
  grind -ring -linarith -lia -order -ac [awaitLock]
theorem execFallbackLockTake_wf (s : State) (hm : Memory.wf s.mem = true) :
    ∀ u, execFallbackLockTake s = .next u → Memory.wf u.mem = true := by
  grind -ring -linarith -lia -order -ac [execFallbackLockTake, takeLock_wf]
theorem txAcquire_wf (s : State) (hm : Memory.wf s.mem = true) :
    Memory.wf (txAcquire s).mem = true := by
  grind -ring -linarith -lia -order -ac [txAcquire, dropReach_wf]
theorem txbFirst_wf (fb : Bool) (v : VReg) (target : Word) (n : Nat) (s : State) (hm : Memory.wf s.mem = true) :
    Memory.wf (txbFirst fb v target n s).mem = true := by
  grind -ring -linarith -lia -order -ac [txbFirst, setCord_wf, advance_wf, txAcquire_wf]
theorem txbRetry_wf (ls : List Nat) (lock : Bool) (s : State) (hm : Memory.wf s.mem = true) :
    Memory.wf (txbRetry ls lock s).mem = true := by
  grind -ring -linarith -lia -order -ac [txbRetry, setFrag_wf, advance_wf, txAcquire_wf]
theorem txbAgain_wf (s : State) (hm : Memory.wf s.mem = true) :
    Memory.wf (txbAgain s).mem = true := by
  grind -ring -linarith -lia -order -ac [txbAgain, wait_wf, takeLock_wf, awaitLock_wf, txbRetry_wf]
theorem txBegin_wf (fb : Bool) (d a : Reg) (n : BitVec 4) (s : State) (hm : Memory.wf s.mem = true) :
    Memory.wf (txBegin fb d a n s).mem = true := by
  grind -ring -linarith -lia -order -ac [txBegin, setFrag_wf, advance_wf, raiseScalar_wf, raiseOwn_wf, txbFirst_wf, txbAgain_wf]
theorem execTxb_wf (d a : Reg) (n : BitVec 4) (s : State) (hm : Memory.wf s.mem = true) :
    ∀ u, execTxb d a n s = .next u → Memory.wf u.mem = true := by
  grind -ring -linarith -lia -order -ac [execTxb, txBegin_wf]
theorem execTxbF_wf (d a : Reg) (n : BitVec 4) (s : State) (hm : Memory.wf s.mem = true) :
    ∀ u, execTxbF d a n s = .next u → Memory.wf u.mem = true := by
  grind -ring -linarith -lia -order -ac [execTxbF, txBegin_wf]
theorem execTxa_wf (c : BitVec 6) (s : State) (hm : Memory.wf s.mem = true) :
    ∀ u, execTxa c s = .next u → Memory.wf u.mem = true := by
  grind -ring -linarith -lia -order -ac [execTxa, setFrag_wf, advance_wf]
theorem execTxst_wf (d : Reg) (s : State) (hm : Memory.wf s.mem = true) :
    ∀ u, execTxst d s = .next u → Memory.wf u.mem = true := by
  grind -ring -linarith -lia -order -ac [execTxst, wait_wf, result_wf]
theorem publish_wf (t : LaneTx) (s : State) (hm : Memory.wf s.mem = true) :
    Memory.wf (publish t s).mem = true := by
  grind -ring -linarith -lia -order -ac [publish, touchSlice_wf, memWriteMask_wf, foldl_wf, foldl_memory_wf, foldl_pair_wf]
theorem judge_wf (lock : Bool) (t : LaneTx) (s : State) (hm : Memory.wf s.mem = true) :
    Memory.wf (judge lock t s).2.mem = true := by
  grind -ring -linarith -lia -order -ac [judge, publish_wf]
theorem judgeAll_wf (lock : Bool) (x0 : List LaneTx) (s : State) (hm : Memory.wf s.mem = true) :
    Memory.wf (judgeAll lock x0 s).2.mem = true := by
  fun_induction judgeAll lock x0 s <;> grind -ring -linarith -lia -order -ac [judge_wf]
theorem lockLines_wf (s : State) (hm : Memory.wf s.mem = true) :
    Memory.wf (lockLines s).2.mem = true ∧ ∀ u, (lockLines s).1 = some u → Memory.wf u.mem = true := by
  have key : ∀ (xs : List Nat) (g : Nat → Nat) (p : Option State × State), Memory.wf p.2.mem = true → (∀ u, p.1 = some u → Memory.wf u.mem = true) →
      let q := xs.foldl (fun p a => match claimLine (g a) true none p.2 with
        | some s' => (none, s')
        | none => if movingNow p.2 (gfnOf a) then (none, p.2) else p) p
      Memory.wf q.2.mem = true ∧ ∀ u, q.1 = some u → Memory.wf u.mem = true := by
    intro xs g
    induction xs with
    | nil => intro p h1 h2; exact ⟨h1, h2⟩
    | cons x xs ih =>
      intro p h1 h2
      rw [List.foldl_cons]
      split
      · rename_i s' he
        exact ih _ (claimLine_wf _ _ _ _ h1 _ he) (fun u hu => by cases hu)
      · split
        · exact ih _ h1 (fun u hu => by cases hu)
        · exact ih _ h1 h2
  exact key (txAddrs s.cord.frag) lineOf (some s, s) hm (fun u hu => by injection hu with hu; subst hu; exact hm)
theorem txcJudge_wf (s : State) (hm : Memory.wf s.mem = true) :
    Memory.wf (txcJudge s).mem = true := by
  grind -ring -linarith -lia -order -ac [txcJudge, setCord_wf, releaseLock_wf, txAcquire_wf, judgeAll_wf]
theorem txcEmpty_wf (s : State) (hm : Memory.wf s.mem = true) :
    Memory.wf (txcEmpty s).mem = true := by
  grind -ring -linarith -lia -order -ac [txcEmpty, setCord_wf]
theorem execTxc_wf (s : State) (hm : Memory.wf s.mem = true) :
    ∀ u, execTxc s = .next u → Memory.wf u.mem = true := by
  grind -ring -linarith -lia -order -ac [execTxc, advance_wf, wait_wf, fence_wf, lockLines_wf, txcJudge_wf, txcEmpty_wf]

end Sys2Proof.Laws
end

