-- ==== Sys2Proof/Laws/KeptHosts.lean ====
section
/-! SUPPORT. Host cores, issue, queues, the handler and the engines that copy and gather keep memory in canonical form. Each lemma is named after its operation. -/

namespace Sys2Proof.Laws

set_option Elab.async false

open Sys2Proof Sys2Proof.Machine

theorem scalarIssue_wf (a : Access) (s : State) (hm : Memory.wf s.mem = true) :
    Memory.wf (scalarIssue a s).mem = true := by
  grind -ring -linarith -lia -order -ac [scalarIssue, advance_wf, issue_wf]
theorem execLdw_wf (d a : Reg) (o : BitVec 10) (l : BitVec 4) (s : State) (hm : Memory.wf s.mem = true) :
    ∀ u, execLdw d a o l s = .next u → Memory.wf u.mem = true := by
  grind -ring -linarith -lia -order -ac [execLdw, scalarIssue_wf]
theorem execLdd_wf (d a : Reg) (o : BitVec 10) (l : BitVec 4) (s : State) (hm : Memory.wf s.mem = true) :
    ∀ u, execLdd d a o l s = .next u → Memory.wf u.mem = true := by
  grind -ring -linarith -lia -order -ac [execLdd, scalarIssue_wf]
theorem execStw_wf (d a : Reg) (o : BitVec 10) (l : BitVec 4) (s : State) (hm : Memory.wf s.mem = true) :
    ∀ u, execStw d a o l s = .next u → Memory.wf u.mem = true := by
  grind -ring -linarith -lia -order -ac [execStw, scalarIssue_wf]
theorem execStd_wf (d a : Reg) (o : BitVec 10) (l : BitVec 4) (s : State) (hm : Memory.wf s.mem = true) :
    ∀ u, execStd d a o l s = .next u → Memory.wf u.mem = true := by
  grind -ring -linarith -lia -order -ac [execStd, scalarIssue_wf]
theorem execStn_wf (d a : Reg) (o : BitVec 10) (l : BitVec 4) (s : State) (hm : Memory.wf s.mem = true) :
    ∀ u, execStn d a o l s = .next u → Memory.wf u.mem = true := by
  grind -ring -linarith -lia -order -ac [execStn, outsideBody_wf, scalarIssue_wf]
theorem scalarAtomic_wf (scope : Nat) (d a b : Reg) (f l : BitVec 4) (s : State) (hm : Memory.wf s.mem = true) :
    Memory.wf (scalarAtomic scope d a b f l s).mem = true := by
  grind -ring -linarith -lia -order -ac [scalarAtomic, scalarIssue_wf]
theorem execAtomClu_wf (d a b : Reg) (f l : BitVec 4) (s : State) (hm : Memory.wf s.mem = true) :
    ∀ u, execAtomClu d a b f l s = .next u → Memory.wf u.mem = true := by
  grind -ring -linarith -lia -order -ac [execAtomClu, outsideBody_wf, scalarAtomic_wf]
theorem execAtomDie_wf (d a b : Reg) (f l : BitVec 4) (s : State) (hm : Memory.wf s.mem = true) :
    ∀ u, execAtomDie d a b f l s = .next u → Memory.wf u.mem = true := by
  grind -ring -linarith -lia -order -ac [execAtomDie, outsideBody_wf, scalarAtomic_wf]
theorem execAtomPkg_wf (d a b : Reg) (f l : BitVec 4) (s : State) (hm : Memory.wf s.mem = true) :
    ∀ u, execAtomPkg d a b f l s = .next u → Memory.wf u.mem = true := by
  grind -ring -linarith -lia -order -ac [execAtomPkg, outsideBody_wf, scalarAtomic_wf]
theorem execAtomNode_wf (d a b : Reg) (f l : BitVec 4) (s : State) (hm : Memory.wf s.mem = true) :
    ∀ u, execAtomNode d a b f l s = .next u → Memory.wf u.mem = true := by
  grind -ring -linarith -lia -order -ac [execAtomNode, outsideBody_wf, scalarAtomic_wf]
theorem execAtomPod_wf (d a b : Reg) (f l : BitVec 4) (s : State) (hm : Memory.wf s.mem = true) :
    ∀ u, execAtomPod d a b f l s = .next u → Memory.wf u.mem = true := by
  grind -ring -linarith -lia -order -ac [execAtomPod, outsideBody_wf, scalarAtomic_wf]
theorem execSndm_wf (a b : Reg) (s : State) (hm : Memory.wf s.mem = true) :
    ∀ u, execSndm a b s = .next u → Memory.wf u.mem = true := by
  grind -ring -linarith -lia -order -ac [execSndm, outsideBody_wf, scalarIssue_wf]
theorem execPgmv_wf (c a b : Reg) (l : BitVec 4) (s : State) (hm : Memory.wf s.mem = true) :
    ∀ u, execPgmv c a b l s = .next u → Memory.wf u.mem = true := by
  grind -ring -linarith -lia -order -ac [execPgmv, raiseScalar_wf, outsideBody_wf, scalarIssue_wf]
theorem writeTail_wf (q : Queue) (t : Word) (s : State) (hm : Memory.wf s.mem = true) :
    Memory.wf (writeTail q t s).mem = true := by
  grind -ring -linarith -lia -order -ac [writeTail, journalEntry_wf, setQueue_wf]
theorem execTailWrite_wf (q : QueueNo) (t : Word) (s : State) (hm : Memory.wf s.mem = true) :
    ∀ u, execTailWrite q t s = .next u → Memory.wf u.mem = true := by
  grind -ring -linarith -lia -order -ac [execTailWrite, writeTail_wf]
theorem writeChead_wf (q : Queue) (h : Word) (s : State) (hm : Memory.wf s.mem = true) :
    Memory.wf (writeChead q h s).mem = true := by
  grind -ring -linarith -lia -order -ac [writeChead, journalEntry_wf, setQueue_wf]
theorem execCheadWrite_wf (q : QueueNo) (h : Word) (s : State) (hm : Memory.wf s.mem = true) :
    ∀ u, execCheadWrite q h s = .next u → Memory.wf u.mem = true := by
  grind -ring -linarith -lia -order -ac [execCheadWrite, writeChead_wf]
theorem complete_wf (q : QueueNo) (seq a : Nat) (tag : Word) (status code : Nat) (extra : Word) (cint : Bool) (s : State) (hm : Memory.wf s.mem = true) :
    Memory.wf (complete q seq a tag status code extra cint s).mem = true := by
  grind -ring -linarith -lia -order -ac [complete, journalEntry_wf]
theorem failDependents_wf (q : QueueNo) (seq : Nat) (s : State) (hm : Memory.wf s.mem = true) :
    Memory.wf (failDependents q seq s).mem = true := by
  grind -ring -linarith -lia -order -ac [failDependents, unreserve_wf, foldl_wf, foldl_memory_wf, foldl_pair_wf]
theorem finishLaunch_wf (l : Launch) (status code : Nat) (s : State) (hm : Memory.wf s.mem = true) :
    Memory.wf (finishLaunch l status code s).mem = true := by
  grind -ring -linarith -lia -order -ac [finishLaunch, unreserve_wf, setLaunch_wf, complete_wf, failDependents_wf]
theorem releasePackage_wf (s : State) (hm : Memory.wf s.mem = true) :
    Memory.wf (releasePackage s).2.mem = true := by
  grind -ring -linarith -lia -order -ac [releasePackage, writeBackReach_wf, foldl_wf, foldl_memory_wf, foldl_pair_wf]
theorem execLevelGroupComplete_wf (q : QueueNo) (seq level group : Nat) (s : State) (hm : Memory.wf s.mem = true) :
    ∀ u, execLevelGroupComplete q seq level group s = .next u → Memory.wf u.mem = true := by
  grind -ring -linarith -lia -order -ac [execLevelGroupComplete, setLaunch_wf, releasePackage_wf]
theorem execLaunchComplete_wf (q : QueueNo) (seq : Nat) (s : State) (hm : Memory.wf s.mem = true) :
    ∀ u, execLaunchComplete q seq s = .next u → Memory.wf u.mem = true := by
  grind -ring -linarith -lia -order -ac [execLaunchComplete, finishLaunch_wf, releasePackage_wf]
theorem acceptRecord_wf (q : Queue) (r : BitVec 1024) (s : State) (hm : Memory.wf s.mem = true) :
    Memory.wf (acceptRecord q r s).mem = true := by
  unfold acceptRecord
  dsimp only
  split
  · exact journalEntry_wf _ _ _ _ _ hm
  · exact finishLaunch_wf _ _ _ _ (journalEntry_wf _ _ _ _ _ hm)
theorem execLaunchRecordFetch_wf (q : QueueNo) (s : State) (hm : Memory.wf s.mem = true) :
    ∀ u, execLaunchRecordFetch q s = .next u → Memory.wf u.mem = true := by
  grind -ring -linarith -lia -order -ac [execLaunchRecordFetch, forgetEng_wf, engRead_wf, acceptRecord_wf]
theorem recordWritten_wf (q : Queue) (c : Completion) (s : State) (hm : Memory.wf s.mem = true) :
    Memory.wf (recordWritten q c s).mem = true := by
  unfold recordWritten
  dsimp only
  have h : ∀ t : State, Memory.wf t.mem = true → Memory.wf (match q.vector with
      | some v => if c.status != 0 || c.cint then raiseMsix v t else t
      | none => t).mem = true := by
    intro t ht
    split
    · split
      · exact raiseMsix_wf _ _ ht
      · exact ht
    · exact ht
  apply h
  split
  · exact hm
  · exact hm
theorem writeRecord_wf (q : Queue) (c : Completion) (s : State) (hm : Memory.wf s.mem = true) :
    Memory.wf (writeRecord q c s).mem = true := by
  grind -ring -linarith -lia -order -ac [writeRecord, forgetEng_wf, engWritePhys_wf, engWrite_wf, recordWritten_wf]
theorem execCompletionRecordWrite_wf (q : QueueNo) (s : State) (hm : Memory.wf s.mem = true) :
    ∀ u, execCompletionRecordWrite q s = .next u → Memory.wf u.mem = true := by
  grind -ring -linarith -lia -order -ac [execCompletionRecordWrite, writeRecord_wf]
theorem setHost_wf (f : HostCore → HostCore) (s : State) (hm : Memory.wf s.mem = true) :
    Memory.wf (setHost f s).mem = true := by
  grind -ring -linarith -lia -order -ac [setHost]
theorem selectHost_wf (h : HostNo) (s : State) (hm : Memory.wf s.mem = true) :
    Memory.wf (selectHost h s).mem = true := by
  grind -ring -linarith -lia -order -ac [selectHost]
theorem hostClash_wf (line : Nat) (isWrite : Bool) (s : State) (hm : Memory.wf s.mem = true) :
    Memory.wf (hostClash line isWrite s).mem = true := by
  grind -ring -linarith -lia -order -ac [hostClash, hostConflict_wf, setHost_wf]
theorem abortHost_wf (cause code : Nat) (s : State) (hm : Memory.wf s.mem = true) :
    Memory.wf (abortHost cause code s).mem = true := by
  grind -ring -linarith -lia -order -ac [abortHost, flushHosts_wf, setHost_wf]
theorem hostException_wf (cause : Nat) (value : DWord) (s : State) (hm : Memory.wf s.mem = true) :
    Memory.wf (hostException cause value s).mem = true := by
  grind -ring -linarith -lia -order -ac [hostException, setHost_wf, abortHost_wf]
theorem execHtxb_wf (i : BitVec 12) (d : BitVec 5) (s : State) (hm : Memory.wf s.mem = true) :
    ∀ u, execHtxb i d s = .next u → Memory.wf u.mem = true := by
  grind -ring -linarith -lia -order -ac [execHtxb, setHost_wf, abortHost_wf]
theorem execHtxbF_wf (d : BitVec 5) (s : State) (hm : Memory.wf s.mem = true) :
    ∀ u, execHtxbF d s = .next u → Memory.wf u.mem = true := by
  grind -ring -linarith -lia -order -ac [execHtxbF, takeLock_wf, awaitLock_wf, setHost_wf, abortHost_wf]
theorem lockHostLines_wf (ls : List Nat) (s : State) (hm : Memory.wf s.mem = true) :
    Memory.wf (lockHostLines ls s).2.mem = true ∧ ∀ u, (lockHostLines ls s).1 = some u → Memory.wf u.mem = true := by
  have key : ∀ (xs : List Nat) (g : Nat → Nat) (p : Option State × State), Memory.wf p.2.mem = true → (∀ u, p.1 = some u → Memory.wf u.mem = true) →
      let q := xs.foldl (fun p a => match claimLine (g a) true none p.2 with
        | some s' => (none, s')
        | none => if movingNow p.2 (gfnOf a) then (none, p.2) else p) p
      Memory.wf q.2.mem = true ∧ ∀ u, q.1 = some u → Memory.wf u.mem = true := by
    intro xs g
    induction xs with
    | nil => intro p h1 h2; exact ⟨h1, h2⟩
    | cons x xs ih =>
      intro p h1 h2
      rw [List.foldl_cons]
      split
      · rename_i s' he
        exact ih _ (claimLine_wf _ _ _ _ h1 _ he) (fun u hu => by cases hu)
      · split
        · exact ih _ h1 (fun u hu => by cases hu)
        · exact ih _ h1 h2
  exact key ls (fun l => l) (some s, s) hm (fun u hu => by injection hu with hu; subst hu; exact hm)
theorem hostPublish_wf (s : State) (hm : Memory.wf s.mem = true) :
    Memory.wf (hostPublish s).mem = true := by
  grind -ring -linarith -lia -order -ac [hostPublish, touchMask_wf, setHost_wf, hostClash_wf, memSet_wf, foldl_wf, foldl_memory_wf, foldl_pair_wf]
theorem takeTicket_wf (s : State) (hm : Memory.wf s.mem = true) :
    Memory.wf (takeTicket s).2.mem = true := by
  grind -ring -linarith -lia -order -ac [takeTicket, setHost_wf]
theorem execHtxc_wf (s : State) (hm : Memory.wf s.mem = true) :
    ∀ u, execHtxc s = .next u → Memory.wf u.mem = true := by
  grind -ring -linarith -lia -order -ac [execHtxc, releaseLock_wf, setHost_wf, lockHostLines_wf, hostPublish_wf, takeTicket_wf]
theorem execHtxa_wf (c : BitVec 6) (s : State) (hm : Memory.wf s.mem = true) :
    ∀ u, execHtxa c s = .next u → Memory.wf u.mem = true := by
  grind -ring -linarith -lia -order -ac [execHtxa, setHost_wf, abortHost_wf]
theorem execHtxs_wf (d : BitVec 5) (s : State) (hm : Memory.wf s.mem = true) :
    ∀ u, execHtxs d s = .next u → Memory.wf u.mem = true := by
  grind -ring -linarith -lia -order -ac [execHtxs, setHost_wf]
theorem execHostInterruptInBody_wf (n : HostNo) (s : State) (hm : Memory.wf s.mem = true) :
    ∀ u, execHostInterruptInBody n s = .next u → Memory.wf u.mem = true := by
  grind -ring -linarith -lia -order -ac [execHostInterruptInBody, selectHost_wf, abortHost_wf]
theorem hostRetry_wf (a : HostAccess) (s : State) (hm : Memory.wf s.mem = true) :
    Memory.wf (hostRetry a s).mem = true := by
  grind -ring -linarith -lia -order -ac [hostRetry]
theorem hostTxAccess_wf (a : HostAccess) (pa size : Nat) (rd : Option (BitVec 5)) (st : Nat → Option Nat) (s : State) (hm : Memory.wf s.mem = true) :
    Memory.wf (hostTxAccess a pa size rd st s).mem = true := by
  (unfold hostTxAccess; repeat' split) <;> grind -ring -linarith -lia -order -ac [touchSlice_wf, claimLine_wf, setHost_wf, hostClash_wf, abortHost_wf, hostException_wf, hostRetry_wf]
theorem setHeld_wf (pa : Nat) (f : PartnerLine → PartnerLine) (s : State) (hm : Memory.wf s.mem = true) :
    Memory.wf (setHeld pa f s).mem = true := by
  grind -ring -linarith -lia -order -ac [setHeld]
theorem hostSend_wf (p : PkgNo) (op size fn pa : Nat) (payload : List Byte) (w : Waiter) (s : State) (hm : Memory.wf s.mem = true) :
    Memory.wf (hostSend p op size fn pa payload w s).2.mem = true := by
  grind -ring -linarith -lia -order -ac [hostSend, sendReq_wf]
theorem hostFarLoad_wf (a : HostAccess) (rd : BitVec 5) (p : PkgNo) (pa size : Nat) (s : State) (hm : Memory.wf s.mem = true) :
    Memory.wf (hostFarLoad a rd p pa size s).mem = true := by
  grind -ring -linarith -lia -order -ac [hostFarLoad, setHost_wf, hostRetry_wf, hostSend_wf]
theorem hostFarStore_wf (a : HostAccess) (p : PkgNo) (pa size v : Nat) (s : State) (hm : Memory.wf s.mem = true) :
    Memory.wf (hostFarStore a p pa size v s).mem = true := by
  grind -ring -linarith -lia -order -ac [hostFarStore, hostRetry_wf, setHeld_wf, hostSend_wf]
theorem hostPlain_wf (a : HostAccess) (pa size : Nat) (rd : Option (BitVec 5)) (kind : Nat) (st : Nat → Option Nat) (far : PkgNo → State → State) (s : State) (hm : Memory.wf s.mem = true) (hfar : ∀ a0 a1, Memory.wf a1.mem = true → Memory.wf (far a0 a1).mem = true) :
    Memory.wf (hostPlain a pa size rd kind st far s).mem = true := by
  (unfold hostPlain; repeat' split) <;> grind -ring -linarith -lia -order -ac [askOwner_wf, reachSlice_wf, setHost_wf, hostClash_wf, hostException_wf, hostRetry_wf, memWrite_wf]
theorem hostInTx_wf (a : HostAccess) (pa size : Nat) (rd : Option (BitVec 5)) (st : Nat → Option Nat) (s : State) (hm : Memory.wf s.mem = true) :
    Memory.wf (hostInTx a pa size rd st s).mem = true := by
  grind -ring -linarith -lia -order -ac [hostInTx, askOwner_wf, abortHost_wf, hostException_wf, hostRetry_wf, hostTxAccess_wf]
theorem hostReach_wf (a : HostAccess) (pa size : Nat) (rd : Option (BitVec 5)) (kind : Nat) (st : Nat → Option Nat) (far : PkgNo → State → State) (s : State) (hm : Memory.wf s.mem = true) (hfar : ∀ a0 a1, Memory.wf a1.mem = true → Memory.wf (far a0 a1).mem = true) :
    Memory.wf (hostReach a pa size rd kind st far s).mem = true := by
  grind -ring -linarith -lia -order -ac [hostReach, hostPlain_wf, hostInTx_wf]
theorem hostFence_wf (a : HostAccess) (h : HostNo) (s : State) (hm : Memory.wf s.mem = true) :
    Memory.wf (hostFence a h s).mem = true := by
  grind -ring -linarith -lia -order -ac [hostFence, hostRetry_wf, getD_wf]
theorem kickWrite_wf (off : Nat) (v : Word) (s : State) (hm : Memory.wf s.mem = true) :
    Memory.wf (kickWrite off v s).mem = true := by
  grind -ring -linarith -lia -order -ac [kickWrite, writeTail_wf, writeChead_wf]
theorem hostBar_wf (h : HostNo) (k : State → State) (s : State) (hm : Memory.wf s.mem = true) (hk : ∀ a0, Memory.wf a0.mem = true → Memory.wf (k a0).mem = true) :
    Memory.wf (hostBar h k s).mem = true := by
  grind -ring -linarith -lia -order -ac [hostBar, selectHost_wf, abortHost_wf]
theorem hostTry_wf (a : HostAccess) (s : State) (hm : Memory.wf s.mem = true) :
    Memory.wf (hostTry a s).mem = true := by
  (unfold hostTry; repeat' split) <;> grind -ring -linarith -lia -order -ac [jump_wf, writeMsix_wf, fence_wf, setHost_wf, selectHost_wf, abortHost_wf, hostException_wf, hostRetry_wf, hostSend_wf, hostFarLoad_wf, hostFarStore_wf, hostReach_wf, hostFence_wf, kickWrite_wf, hostBar_wf]
theorem execHostCoreAccess_wf (a : HostAccess) (s : State) (hm : Memory.wf s.mem = true) :
    ∀ u, execHostCoreAccess a s = .next u → Memory.wf u.mem = true := by
  grind -ring -linarith -lia -order -ac [execHostCoreAccess, hostTry_wf]
theorem hostAgain_wf (h : HostNo) (s : State) (hm : Memory.wf s.mem = true) :
    Memory.wf (hostAgain h s).mem = true := by
  grind -ring -linarith -lia -order -ac [hostAgain, hostTry_wf]
theorem fetchNow_wf (e : Eng) (pa n : Nat) (s : State) (hm : Memory.wf s.mem = true) :
    Memory.wf (fetchNow e pa n s).2.mem = true := by
  grind -ring -linarith -lia -order -ac [fetchNow, keepText_wf, engReadPhys_wf]
theorem fetchPiece_wf (e : Eng) (pa n : Nat) (s : State) (hm : Memory.wf s.mem = true) :
    Memory.wf (fetchPiece e pa n s).2.mem = true := by
  grind -ring -linarith -lia -order -ac [fetchPiece, draw_wf, fetchNow_wf]
theorem fetchText_wf (st : Stream) (va : DWord) (n : Nat) (s : State) (hm : Memory.wf s.mem = true) :
    Memory.wf (fetchText st va n s).2.mem = true := by
  grind -ring -linarith -lia -order -ac [fetchText, clearMarks_wf, fetchPiece_wf, readPieces_wf]
theorem startFetch_wf (st : Stream) (pc : Word) (va : Nat) (s : State) (hm : Memory.wf s.mem = true) :
    Memory.wf (startFetch st pc va s).mem = true := by
  grind -ring -linarith -lia -order -ac [startFetch, issueAccess_wf]
theorem fetchFault_wf (st : Stream) (pc : Word) (code sub : Nat) (s : State) (hm : Memory.wf s.mem = true) :
    Memory.wf (fetchFault st pc code sub s).mem = true := by
  grind -ring -linarith -lia -order -ac [fetchFault, raise_wf]
theorem actingFrag_wf (c : CordId) (frag : Nat) (s : State) (hm : Memory.wf s.mem = true) :
    ∀ u, actingFrag c frag s = some u → Memory.wf u.mem = true := by
  grind -ring -linarith -lia -order -ac [actingFrag, selectCord_wf, setCord_wf]
theorem noteIssue_wf (s : State) (hm : Memory.wf s.mem = true) :
    Memory.wf (noteIssue s).mem = true := by
  grind -ring -linarith -lia -order -ac [noteIssue, countStreak_wf]
theorem beginScalar_wf (i : Instr) (s : State) (hm : Memory.wf s.mem = true) :
    Memory.wf (beginScalar i s).mem = true := by
  (unfold beginScalar; repeat' split) <;> grind -ring -linarith -lia -order -ac [setCord_wf, dropWait_wf, noteIssue_wf]
theorem beginLane_wf (i : Instr) (b : Block) (s : State) (hm : Memory.wf s.mem = true) :
    Memory.wf (beginLane i b s).mem = true := by
  grind -ring -linarith -lia -order -ac [beginLane, setPart_wf, setFrag_wf, noteIssue_wf]
theorem fetchAhead_wf (st : Stream) (c : CordId) (frag : Nat) (s : State) (hm : Memory.wf s.mem = true) :
    Memory.wf (fetchAhead st c frag s).mem = true := by
  grind -ring -linarith -lia -order -ac [fetchAhead, selectCord_wf, setCord_wf, setFrag_wf, fetchText_wf, startFetch_wf]
theorem frontScalar_wf (c : CordId) (frag : Nat) (s : State) (hm : Memory.wf s.mem = true) :
    (∀ u, frontScalar c frag s = .rest u → Memory.wf u.mem = true) ∧ ∀ i b u, frontScalar c frag s = .run i b u → Memory.wf u.mem = true := by
  grind -ring -linarith -lia -order -ac [frontScalar, wait_wf, fetchText_wf, startFetch_wf, fetchFault_wf, actingFrag_wf, beginScalar_wf, fetchAhead_wf]
theorem frontLane_wf (c : CordId) (frag : Nat) (s : State) (hm : Memory.wf s.mem = true) :
    (∀ u, frontLane c frag s = .rest u → Memory.wf u.mem = true) ∧ ∀ i b u, frontLane c frag s = .run i b u → Memory.wf u.mem = true := by
  grind -ring -linarith -lia -order -ac [frontLane, setFrag_wf, fetchText_wf, startFetch_wf, fetchFault_wf, actingFrag_wf, beginLane_wf, fetchAhead_wf]
theorem frontHost_wf (h : HostNo) (w : BitVec 32) (s : State) (hm : Memory.wf s.mem = true) :
    (∀ u, frontHost h w s = .rest u → Memory.wf u.mem = true) ∧ ∀ i b u, frontHost h w s = .run i b u → Memory.wf u.mem = true := by
  grind -ring -linarith -lia -order -ac [frontHost, selectHost_wf, hostException_wf]
theorem endScalar_wf (before after : State) (hm : Memory.wf after.mem = true) :
    Memory.wf (endScalar before after).mem = true := by
  grind -ring -linarith -lia -order -ac [endScalar, setPart_wf, setCord_wf]
theorem endHost_wf (h : HostNo) (w : BitVec 32) (s : State) (hm : Memory.wf s.mem = true) :
    Memory.wf (endHost h w s).mem = true := by
  grind -ring -linarith -lia -order -ac [endHost]
theorem setOther_wf (id : CordId) (f : Cord → Cord) (s : State) (hm : Memory.wf s.mem = true) :
    Memory.wf (setOther id f s).mem = true := by
  grind -ring -linarith -lia -order -ac [setOther]
theorem onSelected_wf (sa sb : Word) (k : Cord → RegSel → State → State) (s : State) (hm : Memory.wf s.mem = true) (hk : ∀ a0 a1 a2, Memory.wf a2.mem = true → Memory.wf (k a0 a1 a2).mem = true) :
    Memory.wf (onSelected sa sb k s).mem = true := by
  grind -ring -linarith -lia -order -ac [onSelected, wait_wf, raiseScalar_wf, setOther_wf]
theorem execXrd_wf (d a b : Reg) (s : State) (hm : Memory.wf s.mem = true) :
    ∀ u, execXrd d a b s = .next u → Memory.wf u.mem = true := by
  grind -ring -linarith -lia -order -ac [execXrd, result_wf, onSelected_wf]
theorem execXwr_wf (v a b : Reg) (s : State) (hm : Memory.wf s.mem = true) :
    ∀ u, execXwr v a b s = .next u → Memory.wf u.mem = true := by
  grind -ring -linarith -lia -order -ac [execXwr, advance_wf, setOther_wf, onSelected_wf]
theorem endRequest_wf (i : CordId) (s : State) (hm : Memory.wf s.mem = true) :
    Memory.wf (endRequest i s).mem = true := by
  grind -ring -linarith -lia -order -ac [endRequest, setCore_wf]
theorem execXres_wf (a b : Reg) (s : State) (hm : Memory.wf s.mem = true) :
    ∀ u, execXres a b s = .next u → Memory.wf u.mem = true := by
  grind -ring -linarith -lia -order -ac [execXres, selectCord_wf, advance_wf, fatal_wf, raiseScalar_wf, setOther_wf, endRequest_wf]
theorem execTrapDelivery_wf (c : CordId) (s : State) (hm : Memory.wf s.mem = true) :
    ∀ u, execTrapDelivery c s = .next u → Memory.wf u.mem = true := by
  grind -ring -linarith -lia -order -ac [execTrapDelivery, deliverTrap_wf, onEvent_wf, unfrozen_wf]
theorem execSupervisorRequest_wf (k : CoreId) (s : State) (hm : Memory.wf s.mem = true) :
    ∀ u, execSupervisorRequest k s = .next u → Memory.wf u.mem = true := by
  grind -ring -linarith -lia -order -ac [execSupervisorRequest, setCore_wf, selectCord_wf, served_wf]
theorem execIllegalInstruction_wf (w : IllegalWord) (s : State) (hm : Memory.wf s.mem = true) :
    ∀ u, execIllegalInstruction w s = .next u → Memory.wf u.mem = true := by
  (unfold execIllegalInstruction; repeat' split) <;> grind -ring -linarith -lia -order -ac [raiseScalar_wf, raiseLane_wf]
theorem setMapBits_wf (e : Eng) (w : WinPos) (bits : Nat) (s : State) (hm : Memory.wf s.mem = true) :
    Memory.wf (setMapBits e w bits s).mem = true := by
  grind -ring -linarith -lia -order -ac [setMapBits, winWrite_wf]
theorem execLmtst_wf (a : Reg) (w : BitVec 3) (l : BitVec 4) (s : State) (hm : Memory.wf s.mem = true) :
    ∀ u, execLmtst a w l s = .next u → Memory.wf u.mem = true := by
  grind -ring -linarith -lia -order -ac [execLmtst, wait_wf, outsideBody_wf, refuseCmd_wf, scalarIssue_wf]
theorem execLmwt_wf (a : Reg) (w : BitVec 3) (s : State) (hm : Memory.wf s.mem = true) :
    ∀ u, execLmwt a w s = .next u → Memory.wf u.mem = true := by
  grind -ring -linarith -lia -order -ac [execLmwt, advance_wf, wait_wf, outsideBody_wf, fenceStep_wf, refuseCmd_wf]
theorem execLmclr_wf (a : Reg) (w : BitVec 3) (s : State) (hm : Memory.wf s.mem = true) :
    ∀ u, execLmclr a w s = .next u → Memory.wf u.mem = true := by
  grind -ring -linarith -lia -order -ac [execLmclr, advance_wf, wait_wf, scratchWrite_wf, outsideBody_wf, refuseCmd_wf]
theorem descWrite_wf (w : WinPos) (off n v : Nat) (s : State) (hm : Memory.wf s.mem = true) :
    Memory.wf (descWrite w off n v s).mem = true := by
  (unfold descWrite; repeat' split) <;> grind -ring -linarith -lia -order -ac [scratchWrite_wf]
theorem openAssembly_wf (q : CopyAsk) (s : State) (hm : Memory.wf s.mem = true) :
    Memory.wf (openAssembly q s).mem = true := by
  grind -ring -linarith -lia -order -ac [openAssembly, setCluster_wf, fresh_wf, scratchWrite_wf, descWrite_wf]
theorem addSlice_wf (q : CopyAsk) (sl : Slice) (s : State) (hm : Memory.wf s.mem = true) :
    Memory.wf (addSlice q sl s).mem = true := by
  grind -ring -linarith -lia -order -ac [addSlice, setCluster_wf, descWrite_wf]
theorem execCpy_wf (a : Reg) (z : BitVec 3) (_l : BitVec 4) (s : State) (hm : Memory.wf s.mem = true) :
    ∀ u, execCpy a z _l s = .next u → Memory.wf u.mem = true := by
  grind -ring -linarith -lia -order -ac [execCpy, advance_wf, wait_wf, outsideBody_wf, countPath_wf, refuseCmd_wf, openAssembly_wf, addSlice_wf]
theorem unitRead_wf (c : ClusterId) (x : Copy) (u : Nat) (sl : Slice) (s : State) (hm : Memory.wf s.mem = true) :
    Memory.wf (unitRead c x u sl s).2.mem = true := by
  grind -ring -linarith -lia -order -ac [unitRead, engRead_wf]
theorem unitWrite_wf (c : ClusterId) (x : Copy) (u v : Nat) (sl : Slice) (s : State) (hm : Memory.wf s.mem = true) :
    Memory.wf (unitWrite c x u v sl s).2.mem = true := by
  grind -ring -linarith -lia -order -ac [unitWrite, winWrite_wf, engWrite_wf]
theorem chunkRead_wf (c : ClusterId) (x : Copy) (x0 : List (Nat × Slice)) (s : State) (hm : Memory.wf s.mem = true) :
    Memory.wf (chunkRead c x x0 s).2.mem = true := by
  fun_induction chunkRead c x x0 s <;> grind -ring -linarith -lia -order -ac [unitRead_wf]
theorem chunkWrite_wf (c : ClusterId) (x : Copy) (x0 : List ((Nat × Slice) × Got)) (s : State) (hm : Memory.wf s.mem = true) :
    Memory.wf (chunkWrite c x x0 s).2.mem = true := by
  fun_induction chunkWrite c x x0 s <;> grind -ring -linarith -lia -order -ac [unitWrite_wf]
theorem setCopy_wf (c : ClusterId) (id : Nat) (f : Copy → Copy) (s : State) (hm : Memory.wf s.mem = true) :
    Memory.wf (setCopy c id f s).mem = true := by
  grind -ring -linarith -lia -order -ac [setCopy, setCluster_wf]
theorem slicesReady_wf  (x0 : List Slice) (s : State) (hm : Memory.wf s.mem = true) :
    Memory.wf (slicesReady x0 s).2.mem = true := by
  fun_induction slicesReady x0 s <;> grind -ring -linarith -lia -order -ac [forkReady_wf]
theorem tryChunk_wf (c : ClusterId) (x : Copy) (ch : Nat) (s : State) (hm : Memory.wf s.mem = true) :
    Memory.wf (tryChunk c x ch s).mem = true := by
  grind -ring -linarith -lia -order -ac [tryChunk, clearMarks_wf, setMapBits_wf, chunkRead_wf, chunkWrite_wf, setCopy_wf, slicesReady_wf]
theorem execCopyChunkLanding_wf (c : ClusterId) (copy : Nat) (chunk : BitVec 9) (s : State) (hm : Memory.wf s.mem = true) :
    ∀ u, execCopyChunkLanding c copy chunk s = .next u → Memory.wf u.mem = true := by
  grind -ring -linarith -lia -order -ac [execCopyChunkLanding, setCluster_wf, arriveAt_wf, forgetEng_wf, winWrite_wf, setCopy_wf, tryChunk_wf]
theorem gatherIssue_wf (scatter i64 : Bool) (combine scope : Nat) (a : Reg) (s : State) (hm : Memory.wf s.mem = true) :
    Memory.wf (gatherIssue scatter i64 combine scope a s).mem = true := by
  grind -ring -linarith -lia -order -ac [gatherIssue, setDie_wf, fresh_wf, advance_wf, wait_wf, scratchWrite_wf, outsideBody_wf, countPath_wf, refuseCmd_wf]
theorem execGth_wf (a : Reg) (z : BitVec 3) (i : BitVec 1) (_l : BitVec 4) (s : State) (hm : Memory.wf s.mem = true) :
    ∀ u, execGth a z i _l s = .next u → Memory.wf u.mem = true := by
  grind -ring -linarith -lia -order -ac [execGth, gatherIssue_wf]
theorem execSct_wf (a : Reg) (c : BitVec 2) (z : BitVec 3) (i : BitVec 1) (_l : BitVec 4) (s : State) (hm : Memory.wf s.mem = true) :
    ∀ u, execSct a c z i _l s = .next u → Memory.wf u.mem = true := by
  grind -ring -linarith -lia -order -ac [execSct, gatherIssue_wf]
theorem indexAt_wf (g : GatherCmd) (i : Nat) (s : State) (hm : Memory.wf s.mem = true) :
    Memory.wf (indexAt g i s).2.mem = true := by
  grind -ring -linarith -lia -order -ac [indexAt, engRead_wf]
theorem gatherElem_wf (g : GatherCmd) (i x : Nat) (s : State) (hm : Memory.wf s.mem = true) :
    Memory.wf (gatherElem g i x s).2.mem = true := by
  grind -ring -linarith -lia -order -ac [gatherElem, winWrite_wf, engRead_wf]
theorem pieceReach_wf (e : Eng) (adds : Bool) (pa len : Nat) (s : State) (hm : Memory.wf s.mem = true) :
    Memory.wf (pieceReach e adds pa len s).2.mem = true := by
  grind -ring -linarith -lia -order -ac [pieceReach, askOwner_wf, engReadPhys_wf]
theorem elemReach_wf (e : Eng) (adds : Bool) (a : DWord) (n : Nat) (s : State) (hm : Memory.wf s.mem = true) :
    Memory.wf (elemReach e adds a n s).2.mem = true := by
  grind -ring -linarith -lia -order -ac [elemReach, engGlobal_wf, pieceReach_wf, readPieces_wf]
theorem scatterAdds_wf (e : Eng) (fn : Nat) (a : DWord) (x0 : Nat) (x1 : Nat) (s : State) (hm : Memory.wf s.mem = true) :
    Memory.wf (scatterAdds e fn a x0 x1 s).2.mem = true := by
  fun_induction scatterAdds e fn a x0 x1 s <;> grind -ring -linarith -lia -order -ac [engAtomPhys_wf, engGlobal_wf]
theorem scatterElem_wf (g : GatherCmd) (i x : Nat) (s : State) (hm : Memory.wf s.mem = true) :
    Memory.wf (scatterElem g i x s).2.mem = true := by
  grind -ring -linarith -lia -order -ac [scatterElem, engWrite_wf, elemReach_wf, scatterAdds_wf]
theorem nextElem_wf (g : GatherCmd) (s : State) (hm : Memory.wf s.mem = true) :
    Memory.wf (nextElem g s).2.mem = true := by
  grind -ring -linarith -lia -order -ac [nextElem, winWrite_wf, indexAt_wf, gatherElem_wf, scatterElem_wf]
theorem setGather_wf (d : DieId) (id : Nat) (f : GatherCmd → GatherCmd) (s : State) (hm : Memory.wf s.mem = true) :
    Memory.wf (setGather d id f s).mem = true := by
  grind -ring -linarith -lia -order -ac [setGather, setDie_wf]
theorem runGather_wf (d : DieId) (g : GatherCmd) (s : State) (hm : Memory.wf s.mem = true) :
    Memory.wf (runGather d g s).mem = true := by
  grind -ring -linarith -lia -order -ac [runGather, setDie_wf, forkReady_wf, clearMarks_wf, forgetEng_wf, winWrite_wf, setMapBits_wf, nextElem_wf, setGather_wf]
theorem execGatherComplete_wf (d : DieId) (id : Nat) (s : State) (hm : Memory.wf s.mem = true) :
    ∀ u, execGatherComplete d id s = .next u → Memory.wf u.mem = true := by
  grind -ring -linarith -lia -order -ac [execGatherComplete, runGather_wf]
theorem execScatterComplete_wf (d : DieId) (id : Nat) (s : State) (hm : Memory.wf s.mem = true) :
    ∀ u, execScatterComplete d id s = .next u → Memory.wf u.mem = true := by
  grind -ring -linarith -lia -order -ac [execScatterComplete, runGather_wf]
theorem contribute_wf (stage : Nat) (a : Reg) (z : BitVec 3) (l : BitVec 4) (s : State) (hm : Memory.wf s.mem = true) :
    Memory.wf (contribute stage a z l s).mem = true := by
  grind -ring -linarith -lia -order -ac [contribute, wait_wf, outsideBody_wf, refuseCmd_wf, scalarIssue_wf]
theorem execRdxt_wf (a : Reg) (z : BitVec 3) (l : BitVec 4) (s : State) (hm : Memory.wf s.mem = true) :
    ∀ u, execRdxt a z l s = .next u → Memory.wf u.mem = true := by
  grind -ring -linarith -lia -order -ac [execRdxt, contribute_wf]
theorem execRdxa_wf (a : Reg) (z : BitVec 3) (l : BitVec 4) (s : State) (hm : Memory.wf s.mem = true) :
    ∀ u, execRdxa a z l s = .next u → Memory.wf u.mem = true := by
  grind -ring -linarith -lia -order -ac [execRdxa, contribute_wf]
theorem takeContribution_wf (k : Contribution) (v : Nat) (s : State) (hm : Memory.wf s.mem = true) :
    Memory.wf (takeContribution k v s).mem = true := by
  grind -ring -linarith -lia -order -ac [takeContribution, putFree_wf, memWrite_wf]
theorem sendAck_wf (r : Req) (s : State) (hm : Memory.wf s.mem = true) :
    Memory.wf (sendAck r s).mem = true := by
  grind -ring -linarith -lia -order -ac [sendAck, sendMsg_wf]
theorem sendHalfAck_wf (r : Req) (s : State) (hm : Memory.wf s.mem = true) :
    Memory.wf (sendHalfAck r s).mem = true := by
  grind -ring -linarith -lia -order -ac [sendHalfAck, sendMsg_wf]
theorem sendNeg_wf (r : Req) (code sub : Nat) (s : State) (hm : Memory.wf s.mem = true) :
    Memory.wf (sendNeg r code sub s).mem = true := by
  grind -ring -linarith -lia -order -ac [sendNeg, sendMsg_wf]
theorem execReductionContribution_wf (d : DieId) (s : State) (hm : Memory.wf s.mem = true) :
    ∀ u, execReductionContribution d s = .next u → Memory.wf u.mem = true := by
  grind -ring -linarith -lia -order -ac [execReductionContribution, setDie_wf, errorEvent_wf, reachSlice_wf, takeContribution_wf, sendAck_wf, sendNeg_wf]
theorem markRun_wf (k : StandKey) (off : Nat) (s : State) (hm : Memory.wf s.mem = true) :
    Memory.wf (markRun k off s).mem = true := by
  grind -ring -linarith -lia -order -ac [markRun, setCluster_wf, errorEvent_wf, countError_wf]
theorem retireGranule_wf (g : Gfn) (s : State) (hm : Memory.wf s.mem = true) :
    Memory.wf (retireGranule g s).mem = true := by
  grind -ring -linarith -lia -order -ac [retireGranule, errorEvent_wf, countError_wf, tellFlags_wf]
theorem markRing_wf (c : ClusterId) (i : BitVec 6) (off : Nat) (s : State) (hm : Memory.wf s.mem = true) :
    Memory.wf (markRing c i off s).mem = true := by
  grind -ring -linarith -lia -order -ac [markRing, errorEvent_wf, countError_wf, setRing_wf]
theorem markWay_wf (c : ClusterId) (way : BitVec 4) (set : Nat) (s : State) (hm : Memory.wf s.mem = true) :
    Memory.wf (markWay c way set s).mem = true := by
  grind -ring -linarith -lia -order -ac [markWay, setCluster_wf, errorEvent_wf, countError_wf]
theorem markLine_wf (slice : Bool) (pa : Nat) (s : State) (hm : Memory.wf s.mem = true) :
    Memory.wf (markLine slice pa s).mem = true := by
  grind -ring -linarith -lia -order -ac [markLine, draw_wf, errorEvent_wf, countError_wf, retireGranule_wf]
theorem copyPlace_wf (pa : Nat) (stack : Bool) (s : State) (hm : Memory.wf s.mem = true) :
    Memory.wf (copyPlace pa stack s).2.mem = true := by
  grind -ring -linarith -lia -order -ac [copyPlace, draw_wf]
theorem readPlace_wf (l : LaneAcc) (s : State) (hm : Memory.wf s.mem = true) :
    Memory.wf (readPlace l s).2.mem = true := by
  grind -ring -linarith -lia -order -ac [readPlace, copyPlace_wf]
theorem regsFail_wf (c : CordId) (s : State) (hm : Memory.wf s.mem = true) :
    Memory.wf (regsFail c s).mem = true := by
  grind -ring -linarith -lia -order -ac [regsFail, selectCord_wf, fatal_wf, toSupervisor_wf]
theorem eccTurn_wf (p : EccPlace) (corrected : Bool) (s : State) (hm : Memory.wf s.mem = true) :
    Memory.wf (eccTurn p corrected s).mem = true := by
  (unfold eccTurn; repeat' split) <;> grind -ring -linarith -lia -order -ac [countError_wf, markRun_wf, markRing_wf, markWay_wf, markLine_wf, regsFail_wf]
theorem laneEcc_wf (l : LaneAcc) (corrected : Bool) (s : State) (hm : Memory.wf s.mem = true) :
    Memory.wf (laneEcc l corrected s).mem = true := by
  grind -ring -linarith -lia -order -ac [laneEcc, readPlace_wf, eccTurn_wf]
theorem execMemoryReply_wf (c : CordId) (id : Nat) (ecc : Ecc) (s : State) (hm : Memory.wf s.mem = true) :
    ∀ u, execMemoryReply c id ecc s = .next u → Memory.wf u.mem = true := by
  grind -ring -linarith -lia -order -ac [execMemoryReply, returnFlight_wf, onEvent_wf, laneEcc_wf]
theorem mapLanes_wf (p : Cord → Bool) (g : Flight → LaneAcc → LaneAcc) (s : State) (hm : Memory.wf s.mem = true) :
    Memory.wf (mapLanes p g s).mem = true := by
  grind -ring -linarith -lia -order -ac [mapLanes, mapCords_wf]
theorem fillLevels_wf (d : DieId) (cs : List CoreId) (e : TlbEntry) (s : State) (hm : Memory.wf s.mem = true) :
    Memory.wf (fillLevels d cs e s).mem = true := by
  grind -ring -linarith -lia -order -ac [fillLevels, setCore_wf, setCluster_wf, setDie_wf, foldl_wf, foldl_memory_wf, foldl_pair_wf]
theorem walkMissed_wf (d : DieId) (p : Pasid) (page : Nat) (engines : List (Nat × Nat)) (need code : Nat) (s : State) (hm : Memory.wf s.mem = true) :
    Memory.wf (walkMissed d p page engines need code s).mem = true := by
  grind -ring -linarith -lia -order -ac [walkMissed, engMiss_wf, mapLanes_wf, foldl_wf, foldl_memory_wf, foldl_pair_wf]
theorem walkFound_wf (d : DieId) (p : Pasid) (page need : Nat) (r : WalkResult) (s : State) (hm : Memory.wf s.mem = true) :
    Memory.wf (walkFound d p page need r s).mem = true := by
  grind -ring -linarith -lia -order -ac [walkFound, mapLanes_wf, fillLevels_wf]
theorem fillNeed_wf (d : DieId) (p : Pasid) (page : Nat) (engines : List (Nat × Nat)) (need : Nat) (s : State) (hm : Memory.wf s.mem = true) :
    Memory.wf (fillNeed d p page engines need s).2.mem = true := by
  grind -ring -linarith -lia -order -ac [fillNeed, forgetEng_wf, walkNow_wf, markEntry_wf, walkMissed_wf, walkFound_wf]
theorem execWalkFill_wf (d : DieId) (pasid : Pasid) (page : Nat) (s : State) (hm : Memory.wf s.mem = true) :
    ∀ u, execWalkFill d pasid page s = .next u → Memory.wf u.mem = true := by
  grind -ring -linarith -lia -order -ac [execWalkFill, setDie_wf, forgetEng_wf, fillNeed_wf, foldl_wf, foldl_memory_wf, foldl_pair_wf]
theorem setEntry_wf (k : CoreId) (i : Nat) (f : LogEntry → LogEntry) (s : State) (hm : Memory.wf s.mem = true) :
    Memory.wf (setEntry k i f s).mem = true := by
  grind -ring -linarith -lia -order -ac [setEntry, setCore_wf]
theorem discardEntries_wf (k : CoreId) (es : List LogEntry) (code : Nat) (s : State) (hm : Memory.wf s.mem = true) :
    Memory.wf (discardEntries k es code s).mem = true := by
  grind -ring -linarith -lia -order -ac [discardEntries, setCore_wf, mapCords_wf, logImage_wf, setEntry_wf, foldl_wf, foldl_memory_wf, foldl_pair_wf]
theorem replayStore_wf (k : CoreId) (e : LogEntry) (pa : Nat) (r : LogRec) (s : State) (hm : Memory.wf s.mem = true) :
    Memory.wf (replayStore k e pa r s).2.mem = true := by
  grind -ring -linarith -lia -order -ac [replayStore, sendReq_wf, askOwner_wf, sliceWrite_wf, writeBack_wf, leaveFor_wf, withRoom_wf, keepIn_wf, forgetEng_wf]
theorem replayAtom_wf (k : CoreId) (e : LogEntry) (fn pa : Nat) (r : LogRec) (s : State) (hm : Memory.wf s.mem = true) :
    Memory.wf (replayAtom k e fn pa r s).2.mem = true := by
  grind -ring -linarith -lia -order -ac [replayAtom, flushFor_wf, leaveFor_wf, withRoom_wf, keepIn_wf, forgetEng_wf, engReadPhys_wf, engAtomPhys_wf]
theorem replayOne_wf (k : CoreId) (s : State) (hm : Memory.wf s.mem = true) :
    Memory.wf (replayOne k s).mem = true := by
  grind -ring -linarith -lia -order -ac [replayOne, freeLog_wf, setEntry_wf, discardEntries_wf, replayStore_wf, replayAtom_wf]
theorem replayAll_wf (k : CoreId) (x0 : Nat) (s : State) (hm : Memory.wf s.mem = true) :
    Memory.wf (replayAll k x0 s).mem = true := by
  fun_induction replayAll k x0 s <;> grind -ring -linarith -lia -order -ac [replayOne_wf]
theorem discardPage_wf (k : CoreId) (p : Pasid) (page code : Nat) (s : State) (hm : Memory.wf s.mem = true) :
    Memory.wf (discardPage k p page code s).mem = true := by
  grind -ring -linarith -lia -order -ac [discardPage, discardEntries_wf]
theorem againPage_wf (k : CoreId) (p : Pasid) (page : Nat) (asked : List Nat) (s : State) (hm : Memory.wf s.mem = true) :
    Memory.wf (againPage k p page asked s).mem = true := by
  grind -ring -linarith -lia -order -ac [againPage, setEntry_wf, foldl_wf, foldl_memory_wf, foldl_pair_wf]
theorem translatePage_wf (k : CoreId) (p : Pasid) (page : Nat) (s : State) (hm : Memory.wf s.mem = true) :
    Memory.wf (translatePage k p page s).mem = true := by
  grind -ring -linarith -lia -order -ac [translatePage, forgetEng_wf, engTranslate_wf, setEntry_wf, discardPage_wf, foldl_wf, foldl_memory_wf, foldl_pair_wf]
theorem translateLog_wf (k : CoreId) (s : State) (hm : Memory.wf s.mem = true) :
    Memory.wf (translateLog k s).mem = true := by
  grind -ring -linarith -lia -order -ac [translateLog, translatePage_wf, foldl_wf, foldl_memory_wf, foldl_pair_wf]
theorem closeRequest_wf (q : PageReq) (r : PageRef) (ok : Bool) (s : State) (hm : Memory.wf s.mem = true) :
    Memory.wf (closeRequest q r ok s).mem = true := by
  grind -ring -linarith -lia -order -ac [closeRequest, setDie_wf]
theorem execPageResponseSuccess_wf (r : PageRef) (s : State) (hm : Memory.wf s.mem = true) :
    ∀ u, execPageResponseSuccess r s = .next u → Memory.wf u.mem = true := by
  grind -ring -linarith -lia -order -ac [execPageResponseSuccess, mapLanes_wf, againPage_wf, closeRequest_wf, foldl_wf, foldl_memory_wf, foldl_pair_wf]
theorem refuseLog_wf (k : CoreId) (q : PageReq) (r : PageRef) (s : State) (hm : Memory.wf s.mem = true) :
    Memory.wf (refuseLog k q r s).mem = true := by
  grind -ring -linarith -lia -order -ac [refuseLog, forgetEng_wf, discardPage_wf]
theorem refusePage_wf (q : PageReq) (r : PageRef) (s : State) (hm : Memory.wf s.mem = true) :
    Memory.wf (refusePage q r s).mem = true := by
  grind -ring -linarith -lia -order -ac [refusePage, mapLanes_wf, closeRequest_wf, refuseLog_wf, foldl_wf, foldl_memory_wf, foldl_pair_wf]
theorem execPageResponseInvalidRequest_wf (r : PageRef) (s : State) (hm : Memory.wf s.mem = true) :
    ∀ u, execPageResponseInvalidRequest r s = .next u → Memory.wf u.mem = true := by
  grind -ring -linarith -lia -order -ac [execPageResponseInvalidRequest, refusePage_wf]
theorem failPage_wf (r : PageRef) (s : State) (hm : Memory.wf s.mem = true) :
    Memory.wf (failPage r s).mem = true := by
  grind -ring -linarith -lia -order -ac [failPage, setDie_wf, refusePage_wf]
theorem execPageResponseFailure_wf (r : PageRef) (s : State) (hm : Memory.wf s.mem = true) :
    ∀ u, execPageResponseFailure r s = .next u → Memory.wf u.mem = true := by
  grind -ring -linarith -lia -order -ac [execPageResponseFailure, failPage_wf]
theorem execPageRequestTimeout_wf (r : PageRef) (s : State) (hm : Memory.wf s.mem = true) :
    ∀ u, execPageRequestTimeout r s = .next u → Memory.wf u.mem = true := by
  grind -ring -linarith -lia -order -ac [execPageRequestTimeout, failPage_wf]
theorem startInval_wf (pasid : Option Pasid) (page : Option Nat) (d : DieId) (s : State) (hm : Memory.wf s.mem = true) :
    Memory.wf (startInval pasid page d s).mem = true := by
  grind -ring -linarith -lia -order -ac [startInval, setCore_wf, setCluster_wf, setDie_wf, foldl_wf, foldl_memory_wf, foldl_pair_wf]
theorem forwardInval_wf (s : State) (hm : Memory.wf s.mem = true) :
    Memory.wf (forwardInval s).mem = true := by
  grind -ring -linarith -lia -order -ac [forwardInval, startInval_wf, foldl_wf, foldl_memory_wf, foldl_pair_wf]
theorem pushInval_wf (d : DieId) (s : State) (hm : Memory.wf s.mem = true) :
    Memory.wf (pushInval d s).mem = true := by
  grind -ring -linarith -lia -order -ac [pushInval, setDie_wf, writeBack_wf, forwardInval_wf, foldl_wf, foldl_memory_wf, foldl_pair_wf]
theorem execInvalidation_wf (pasid : Option Pasid) (page : Option Nat) (s : State) (hm : Memory.wf s.mem = true) :
    ∀ u, execInvalidation pasid page s = .next u → Memory.wf u.mem = true := by
  grind -ring -linarith -lia -order -ac [execInvalidation, startInval_wf, pushInval_wf, foldl_wf, foldl_memory_wf, foldl_pair_wf]
theorem execRingHeadStore_wf (c : ClusterId) (ring : BitVec 6) (h : Word) (s : State) (hm : Memory.wf s.mem = true) :
    ∀ u, execRingHeadStore c ring h s = .next u → Memory.wf u.mem = true := by
  grind -ring -linarith -lia -order -ac [execRingHeadStore, setRing_wf]
theorem ackMsg_wf (m : RingMsg) (s : State) (hm : Memory.wf s.mem = true) :
    Memory.wf (ackMsg m s).mem = true := by
  grind -ring -linarith -lia -order -ac [ackMsg, sendAck_wf, mapLanes_wf]
theorem execInboundBufferAppend_wf (c : ClusterId) (s : State) (hm : Memory.wf s.mem = true) :
    ∀ u, execInboundBufferAppend c s = .next u → Memory.wf u.mem = true := by
  grind -ring -linarith -lia -order -ac [execInboundBufferAppend, setCluster_wf, setRing_wf, ackMsg_wf]
theorem execSndmRetry_wf (c : CordId) (id : Nat) (s : State) (hm : Memory.wf s.mem = true) :
    ∀ u, execSndmRetry c id s = .next u → Memory.wf u.mem = true := by
  grind -ring -linarith -lia -order -ac [execSndmRetry, pushFlight_wf, onEvent_wf]

end Sys2Proof.Laws
end

