-- ==== Sys2Proof/Laws/KeptFabric.lean ====
section
/-! SUPPORT. Requests of other packages, migration, admin commands, replies, flits and the neighbour engine keep memory in canonical form. Each lemma is named after its operation. -/

namespace Sys2Proof.Laws

set_option Elab.async false

open Sys2Proof Sys2Proof.Machine

theorem sendData_wf (r : Req) (n v : Nat) (s : State) (hm : Memory.wf s.mem = true) :
    Memory.wf (sendData r n v s).mem = true := by
  grind -ring -linarith -lia -order -ac [sendData, sendMsg_wf]
theorem putDir_wf (e : DirEntry) (s : State) (hm : Memory.wf s.mem = true) :
    Memory.wf (putDir e s).mem = true := by
  grind -ring -linarith -lia -order -ac [putDir]
theorem dirShare_wf (line : Nat) (p : PkgNo) (s : State) (hm : Memory.wf s.mem = true) :
    Memory.wf (dirShare line p s).mem = true := by
  grind -ring -linarith -lia -order -ac [dirShare, putDir_wf]
theorem dirDrop_wf (line : Nat) (p : PkgNo) (s : State) (hm : Memory.wf s.mem = true) :
    Memory.wf (dirDrop line p s).mem = true := by
  grind -ring -linarith -lia -order -ac [dirDrop, putDir_wf]
theorem triedOf_wf (op : Nat) (r : Req) (x : Served × State) (k : Nat → State → State) (hm : Memory.wf x.2.mem = true) (hk : ∀ a0 a1, Memory.wf a1.mem = true → Memory.wf (k a0 a1).mem = true) :
    Memory.wf (triedOf op r x k).state.mem = true := by
  grind -ring -linarith -lia -order -ac [triedOf, sendNeg_wf]
theorem doRead_wf (r : Req) (s : State) (hm : Memory.wf s.mem = true) :
    Memory.wf (doRead r s).state.mem = true := by
  grind -ring -linarith -lia -order -ac [doRead, sliceRead_wf, sendData_wf, dirShare_wf, triedOf_wf]
theorem written_wf (r : Req) (a : Nat) (s : State) (hm : Memory.wf s.mem = true) :
    Memory.wf (written r a s).mem = true := by
  grind -ring -linarith -lia -order -ac [written, putDir_wf]
theorem doWrite_wf (r : Req) (s : State) (hm : Memory.wf s.mem = true) :
    Memory.wf (doWrite r s).state.mem = true := by
  grind -ring -linarith -lia -order -ac [doWrite, sliceWrite_wf, sendAck_wf, triedOf_wf, written_wf]
theorem doMasked_wf (r : Req) (s : State) (hm : Memory.wf s.mem = true) :
    Memory.wf (doMasked r s).state.mem = true := by
  grind -ring -linarith -lia -order -ac [doMasked, sliceWrite_wf, markDest_wf, sendAck_wf, triedOf_wf, written_wf]
theorem evicted_wf (r : Req) (s : State) (hm : Memory.wf s.mem = true) :
    Memory.wf (evicted r s).mem = true := by
  grind -ring -linarith -lia -order -ac [evicted, touchMask_wf, markDest_wf, sendAck_wf, dirDrop_wf, memWriteMask_wf]
theorem farAtom_wf (r : Req) (fn a size : Nat) (b new : DWord) (s : State) (hm : Memory.wf s.mem = true) :
    Memory.wf (farAtom r fn a size b new s).2.mem = true := by
  grind -ring -linarith -lia -order -ac [farAtom, reachSlice_wf, memWrite_wf]
theorem doAtomic_wf (r : Req) (s : State) (hm : Memory.wf s.mem = true) :
    Memory.wf (doAtomic r s).state.mem = true := by
  grind -ring -linarith -lia -order -ac [doAtomic, sendData_wf, triedOf_wf, farAtom_wf]
theorem holdRequest_wf (op : Nat) (r : Req) (s : State) (hm : Memory.wf s.mem = true) :
    Memory.wf (holdRequest op r s).mem = true := by
  grind -ring -linarith -lia -order -ac [holdRequest]
theorem doFlag_wf (r : Req) (s : State) (hm : Memory.wf s.mem = true) :
    Memory.wf (doFlag r s).state.mem = true := by
  grind -ring -linarith -lia -order -ac [doFlag, sendAck_wf, sendHalfAck_wf, triedOf_wf, farAtom_wf, holdRequest_wf]
theorem doNst_wf (r : Req) (s : State) (hm : Memory.wf s.mem = true) :
    Memory.wf (doNst r s).state.mem = true := by
  grind -ring -linarith -lia -order -ac [doNst, sliceWrite_wf, sendNeg_wf, written_wf, doFlag_wf]
theorem doMsg_wf (r : Req) (s : State) (hm : Memory.wf s.mem = true) :
    Memory.wf (doMsg r s).state.mem = true := by
  grind -ring -linarith -lia -order -ac [doMsg, deliverRing_wf, sendAck_wf, sendNeg_wf]
theorem doBulkWrite_wf (r : Req) (s : State) (hm : Memory.wf s.mem = true) :
    Memory.wf (doBulkWrite r s).state.mem = true := by
  grind -ring -linarith -lia -order -ac [doBulkWrite, reachSlice_wf, sendAck_wf, written_wf, memWrite_wf, foldl_wf, foldl_memory_wf, foldl_pair_wf]
theorem doBulkRead_wf (r : Req) (s : State) (hm : Memory.wf s.mem = true) :
    Memory.wf (doBulkRead r s).state.mem = true := by
  grind -ring -linarith -lia -order -ac [doBulkRead, dirShare_wf, sendBulk_wf, sliceRead_wf, triedOf_wf, foldl_wf, foldl_memory_wf, foldl_pair_wf]
theorem doContribute_wf (tree : Bool) (r : Req) (s : State) (hm : Memory.wf s.mem = true) :
    Memory.wf (doContribute tree r s).state.mem = true := by
  grind -ring -linarith -lia -order -ac [doContribute, setDie_wf]
theorem doFetch_wf (exclusive : Bool) (r : Req) (s : State) (hm : Memory.wf s.mem = true) :
    Memory.wf (doFetch exclusive r s).state.mem = true := by
  grind -ring -linarith -lia -order -ac [doFetch, hostConflict_wf, claimLine_wf, sendAck_wf, putDir_wf, dirShare_wf]
theorem perform_wf (op : Nat) (r : Req) (s : State) (hm : Memory.wf s.mem = true) :
    Memory.wf (perform op r s).state.mem = true := by
  (unfold perform; repeat' split) <;> grind -ring -linarith -lia -order -ac [doRead_wf, doWrite_wf, doMasked_wf, doAtomic_wf, doFlag_wf, doNst_wf, doMsg_wf, doBulkWrite_wf, doBulkRead_wf, doContribute_wf, doFetch_wf]
theorem keepRequest_wf (op : Nat) (r : Req) (s : State) (hm : Memory.wf s.mem = true) :
    Memory.wf (keepRequest op r s).mem = true := by
  grind -ring -linarith -lia -order -ac [keepRequest]
theorem relayStump_wf (t : Stump) (op : Nat) (r : Req) (s : State) (hm : Memory.wf s.mem = true) :
    Memory.wf (relayStump t op r s).mem = true := by
  grind -ring -linarith -lia -order -ac [relayStump, sendMsg_wf, sendBulk_wf]
theorem serveIncoming_wf (x : Incoming) (s : State) (hm : Memory.wf s.mem = true) :
    Memory.wf (serveIncoming x s).mem = true := by
  grind -ring -linarith -lia -order -ac [serveIncoming]
theorem copyIn_wf (r : Req) (x : Incoming) (s : State) (hm : Memory.wf s.mem = true) :
    Memory.wf (copyIn r x s).mem = true := by
  grind -ring -linarith -lia -order -ac [copyIn, wakeLines_wf, sendAck_wf, serveIncoming_wf, memWrite_wf]
theorem performOrKeep_wf (op : Nat) (r : Req) (s : State) (hm : Memory.wf s.mem = true) :
    Memory.wf (performOrKeep op r s).mem = true := by
  grind -ring -linarith -lia -order -ac [performOrKeep, perform_wf, keepRequest_wf]
theorem ownRequest_wf (op : Nat) (r : Req) (s : State) (hm : Memory.wf s.mem = true) :
    Memory.wf (ownRequest op r s).mem = true := by
  grind -ring -linarith -lia -order -ac [ownRequest, evicted_wf, performOrKeep_wf, holdRequest_wf]
theorem serve_wf (op : Nat) (r : Req) (s : State) (hm : Memory.wf s.mem = true) :
    Memory.wf (serve op r s).mem = true := by
  grind -ring -linarith -lia -order -ac [serve, sendNeg_wf, relayStump_wf, copyIn_wf, ownRequest_wf]
theorem relayFrom_wf (via dst : PkgNo) (m : OutMsg) (s : State) (hm : Memory.wf s.mem = true) :
    Memory.wf (relayFrom via dst m s).mem = true := by
  (unfold relayFrom; repeat' split) <;> grind -ring -linarith -lia -order -ac
theorem relayFor_wf (dst : PkgNo) (m : OutMsg) (s : State) (hm : Memory.wf s.mem = true) :
    Memory.wf (relayFor dst m s).mem = true := by
  grind -ring -linarith -lia -order -ac [relayFor, relayFrom_wf]
theorem onRequest_wf (op : Nat) (r : Req) (k : State → State) (s : State) (hm : Memory.wf s.mem = true) (hk : ∀ a0, Memory.wf a0.mem = true → Memory.wf (k a0).mem = true) :
    Memory.wf (onRequest op r k s).mem = true := by
  grind -ring -linarith -lia -order -ac [onRequest, relayFor_wf]
theorem execRd_wf (r : Req) (s : State) (hm : Memory.wf s.mem = true) :
    ∀ u, execRd r s = .next u → Memory.wf u.mem = true := by
  grind -ring -linarith -lia -order -ac [execRd, serve_wf, onRequest_wf]
theorem execWr_wf (r : Req) (s : State) (hm : Memory.wf s.mem = true) :
    ∀ u, execWr r s = .next u → Memory.wf u.mem = true := by
  grind -ring -linarith -lia -order -ac [execWr, serve_wf, onRequest_wf]
theorem execWrm_wf (r : Req) (s : State) (hm : Memory.wf s.mem = true) :
    ∀ u, execWrm r s = .next u → Memory.wf u.mem = true := by
  grind -ring -linarith -lia -order -ac [execWrm, serve_wf, onRequest_wf]
theorem execAtReq_wf (r : Req) (s : State) (hm : Memory.wf s.mem = true) :
    ∀ u, execAtReq r s = .next u → Memory.wf u.mem = true := by
  grind -ring -linarith -lia -order -ac [execAtReq, serve_wf, onRequest_wf]
theorem execBwr_wf (r : Req) (s : State) (hm : Memory.wf s.mem = true) :
    ∀ u, execBwr r s = .next u → Memory.wf u.mem = true := by
  grind -ring -linarith -lia -order -ac [execBwr, serve_wf, onRequest_wf]
theorem execBrd_wf (r : Req) (s : State) (hm : Memory.wf s.mem = true) :
    ∀ u, execBrd r s = .next u → Memory.wf u.mem = true := by
  grind -ring -linarith -lia -order -ac [execBrd, serve_wf, onRequest_wf]
theorem execRdxTree_wf (r : Req) (s : State) (hm : Memory.wf s.mem = true) :
    ∀ u, execRdxTree r s = .next u → Memory.wf u.mem = true := by
  grind -ring -linarith -lia -order -ac [execRdxTree, serve_wf, onRequest_wf]
theorem execRdxArrival_wf (r : Req) (s : State) (hm : Memory.wf s.mem = true) :
    ∀ u, execRdxArrival r s = .next u → Memory.wf u.mem = true := by
  grind -ring -linarith -lia -order -ac [execRdxArrival, serve_wf, onRequest_wf]
theorem execNst_wf (r : Req) (s : State) (hm : Memory.wf s.mem = true) :
    ∀ u, execNst r s = .next u → Memory.wf u.mem = true := by
  grind -ring -linarith -lia -order -ac [execNst, serve_wf, onRequest_wf]
theorem execMsg_wf (r : Req) (s : State) (hm : Memory.wf s.mem = true) :
    ∀ u, execMsg r s = .next u → Memory.wf u.mem = true := by
  grind -ring -linarith -lia -order -ac [execMsg, performOrKeep_wf, onRequest_wf]
theorem execReg_wf (r : Req) (s : State) (hm : Memory.wf s.mem = true) :
    ∀ u, execReg r s = .next u → Memory.wf u.mem = true := by
  grind -ring -linarith -lia -order -ac [execReg, sendNeg_wf, sendData_wf, onRequest_wf]
theorem execCohFetchShared_wf (r : Req) (s : State) (hm : Memory.wf s.mem = true) :
    ∀ u, execCohFetchShared r s = .next u → Memory.wf u.mem = true := by
  grind -ring -linarith -lia -order -ac [execCohFetchShared, serve_wf, onRequest_wf]
theorem execCohFetchExclusive_wf (r : Req) (s : State) (hm : Memory.wf s.mem = true) :
    ∀ u, execCohFetchExclusive r s = .next u → Memory.wf u.mem = true := by
  grind -ring -linarith -lia -order -ac [execCohFetchExclusive, serve_wf, onRequest_wf]
theorem execCohInvalidate_wf (r : Req) (s : State) (hm : Memory.wf s.mem = true) :
    ∀ u, execCohInvalidate r s = .next u → Memory.wf u.mem = true := by
  grind -ring -linarith -lia -order -ac [execCohInvalidate, dropHeld_wf, sendAck_wf, onRequest_wf]
theorem execCohRecall_wf (r : Req) (s : State) (hm : Memory.wf s.mem = true) :
    ∀ u, execCohRecall r s = .next u → Memory.wf u.mem = true := by
  grind -ring -linarith -lia -order -ac [execCohRecall, sendMsg_wf, dropHeld_wf, onRequest_wf]
theorem execClusterCacheEviction_wf (c : ClusterId) (line : Nat) (wb : Bool) (s : State) (hm : Memory.wf s.mem = true) :
    ∀ u, execClusterCacheEviction c line wb s = .next u → Memory.wf u.mem = true := by
  grind -ring -linarith -lia -order -ac [execClusterCacheEviction, setCluster_wf, writeBack_wf, foldl_wf, foldl_memory_wf, foldl_pair_wf]
theorem execDirectoryEntryEviction_wf (line : Nat) (s : State) (hm : Memory.wf s.mem = true) :
    ∀ u, execDirectoryEntryEviction line s = .next u → Memory.wf u.mem = true := by
  grind -ring -linarith -lia -order -ac [execDirectoryEntryEviction, sendCoh_wf, foldl_wf, foldl_memory_wf, foldl_pair_wf]
theorem execPartnerLineEviction_wf (line : Nat) (s : State) (hm : Memory.wf s.mem = true) :
    ∀ u, execPartnerLineEviction line s = .next u → Memory.wf u.mem = true := by
  grind -ring -linarith -lia -order -ac [execPartnerLineEviction, dropHeld_wf, evictHeld_wf, getD_wf]
theorem putAgain_wf (r : Req) (s : State) (hm : Memory.wf s.mem = true) :
    Memory.wf (putAgain r s).state.mem = true := by
  grind -ring -linarith -lia -order -ac [putAgain, putNow_wf]
theorem sendTold_wf (r : Req) (s : State) (hm : Memory.wf s.mem = true) :
    Memory.wf (sendTold r s).state.mem = true := by
  unfold sendTold
  have h := sendReq_wf { die := 4, dst := r.dst, op := 0x0B, size := 4, scope := 5, fn := r.fn.toNat, pasid := 0, addr := reqAddr r, payload := r.payload
                         waiter := if r.fn = 2 then .announced (gfnOf (reqAddr r)) else .none } s hm
  split <;> rename_i he <;> rw [he] at h <;> exact h
theorem sendEnded_wf (r : Req) (s : State) (hm : Memory.wf s.mem = true) :
    Memory.wf (sendEnded r s).state.mem = true := by
  grind -ring -linarith -lia -order -ac [sendEnded, sendMsg_wf]
theorem resendTo_wf (p : PkgNo) (tag : BitVec 14) (dst : PkgNo) (s : State) (hm : Memory.wf s.mem = true) :
    Memory.wf (resendTo p tag dst s).mem = true := by
  grind -ring -linarith -lia -order -ac [resendTo, keepOwn_wf]
theorem askAgain_wf (r : Req) (s : State) (hm : Memory.wf s.mem = true) :
    Memory.wf (askAgain r s).state.mem = true := by
  grind -ring -linarith -lia -order -ac [askAgain, sendReq_wf, resendTo_wf]
theorem sendAnew_wf (o : Outstanding) (s : State) (hm : Memory.wf s.mem = true) :
    Memory.wf (sendAnew o s).mem = true := by
  grind -ring -linarith -lia -order -ac [sendAnew, sendMsg_wf, sendBulk_wf]
theorem sendAgain_wf (r : Req) (s : State) (hm : Memory.wf s.mem = true) :
    Memory.wf (sendAgain r s).state.mem = true := by
  grind -ring -linarith -lia -order -ac [sendAgain, sendAnew_wf]
theorem tryAgain_wf (op : Nat) (r : Req) (s : State) (hm : Memory.wf s.mem = true) :
    Memory.wf (tryAgain op r s).state.mem = true := by
  (unfold tryAgain; repeat' split) <;> grind -ring -linarith -lia -order -ac [perform_wf, serve_wf, putAgain_wf, sendTold_wf, sendEnded_wf, askAgain_wf, sendAgain_wf]
theorem retryPending_wf (n : Nat) (s : State) (hm : Memory.wf s.mem = true) :
    Memory.wf (retryPending n s).mem = true := by
  grind -ring -linarith -lia -order -ac [retryPending, tryAgain_wf]
theorem startHold_wf (g : Gfn) (s : State) (hm : Memory.wf s.mem = true) :
    Memory.wf (startHold g s).mem = true := by
  grind -ring -linarith -lia -order -ac [startHold]
theorem migSend_wf (dst : PkgNo) (fn : Nat) (g : Gfn) (payload : List Byte) (w : Waiter) (s : State) (hm : Memory.wf s.mem = true) :
    Memory.wf (migSend dst fn g payload w s).2.mem = true := by
  grind -ring -linarith -lia -order -ac [migSend, sendReq_wf]
theorem setFabric_wf (k : Fabric → Fabric) (s : State) (hm : Memory.wf s.mem = true) :
    Memory.wf (setFabric k s).mem = true := by
  grind -ring -linarith -lia -order -ac [setFabric]
theorem endRequestMig_wf (tag : BitVec 14) (g : Gfn) (outcome : Nat) (s : State) (hm : Memory.wf s.mem = true) :
    Memory.wf (endRequestMig tag g outcome s).mem = true := by
  grind -ring -linarith -lia -order -ac [endRequestMig, migReport_wf, mapLanes_wf, setFabric_wf]
theorem migEntered_wf (o : Outstanding) (s : State) (hm : Memory.wf s.mem = true) :
    Memory.wf (migEntered o s).mem = true := by
  grind -ring -linarith -lia -order -ac [migEntered, mapLanes_wf, setFabric_wf]
theorem sendOutcome_wf (src : PkgNo) (tag : BitVec 14) (g : Gfn) (outcome : Nat) (s : State) (hm : Memory.wf s.mem = true) :
    Memory.wf (sendOutcome src tag g outcome s).mem = true := by
  grind -ring -linarith -lia -order -ac [sendOutcome, keepOwn_wf, endRequestMig_wf]
theorem execMigOutcome_wf (r : Req) (s : State) (hm : Memory.wf s.mem = true) :
    ∀ u, execMigOutcome r s = .next u → Memory.wf u.mem = true := by
  grind -ring -linarith -lia -order -ac [execMigOutcome, sendAck_wf, onRequest_wf, endRequestMig_wf]
theorem requestMig_wf (g : Gfn) (dest : PkgNo) (pool : Nat) (st : MigStatus) (s : State) (hm : Memory.wf s.mem = true) :
    Memory.wf (requestMig g dest pool st s).2.mem = true ∧ ∀ u, (requestMig g dest pool st s).1 = some u → Memory.wf u.mem = true := by
  grind -ring -linarith -lia -order -ac [requestMig, askOwner_wf, migReport_wf, migSend_wf]
theorem execMigRequest_wf (r : Req) (s : State) (hm : Memory.wf s.mem = true) :
    ∀ u, execMigRequest r s = .next u → Memory.wf u.mem = true := by
  grind -ring -linarith -lia -order -ac [execMigRequest, sendAck_wf, sendNeg_wf, relayStump_wf, onRequest_wf, setFabric_wf, migEntered_wf]
theorem execMigrationDequeue_wf (s : State) (hm : Memory.wf s.mem = true) :
    ∀ u, execMigrationDequeue s = .next u → Memory.wf u.mem = true := by
  grind -ring -linarith -lia -order -ac [execMigrationDequeue, sendNeg_wf, relayStump_wf, setFabric_wf, sendOutcome_wf]
theorem setMove_wf (g : Gfn) (k : Move → Move) (s : State) (hm : Memory.wf s.mem = true) :
    Memory.wf (setMove g k s).mem = true := by
  grind -ring -linarith -lia -order -ac [setMove, setFabric_wf]
theorem dropMove_wf (g : Gfn) (s : State) (hm : Memory.wf s.mem = true) :
    Memory.wf (dropMove g s).mem = true := by
  grind -ring -linarith -lia -order -ac [dropMove, setFabric_wf]
theorem endMove_wf (m : Move) (outcome : Nat) (s : State) (hm : Memory.wf s.mem = true) :
    Memory.wf (endMove m outcome s).mem = true := by
  grind -ring -linarith -lia -order -ac [endMove, sendOutcome_wf, dropMove_wf]
theorem reserveStep_wf (g : Gfn) (stumps gen : Nat) (s : State) (hm : Memory.wf s.mem = true) :
    Memory.wf (reserveStep g stumps gen s).mem = true := by
  grind -ring -linarith -lia -order -ac [reserveStep, tellFlags_wf, startHold_wf, migSend_wf, setFabric_wf, setMove_wf, dropMove_wf, endMove_wf]
theorem recordStep_wf (g : Gfn) (s : State) (hm : Memory.wf s.mem = true) :
    Memory.wf (recordStep g s).mem = true := by
  grind -ring -linarith -lia -order -ac [recordStep, sendReq_wf, reserveStep_wf]
theorem abortGranule_wf (g : Gfn) (s : State) (hm : Memory.wf s.mem = true) :
    Memory.wf (abortGranule g s).mem = true := by
  grind -ring -linarith -lia -order -ac [abortGranule, mapCords_wf, flushHosts_wf, mapHosts_wf]
theorem recallGranule_wf (g : Gfn) (s : State) (hm : Memory.wf s.mem = true) :
    Memory.wf (recallGranule g s).mem = true := by
  grind -ring -linarith -lia -order -ac [recallGranule, sendCoh_wf, foldl_wf, foldl_memory_wf, foldl_pair_wf]
theorem sendChunk_wf (m : Move) (s : State) (hm : Memory.wf s.mem = true) :
    Memory.wf (sendChunk m s).mem = true := by
  grind -ring -linarith -lia -order -ac [sendChunk, wakeLines_wf, sendBulk_wf, setFabric_wf, foldl_wf, foldl_memory_wf, foldl_pair_wf]
theorem dropWatches_wf (g : Gfn) (s : State) (hm : Memory.wf s.mem = true) :
    Memory.wf (dropWatches g s).mem = true := by
  grind -ring -linarith -lia -order -ac [dropWatches, journalEntry_wf, foldl_wf, foldl_memory_wf, foldl_pair_wf]
theorem releaseHeld_wf (held : List (Nat × Req)) (s : State) (hm : Memory.wf s.mem = true) :
    Memory.wf (releaseHeld held s).mem = true := by
  grind -ring -linarith -lia -order -ac [releaseHeld, serve_wf, foldl_wf, foldl_memory_wf, foldl_pair_wf]
theorem putRecord_wf (x : OwnerRec) (s : State) (hm : Memory.wf s.mem = true) :
    Memory.wf (putRecord x s).mem = true := by
  grind -ring -linarith -lia -order -ac [putRecord, setFabric_wf]
theorem sendUpdate_wf (g : Gfn) (owner : PkgNo) (pool frame : Nat) (s : State) (hm : Memory.wf s.mem = true) :
    Memory.wf (sendUpdate g owner pool frame s).mem = true := by
  grind -ring -linarith -lia -order -ac [sendUpdate, tellMig_wf]
theorem moveWithin_wf (m : Move) (s : State) (hm : Memory.wf s.mem = true) :
    Memory.wf (moveWithin m s).mem = true := by
  grind -ring -linarith -lia -order -ac [moveWithin, setFabric_wf, sendOutcome_wf, dropMove_wf, dropWatches_wf, releaseHeld_wf, sendUpdate_wf]
theorem pushMove_wf (g : Gfn) (s : State) (hm : Memory.wf s.mem = true) :
    Memory.wf (pushMove g s).mem = true := by
  grind -ring -linarith -lia -order -ac [pushMove, setMove_wf, recordStep_wf, abortGranule_wf, recallGranule_wf, sendChunk_wf, moveWithin_wf]
theorem setOwnerCaches_wf (g : Gfn) (owner : Option PkgNo) (gen : Nat) (raise : Bool) (s : State) (hm : Memory.wf s.mem = true) :
    Memory.wf (setOwnerCaches g owner gen raise s).mem = true := by
  grind -ring -linarith -lia -order -ac [setOwnerCaches, raise_wf]
theorem execStumpInstall_wf (g : Gfn) (s : State) (hm : Memory.wf s.mem = true) :
    ∀ u, execStumpInstall g s = .next u → Memory.wf u.mem = true := by
  grind -ring -linarith -lia -order -ac [execStumpInstall, setFabric_wf, dropMove_wf, dropWatches_wf, releaseHeld_wf, sendUpdate_wf, setOwnerCaches_wf, memClear_wf]
theorem execMigAcknowledge_wf (r : Req) (s : State) (hm : Memory.wf s.mem = true) :
    ∀ u, execMigAcknowledge r s = .next u → Memory.wf u.mem = true := by
  grind -ring -linarith -lia -order -ac [execMigAcknowledge, tellMig_wf, sendAck_wf, onRequest_wf, setFabric_wf]
theorem execMigReserve_wf (r : Req) (s : State) (hm : Memory.wf s.mem = true) :
    ∀ u, execMigReserve r s = .next u → Memory.wf u.mem = true := by
  grind -ring -linarith -lia -order -ac [execMigReserve, sendNeg_wf, sendData_wf, onRequest_wf, setFabric_wf]
theorem announceMove_wf (g : Gfn) (gen : Nat) (s : State) (hm : Memory.wf s.mem = true) :
    Memory.wf (announceMove g gen s).mem = true := by
  grind -ring -linarith -lia -order -ac [announceMove, tellMig_wf, setFabric_wf, sendOutcome_wf, foldl_wf, foldl_memory_wf, foldl_pair_wf]
theorem execMigRecordUpdate_wf (r : Req) (s : State) (hm : Memory.wf s.mem = true) :
    ∀ u, execMigRecordUpdate r s = .next u → Memory.wf u.mem = true := by
  grind -ring -linarith -lia -order -ac [execMigRecordUpdate, tellMig_wf, sendAck_wf, onRequest_wf, putRecord_wf, announceMove_wf]
theorem execMigReclaim_wf (r : Req) (s : State) (hm : Memory.wf s.mem = true) :
    ∀ u, execMigReclaim r s = .next u → Memory.wf u.mem = true := by
  grind -ring -linarith -lia -order -ac [execMigReclaim, sendAck_wf, onRequest_wf, putRecord_wf]
theorem execMigAnnounce_wf (r : Req) (s : State) (hm : Memory.wf s.mem = true) :
    ∀ u, execMigAnnounce r s = .next u → Memory.wf u.mem = true := by
  grind -ring -linarith -lia -order -ac [execMigAnnounce, sendAck_wf, onRequest_wf, setFabric_wf, setOwnerCaches_wf]
theorem execAnnouncementDrained_wf (g : Gfn) (s : State) (hm : Memory.wf s.mem = true) :
    ∀ u, execAnnouncementDrained g s = .next u → Memory.wf u.mem = true := by
  grind -ring -linarith -lia -order -ac [execAnnouncementDrained, tellMig_wf, setFabric_wf]
theorem adminEnd_wf (tag : Word) (status : Nat) (extra : Word) (s : State) (hm : Memory.wf s.mem = true) :
    Memory.wf (adminEnd tag status extra s).mem = true := by
  grind -ring -linarith -lia -order -ac [adminEnd, complete_wf]
theorem adminHold_wf (op : Nat) (c : AdminCmd) (params : List Nat) (s : State) (hm : Memory.wf s.mem = true) :
    Memory.wf (adminHold op c params s).mem = true := by
  grind -ring -linarith -lia -order -ac [adminHold]
theorem admin_wf (op : Nat) (names : List (Nat × Nat)) (ok : Bool) (c : AdminCmd) (k : State → State) (s : State) (hm : Memory.wf s.mem = true) (hk : ∀ a0, Memory.wf a0.mem = true → Memory.wf (k a0).mem = true) :
    Memory.wf (admin op names ok c k s).mem = true := by
  grind -ring -linarith -lia -order -ac [admin, journalEntry_wf, adminEnd_wf]
theorem adminNow_wf (op : Nat) (names : List (Nat × Nat)) (ok : Bool) (c : AdminCmd) (k : State → State) (s : State) (hm : Memory.wf s.mem = true) (hk : ∀ a0, Memory.wf a0.mem = true → Memory.wf (k a0).mem = true) :
    Memory.wf (adminNow op names ok c k s).mem = true := by
  grind -ring -linarith -lia -order -ac [adminNow, adminEnd_wf, admin_wf]
theorem execCreateq_wf (c : AdminCmd) (s : State) (hm : Memory.wf s.mem = true) :
    ∀ u, execCreateq c s = .next u → Memory.wf u.mem = true := by
  grind -ring -linarith -lia -order -ac [execCreateq, adminNow_wf]
theorem removeQueue_wf (q : QueueNo) (s : State) (hm : Memory.wf s.mem = true) :
    Memory.wf (removeQueue q s).mem = true := by
  grind -ring -linarith -lia -order -ac [removeQueue]
theorem execDestroyq_wf (c : AdminCmd) (s : State) (hm : Memory.wf s.mem = true) :
    ∀ u, execDestroyq c s = .next u → Memory.wf u.mem = true := by
  grind -ring -linarith -lia -order -ac [execDestroyq, cutLaunch_wf, setQueue_wf, adminHold_wf, admin_wf, foldl_wf, foldl_memory_wf, foldl_pair_wf]
theorem destroyStep_wf (tag : Word) (q : QueueNo) (s : State) (hm : Memory.wf s.mem = true) :
    Memory.wf (destroyStep tag q s).mem = true := by
  grind -ring -linarith -lia -order -ac [destroyStep, adminEnd_wf, removeQueue_wf]
theorem execSuspendq_wf (c : AdminCmd) (s : State) (hm : Memory.wf s.mem = true) :
    ∀ u, execSuspendq c s = .next u → Memory.wf u.mem = true := by
  grind -ring -linarith -lia -order -ac [execSuspendq, setQueue_wf, adminHold_wf, admin_wf]
theorem turnBack_wf (s : State) (hm : Memory.wf s.mem = true) :
    Memory.wf (turnBack s).mem = true := by
  grind -ring -linarith -lia -order -ac [turnBack]
theorem preemptSuspended_wf (s : State) (hm : Memory.wf s.mem = true) :
    Memory.wf (preemptSuspended s).mem = true := by
  grind -ring -linarith -lia -order -ac [preemptSuspended, preempt_wf, turnBack_wf, foldl_wf, foldl_memory_wf, foldl_pair_wf]
theorem suspendStep_wf (tag : Word) (q : QueueNo) (s : State) (hm : Memory.wf s.mem = true) :
    Memory.wf (suspendStep tag q s).mem = true := by
  grind -ring -linarith -lia -order -ac [suspendStep, adminEnd_wf, preemptSuspended_wf]
theorem execResumeq_wf (c : AdminCmd) (s : State) (hm : Memory.wf s.mem = true) :
    ∀ u, execResumeq c s = .next u → Memory.wf u.mem = true := by
  grind -ring -linarith -lia -order -ac [execResumeq, setQueue_wf, adminNow_wf]
theorem execReserve_wf (c : AdminCmd) (s : State) (hm : Memory.wf s.mem = true) :
    ∀ u, execReserve c s = .next u → Memory.wf u.mem = true := by
  grind -ring -linarith -lia -order -ac [execReserve, setCore_wf, adminNow_wf]
theorem execLoadhandler_wf (c : AdminCmd) (s : State) (hm : Memory.wf s.mem = true) :
    ∀ u, execLoadhandler c s = .next u → Memory.wf u.mem = true := by
  grind -ring -linarith -lia -order -ac [execLoadhandler, adminHold_wf, admin_wf]
theorem loadStep_wf (tag : Word) (s : State) (hm : Memory.wf s.mem = true) :
    Memory.wf (loadStep tag s).mem = true := by
  unfold loadStep
  dsimp only
  generalize s.mgmt.handlerNext = im
  generalize (List.range 256).map (fun i => (BitVec.ofNat 8 i : CoreId)) = ks
  have h : Memory.wf (ks.foldl (fun s k => if (coreOf s k).handler == im || !betweenStands s k then s else setCore s k (fun c => { c with handler := im })) s).mem = true := by
    refine foldl_wf _ ks s hm (fun s k h => ?_)
    split
    · exact h
    · exact setCore_wf _ _ _ h
  split
  · exact adminEnd_wf _ _ _ _ h
  · exact h
theorem execSetbanks_wf (c : AdminCmd) (s : State) (hm : Memory.wf s.mem = true) :
    ∀ u, execSetbanks c s = .next u → Memory.wf u.mem = true := by
  grind -ring -linarith -lia -order -ac [execSetbanks, writeBankmode_wf, writeBankstat_wf, adminHold_wf, admin_wf]
theorem banksStep_wf (tag : Word) (k : ClusterId) (s : State) (hm : Memory.wf s.mem = true) :
    Memory.wf (banksStep tag k s).mem = true := by
  grind -ring -linarith -lia -order -ac [banksStep, adminEnd_wf]
theorem execSetquantum_wf (c : AdminCmd) (s : State) (hm : Memory.wf s.mem = true) :
    ∀ u, execSetquantum c s = .next u → Memory.wf u.mem = true := by
  grind -ring -linarith -lia -order -ac [execSetquantum, adminNow_wf]
theorem execPri_wf (c : AdminCmd) (s : State) (hm : Memory.wf s.mem = true) :
    ∀ u, execPri c s = .next u → Memory.wf u.mem = true := by
  grind -ring -linarith -lia -order -ac [execPri, setDie_wf, adminNow_wf]
theorem execStripe_wf (c : AdminCmd) (s : State) (hm : Memory.wf s.mem = true) :
    ∀ u, execStripe c s = .next u → Memory.wf u.mem = true := by
  grind -ring -linarith -lia -order -ac [execStripe, adminHold_wf, admin_wf]
theorem stripeStep_wf (tag : Word) (base count node i left wait : Nat) (s : State) (hm : Memory.wf s.mem = true) :
    Memory.wf (stripeStep tag base count node i left wait s).mem = true := by
  grind -ring -linarith -lia -order -ac [stripeStep, wait_wf, requestMig_wf, adminEnd_wf]
theorem execMigrate_wf (c : AdminCmd) (s : State) (hm : Memory.wf s.mem = true) :
    ∀ u, execMigrate c s = .next u → Memory.wf u.mem = true := by
  grind -ring -linarith -lia -order -ac [execMigrate, adminHold_wf, admin_wf]
theorem migrateStep_wf (tag : Word) (g : Gfn) (dest : PkgNo) (pool status : Nat) (s : State) (hm : Memory.wf s.mem = true) :
    Memory.wf (migrateStep tag g dest pool status s).mem = true := by
  grind -ring -linarith -lia -order -ac [migrateStep, migReport_wf, requestMig_wf, adminEnd_wf]
theorem execJournal_wf (c : AdminCmd) (s : State) (hm : Memory.wf s.mem = true) :
    ∀ u, execJournal c s = .next u → Memory.wf u.mem = true := by
  grind -ring -linarith -lia -order -ac [execJournal, adminNow_wf]
theorem adminInvalid_wf (c : AdminCmd) (s : State) (hm : Memory.wf s.mem = true) :
    Memory.wf (adminInvalid c s).mem = true := by
  grind -ring -linarith -lia -order -ac [adminInvalid, admin_wf]
theorem adminStep_wf (s : State) (hm : Memory.wf s.mem = true) :
    Memory.wf (adminStep s).mem = true := by
  grind -ring -linarith -lia -order -ac [adminStep, wait_wf, destroyStep_wf, suspendStep_wf, loadStep_wf, banksStep_wf, stripeStep_wf, migrateStep_wf]
theorem closeOut_wf (o : Outstanding) (s : State) (hm : Memory.wf s.mem = true) :
    Memory.wf (closeOut o s).mem = true := by
  grind -ring -linarith -lia -order -ac [closeOut, setFabric_wf]
theorem setAccess_wf (c : CordId) (id lane : Nat) (k : Flight → LaneAcc → LaneAcc) (s : State) (hm : Memory.wf s.mem = true) :
    Memory.wf (setAccess c id lane k s).mem = true := by
  grind -ring -linarith -lia -order -ac [setAccess, mapLanes_wf]
theorem keepLine_wf (owner : PkgNo) (line v : Nat) (s : State) (hm : Memory.wf s.mem = true) :
    Memory.wf (keepLine owner line v s).mem = true := by
  grind -ring -linarith -lia -order -ac [keepLine, draw_wf, setFabric_wf]
theorem dropCopy_wf (a : Nat) (s : State) (hm : Memory.wf s.mem = true) :
    Memory.wf (dropCopy a s).mem = true := by
  grind -ring -linarith -lia -order -ac [dropCopy, setFabric_wf]
theorem ackOut_wf (half : Bool) (o : Outstanding) (s : State) (hm : Memory.wf s.mem = true) :
    Memory.wf (ackOut half o s).mem = true := by
  grind -ring -linarith -lia -order -ac [ackOut, writeBack_wf, addMark_wf, dirDrop_wf, setFabric_wf, setAccess_wf, dropCopy_wf]
theorem execAck_wf (r : Resp) (s : State) (hm : Memory.wf s.mem = true) :
    ∀ u, execAck r s = .next u → Memory.wf u.mem = true := by
  grind -ring -linarith -lia -order -ac [execAck, relayFor_wf, setFabric_wf, migEntered_wf, closeOut_wf, ackOut_wf]
theorem keepLoaded_wf (c : CordId) (stamp line v : Nat) (stack : Bool) (s : State) (hm : Memory.wf s.mem = true) :
    Memory.wf (keepLoaded c stamp line v stack s).mem = true := by
  grind -ring -linarith -lia -order -ac [keepLoaded, withRoom_wf, keepIn_wf]
theorem lineLoaded_wf (c : CordId) (id : Nat) (l : LaneAcc) (line v : Nat) (s : State) (hm : Memory.wf s.mem = true) :
    Memory.wf (lineLoaded c id l line v s).mem = true := by
  grind -ring -linarith -lia -order -ac [lineLoaded, setAccess_wf, keepLoaded_wf]
theorem enterOwner_wf (d : DieId) (g : Gfn) (v : Nat) (s : State) (hm : Memory.wf s.mem = true) :
    Memory.wf (enterOwner d g v s).mem = true := by
  grind -ring -linarith -lia -order -ac [enterOwner, setDie_wf]
theorem ownerNamed_wf (d : DieId) (g : Gfn) (inv : Nat) (v : Nat) (s : State) (hm : Memory.wf s.mem = true) :
    Memory.wf (ownerNamed d g inv v s).mem = true := by
  grind -ring -linarith -lia -order -ac [ownerNamed, setDie_wf, enterOwner_wf]
theorem dataOut_wf (o : Outstanding) (r : Resp) (s : State) (hm : Memory.wf s.mem = true) :
    Memory.wf (dataOut o r s).mem = true := by
  grind -ring -linarith -lia -order -ac [dataOut, touchMask_wf, tellFlags_wf, addMark_wf, dirDrop_wf, resendTo_wf, startHold_wf, setMove_wf, reserveStep_wf, setAccess_wf, keepLine_wf, dropCopy_wf, lineLoaded_wf, enterOwner_wf, ownerNamed_wf, memWriteMask_wf, foldl_wf, foldl_memory_wf, foldl_pair_wf]
theorem execData_wf (r : Resp) (s : State) (hm : Memory.wf s.mem = true) :
    ∀ u, execData r s = .next u → Memory.wf u.mem = true := by
  grind -ring -linarith -lia -order -ac [execData, relayFor_wf, closeOut_wf, dataOut_wf]
theorem failOut_wf (o : Outstanding) (code sub : Nat) (s : State) (hm : Memory.wf s.mem = true) :
    Memory.wf (failOut o code sub s).mem = true := by
  grind -ring -linarith -lia -order -ac [failOut, errorEvent_wf, writeBack_wf, addMark_wf, selectHost_wf, hostException_wf, mapLanes_wf, setFabric_wf, endRequestMig_wf, endMove_wf, setAccess_wf, foldl_wf, foldl_memory_wf, foldl_pair_wf]
theorem refusedOut_wf (o : Outstanding) (code sub : Nat) (s : State) (hm : Memory.wf s.mem = true) :
    Memory.wf (refusedOut o code sub s).mem = true := by
  grind -ring -linarith -lia -order -ac [refusedOut, closeOut_wf, failOut_wf]
theorem reResolve_wf (o : Outstanding) (s : State) (hm : Memory.wf s.mem = true) :
    Memory.wf (reResolve o s).mem = true := by
  grind -ring -linarith -lia -order -ac [reResolve, setDie_wf, keepOwn_wf, setFabric_wf]
theorem execNeg_wf (n : NegMsg) (s : State) (hm : Memory.wf s.mem = true) :
    ∀ u, execNeg n s = .next u → Memory.wf u.mem = true := by
  grind -ring -linarith -lia -order -ac [execNeg, closeOut_wf, refusedOut_wf, reResolve_wf]
theorem execRedir_wf (m : RedirMsg) (s : State) (hm : Memory.wf s.mem = true) :
    ∀ u, execRedir m s = .next u → Memory.wf u.mem = true := by
  grind -ring -linarith -lia -order -ac [execRedir, setFabric_wf, setOwnerCaches_wf]
theorem deliverFlit_wf (p : PkgNo) (bs : List Byte) (s : State) (hm : Memory.wf s.mem = true) :
    Memory.wf (deliverFlit p bs s).mem = true := by
  grind -ring -linarith -lia -order -ac [deliverFlit, setPeer_wf]
theorem deliverEarly_wf (p : PkgNo) (x0 : Nat) (s : State) (hm : Memory.wf s.mem = true) :
    Memory.wf (deliverEarly p x0 s).mem = true := by
  fun_induction deliverEarly p x0 s <;> grind -ring -linarith -lia -order -ac [setPeer_wf, deliverFlit_wf]
theorem openDwell_wf (w : Nat) (p : PkgNo) (s : State) (hm : Memory.wf s.mem = true) :
    Memory.wf (openDwell w p s).mem = true := by
  grind -ring -linarith -lia -order -ac [openDwell, setFabric_wf]
theorem takeFlit_wf (bs : List Byte) (s : State) (hm : Memory.wf s.mem = true) :
    Memory.wf (takeFlit bs s).mem = true := by
  grind -ring -linarith -lia -order -ac [takeFlit, setPeer_wf, setFabric_wf, deliverFlit_wf, deliverEarly_wf]
theorem openWith_wf (via : Port) (bs : List Byte) (s : State) (hm : Memory.wf s.mem = true) :
    Memory.wf (openWith via bs s).mem = true := by
  (unfold openWith; repeat' split) <;> grind -ring -linarith -lia -order -ac [openDwell_wf]
theorem execFlitReceive_wf (via : Port) (bs : List Byte) (s : State) (hm : Memory.wf s.mem = true) :
    ∀ u, execFlitReceive via bs s = .next u → Memory.wf u.mem = true := by
  grind -ring -linarith -lia -order -ac [execFlitReceive, setPeer_wf, takeFlit_wf, openWith_wf]
theorem pullBulk_wf (p : PkgNo) (s : State) (hm : Memory.wf s.mem = true) :
    Memory.wf (pullBulk p s).mem = true := by
  grind -ring -linarith -lia -order -ac [pullBulk, setPeer_wf, setFabric_wf]
theorem putWire_wf (via : Port) (bs : List Byte) (s : State) (hm : Memory.wf s.mem = true) :
    Memory.wf (putWire via bs s).mem = true := by
  grind -ring -linarith -lia -order -ac [putWire, setFabric_wf]
theorem resendFlit_wf (via : Port) (p : PkgNo) (y : SentFlit) (s : State) (hm : Memory.wf s.mem = true) :
    Memory.wf (resendFlit via p y s).mem = true := by
  grind -ring -linarith -lia -order -ac [resendFlit, setPeer_wf, putWire_wf]
theorem sendNewFlit_wf (via : Port) (p : PkgNo) (s : State) (hm : Memory.wf s.mem = true) :
    Memory.wf (sendNewFlit via p s).mem = true := by
  grind -ring -linarith -lia -order -ac [sendNewFlit, setPeer_wf, pullBulk_wf, putWire_wf]
theorem sendFlit_wf (via : Port) (s : State) (hm : Memory.wf s.mem = true) :
    Memory.wf (sendFlit via s).mem = true := by
  grind -ring -linarith -lia -order -ac [sendFlit, resendFlit_wf, sendNewFlit_wf]
theorem sendOpener_wf (w : BitVec 7) (s : State) (hm : Memory.wf s.mem = true) :
    Memory.wf (sendOpener w s).mem = true := by
  grind -ring -linarith -lia -order -ac [sendOpener, draw_wf, setFabric_wf, putWire_wf]
theorem transmit_wf (via : Port) (s : State) (hm : Memory.wf s.mem = true) :
    Memory.wf (transmit via s).mem = true := by
  (unfold transmit; repeat' split) <;> grind -ring -linarith -lia -order -ac [sendFlit_wf, sendOpener_wf]
theorem execLinkack_wf (p : PkgNo) (q : Word) (s : State) (hm : Memory.wf s.mem = true) :
    ∀ u, execLinkack p q s = .next u → Memory.wf u.mem = true := by
  grind -ring -linarith -lia -order -ac [execLinkack, countError_wf, setPeer_wf, foldl_wf, foldl_memory_wf, foldl_pair_wf]
theorem execLinknak_wf (p : PkgNo) (q : Word) (s : State) (hm : Memory.wf s.mem = true) :
    ∀ u, execLinknak p q s = .next u → Memory.wf u.mem = true := by
  grind -ring -linarith -lia -order -ac [execLinknak, setPeer_wf]
theorem mapSent_wf (which : SentFlit → Bool) (k : SentFlit → SentFlit) (s : State) (hm : Memory.wf s.mem = true) :
    Memory.wf (mapSent which k s).mem = true := by
  grind -ring -linarith -lia -order -ac [mapSent, setFabric_wf]
theorem execResendTimeout_wf (p : PkgNo) (via : Port) (s : State) (hm : Memory.wf s.mem = true) :
    ∀ u, execResendTimeout p via s = .next u → Memory.wf u.mem = true := by
  grind -ring -linarith -lia -order -ac [execResendTimeout, setPeer_wf]
theorem clearFails_wf (via : Port) (s : State) (hm : Memory.wf s.mem = true) :
    Memory.wf (clearFails via s).mem = true := by
  grind -ring -linarith -lia -order -ac [clearFails, mapSent_wf]
theorem answerDown_wf (p : PkgNo) (s : State) (hm : Memory.wf s.mem = true) :
    Memory.wf (answerDown p s).mem = true := by
  grind -ring -linarith -lia -order -ac [answerDown, setPeer_wf, setFabric_wf, foldl_wf, foldl_memory_wf, foldl_pair_wf]
theorem failFibre_wf (w : Nat) (s : State) (hm : Memory.wf s.mem = true) :
    Memory.wf (failFibre w s).mem = true := by
  grind -ring -linarith -lia -order -ac [failFibre, errorEvent_wf, countError_wf, setFabric_wf, answerDown_wf, foldl_wf, foldl_memory_wf, foldl_pair_wf]
theorem execLinkFailureLimit_wf (via : Port) (s : State) (hm : Memory.wf s.mem = true) :
    ∀ u, execLinkFailureLimit via s = .next u → Memory.wf u.mem = true := by
  (unfold execLinkFailureLimit; repeat' split) <;> grind -ring -linarith -lia -order -ac [errorEvent_wf, countError_wf, setFabric_wf, clearFails_wf, failFibre_wf]
theorem execLinkRetrainResult_wf (k : BitVec 2) (ok : Bool) (s : State) (hm : Memory.wf s.mem = true) :
    ∀ u, execLinkRetrainResult k ok s = .next u → Memory.wf u.mem = true := by
  grind -ring -linarith -lia -order -ac [execLinkRetrainResult, errorEvent_wf, setFabric_wf, answerDown_wf]
theorem execDwellOpener_wf (w : BitVec 7) (p : PkgNo) (s : State) (hm : Memory.wf s.mem = true) :
    ∀ u, execDwellOpener w p s = .next u → Memory.wf u.mem = true := by
  grind -ring -linarith -lia -order -ac [execDwellOpener, openDwell_wf]
theorem execRotorSlot_wf (s : State) (hm : Memory.wf s.mem = true) :
    ∀ u, execRotorSlot s = .next u → Memory.wf u.mem = true := by
  grind -ring -linarith -lia -order -ac [execRotorSlot, setFabric_wf, mapSent_wf]
theorem execRelayForward_wf (dst : PkgNo) (s : State) (hm : Memory.wf s.mem = true) :
    ∀ u, execRelayForward dst s = .next u → Memory.wf u.mem = true := by
  grind -ring -linarith -lia -order -ac [execRelayForward, sendMsg_wf, setFabric_wf]
theorem afterReset_wf (s : State) (_hm : Memory.wf s.mem = true) :
    Memory.wf (afterReset s).mem = true := by
  rfl
theorem execReset_wf (s : State) (hm : Memory.wf s.mem = true) :
    ∀ u, execReset s = .next u → Memory.wf u.mem = true := by
  grind -ring -linarith -lia -order -ac [execReset, afterReset_wf]
theorem execPowerRemoval_wf (s : State) (hm : Memory.wf s.mem = true) :
    ∀ u, execPowerRemoval s = .next u → Memory.wf u.mem = true := by
  grind -ring -linarith -lia -order -ac [execPowerRemoval, afterReset_wf]
theorem trainPackage_wf (s : State) (hm : Memory.wf s.mem = true) :
    Memory.wf (trainPackage s).mem = true := by
  grind -ring -linarith -lia -order -ac [trainPackage, draw_wf]
theorem execFirmwareImageLoad_wf (bs : List Byte) (s : State) (hm : Memory.wf s.mem = true) :
    ∀ u, execFirmwareImageLoad bs s = .next u → Memory.wf u.mem = true := by
  grind -ring -linarith -lia -order -ac [execFirmwareImageLoad]
theorem execMailboxExposedCounts_wf (xs : List Nat) (s : State) (hm : Memory.wf s.mem = true) :
    ∀ u, execMailboxExposedCounts xs s = .next u → Memory.wf u.mem = true := by
  grind -ring -linarith -lia -order -ac [execMailboxExposedCounts]
theorem execMailboxDeckSize_wf (units : Nat) (s : State) (hm : Memory.wf s.mem = true) :
    ∀ u, execMailboxDeckSize units s = .next u → Memory.wf u.mem = true := by
  grind -ring -linarith -lia -order -ac [execMailboxDeckSize]
theorem execMailboxAdminQueue_wf (a : AdminRings) (s : State) (hm : Memory.wf s.mem = true) :
    ∀ u, execMailboxAdminQueue a s = .next u → Memory.wf u.mem = true := by
  grind -ring -linarith -lia -order -ac [execMailboxAdminQueue]
theorem execFabricJoin_wf (num : PkgNo) (members : List (PkgNo × List Nat)) (s : State) (hm : Memory.wf s.mem = true) :
    ∀ u, execFabricJoin num members s = .next u → Memory.wf u.mem = true := by
  grind -ring -linarith -lia -order -ac [execFabricJoin]
theorem nbAccept_wf (c : NbCmd) (s : State) (hm : Memory.wf s.mem = true) :
    Memory.wf (nbAccept c s).mem = true := by
  grind -ring -linarith -lia -order -ac [nbAccept, setQuad_wf, fresh_wf, advance_wf, countPath_wf]
theorem nbIssue_wf (build : State → Option NbCmd) (s : State) (hm : Memory.wf s.mem = true) :
    Memory.wf (nbIssue build s).mem = true := by
  grind -ring -linarith -lia -order -ac [nbIssue, wait_wf, outsideBody_wf, refuseCmd_wf, nbAccept_wf]
theorem execNbcfg_wf (a : Reg) (r : BitVec 1) (z : BitVec 3) (_l : BitVec 4) (s : State) (hm : Memory.wf s.mem = true) :
    ∀ u, execNbcfg a r z _l s = .next u → Memory.wf u.mem = true := by
  (unfold execNbcfg; repeat' split) <;> grind -ring -linarith -lia -order -ac [advance_wf, wait_wf, forkReady_wf, raise_wf, outsideBody_wf, refuseCmd_wf, forgetEng_wf, engRead_wf, nbAccept_wf]
theorem execNbin_wf (a : Reg) (r : BitVec 1) (z : BitVec 3) (_l : BitVec 4) (s : State) (hm : Memory.wf s.mem = true) :
    ∀ u, execNbin a r z _l s = .next u → Memory.wf u.mem = true := by
  grind -ring -linarith -lia -order -ac [execNbin, nbIssue_wf]
theorem execNchk_wf (a : Reg) (r : BitVec 1) (z : BitVec 3) (_l : BitVec 4) (s : State) (hm : Memory.wf s.mem = true) :
    ∀ u, execNchk a r z _l s = .next u → Memory.wf u.mem = true := by
  grind -ring -linarith -lia -order -ac [execNchk, nbIssue_wf]
theorem execNpairH_wf (a : Reg) (r : BitVec 1) (z : BitVec 3) (_l : BitVec 4) (s : State) (hm : Memory.wf s.mem = true) :
    ∀ u, execNpairH a r z _l s = .next u → Memory.wf u.mem = true := by
  grind -ring -linarith -lia -order -ac [execNpairH, nbIssue_wf]
theorem execNpairF_wf (a : Reg) (r : BitVec 1) (z : BitVec 3) (_l : BitVec 4) (s : State) (hm : Memory.wf s.mem = true) :
    ∀ u, execNpairF a r z _l s = .next u → Memory.wf u.mem = true := by
  grind -ring -linarith -lia -order -ac [execNpairF, nbIssue_wf]
theorem execCbinK_wf (a : Reg) (r : BitVec 1) (z : BitVec 3) (_l : BitVec 4) (s : State) (hm : Memory.wf s.mem = true) :
    ∀ u, execCbinK a r z _l s = .next u → Memory.wf u.mem = true := by
  grind -ring -linarith -lia -order -ac [execCbinK, nbIssue_wf]
theorem execCbinL_wf (a : Reg) (r : BitVec 1) (z : BitVec 3) (_l : BitVec 4) (s : State) (hm : Memory.wf s.mem = true) :
    ∀ u, execCbinL a r z _l s = .next u → Memory.wf u.mem = true := by
  grind -ring -linarith -lia -order -ac [execCbinL, nbIssue_wf]
theorem execNbst_wf (a : Reg) (z : BitVec 3) (l : BitVec 4) (s : State) (hm : Memory.wf s.mem = true) :
    ∀ u, execNbst a z l s = .next u → Memory.wf u.mem = true := by
  grind -ring -linarith -lia -order -ac [execNbst, advance_wf, wait_wf, issue_wf, outsideBody_wf, countPath_wf, refuseCmd_wf]
theorem nbRead_wf (c : NbCmd) (a : DWord) (n : Nat) (s : State) (hm : Memory.wf s.mem = true) :
    Memory.wf (nbRead c a n s).2.mem = true := by
  grind -ring -linarith -lia -order -ac [nbRead, engRead_wf]
theorem nbWrite_wf (c : NbCmd) (a : DWord) (n v : Nat) (s : State) (hm : Memory.wf s.mem = true) :
    Memory.wf (nbWrite c a n v s).2.mem = true := by
  grind -ring -linarith -lia -order -ac [nbWrite, engWrite_wf]
theorem nbSet_wf (q : QuadId) (c : NbCmd) (s : State) (hm : Memory.wf s.mem = true) :
    Memory.wf (nbSet q c s).mem = true := by
  grind -ring -linarith -lia -order -ac [nbSet, setQuad_wf, clearMarks_wf]
theorem nbDrop_wf (q : QuadId) (c : NbCmd) (s : State) (hm : Memory.wf s.mem = true) :
    Memory.wf (nbDrop q c s).mem = true := by
  grind -ring -linarith -lia -order -ac [nbDrop, setQuad_wf, forgetEng_wf]
theorem nbEnd_wf (q : QuadId) (c : NbCmd) (outcome code count first extra : Nat) (s : State) (hm : Memory.wf s.mem = true) :
    Memory.wf (nbEnd q c outcome code count first extra s).mem = true := by
  grind -ring -linarith -lia -order -ac [nbEnd, arriveAt_wf, winWrite_wf, nbDrop_wf]
theorem nbFault_wf (q : QuadId) (c : NbCmd) (code : Nat) (s : State) (hm : Memory.wf s.mem = true) :
    Memory.wf (nbFault q c code s).mem = true := by
  grind -ring -linarith -lia -order -ac [nbFault, nbEnd_wf]
theorem nbThen_wf (g : Got × State) (flt : Nat → State → State) (k : Nat → State → State) (hm : Memory.wf g.2.mem = true) (hflt : ∀ a0 a1, Memory.wf a1.mem = true → Memory.wf (flt a0 a1).mem = true) (hk : ∀ a0 a1, Memory.wf a1.mem = true → Memory.wf (k a0 a1).mem = true) :
    Memory.wf (nbThen g flt k).mem = true := by
  (unfold nbThen; repeat' split) <;> grind
theorem nbWrites_wf (c : NbCmd) (x0 : List (DWord × Nat × Nat)) (s : State) (hm : Memory.wf s.mem = true) :
    Memory.wf (nbWrites c x0 s).2.mem = true := by
  fun_induction nbWrites c x0 s <;> grind -ring -linarith -lia -order -ac [nbWrite_wf]
theorem nbReads_wf (c : NbCmd) (n : Nat) (x0 : List DWord) (s : State) (hm : Memory.wf s.mem = true) :
    Memory.wf (nbReads c n x0 s).2.mem = true := by
  fun_induction nbReads c n x0 s <;> grind -ring -linarith -lia -order -ac [nbRead_wf]
theorem nbStep_wf (q : QuadId) (is : NbCmd → Bool) (k : NbCmd → State → State) (s : State) (hm : Memory.wf s.mem = true) (hk : ∀ a0 a1, Memory.wf a1.mem = true → Memory.wf (k a0 a1).mem = true) :
    Memory.wf (nbStep q is k s).mem = true := by
  grind -ring -linarith -lia -order -ac [nbStep, forkMay_wf, nbDrop_wf]
theorem nbGrid_wf (q : QuadId) (c : NbCmd) (k : NbCmd → Grid → State → State) (s : State) (hm : Memory.wf s.mem = true) (hk : ∀ a0 a1 a2, Memory.wf a2.mem = true → Memory.wf (k a0 a1 a2).mem = true) :
    Memory.wf (nbGrid q c k s).mem = true := by
  grind -ring -linarith -lia -order -ac [nbGrid, nbRead_wf, nbEnd_wf, nbFault_wf, nbThen_wf]
theorem nbEpoch_wf (c : NbCmd) (flt : Nat → State → State) (k : Word → Nat → State → State) (s : State) (hm : Memory.wf s.mem = true) (hflt : ∀ a0 a1, Memory.wf a1.mem = true → Memory.wf (flt a0 a1).mem = true) (hk : ∀ a0 a1 a2, Memory.wf a2.mem = true → Memory.wf (k a0 a1 a2).mem = true) :
    Memory.wf (nbEpoch c flt k s).mem = true := by
  grind -ring -linarith -lia -order -ac [nbEpoch, nbRead_wf, nbThen_wf]
theorem nbFinish_wf (q : QuadId) (c : NbCmd) (ws : List (DWord × Nat × Nat)) (flt : Nat → State → State) (k : State → State) (s : State) (hm : Memory.wf s.mem = true) (hflt : ∀ a0 a1, Memory.wf a1.mem = true → Memory.wf (flt a0 a1).mem = true) (hk : ∀ a0, Memory.wf a0.mem = true → Memory.wf (k a0).mem = true) :
    Memory.wf (nbFinish q c ws flt k s).mem = true := by
  exact nbThen_wf _ _ _ (nbWrites_wf _ _ _ (setQuad_wf _ _ _ hm)) hflt (fun _ s h => hk s h)
theorem execNbcfgPerform_wf (q : QuadId) (s : State) (hm : Memory.wf s.mem = true) :
    ∀ u, execNbcfgPerform q s = .next u → Memory.wf u.mem = true := by
  grind -ring -linarith -lia -order -ac [execNbcfgPerform, nbEnd_wf, nbFault_wf, nbStep_wf, nbEpoch_wf, nbFinish_wf]
theorem freeVirt_wf (c : NbCmd) (va n : Nat) (s : State) (hm : Memory.wf s.mem = true) :
    Memory.wf (freeVirt c va n s).mem = true := by
  grind -ring -linarith -lia -order -ac [freeVirt, writeVirt_wf]
theorem binStop_wf (q : QuadId) (c : NbCmd) (code : Nat) (s : State) (hm : Memory.wf s.mem = true) :
    Memory.wf (binStop q c code s).mem = true := by
  unfold binStop
  dsimp only
  have hf : ∀ (a : Nat) (s : State), Memory.wf s.mem = true → Memory.wf (nbFault q c code s).mem = true := fun _ s h => nbFault_wf _ _ _ _ h
  split
  · exact nbFinish_wf _ _ _ _ _ _ hm (fun _ s h => nbFault_wf _ _ _ _ h) (fun s h => nbFault_wf _ _ _ _ h)
  · refine nbEpoch_wf _ _ _ _ hm hf (fun e _ s h => ?_)
    split
    · exact nbFinish_wf _ _ _ _ _ _ h (fun _ s h => nbFault_wf _ _ _ _ h) (fun s h => nbFault_wf _ _ _ _ h)
    · exact nbFault_wf _ _ _ _ h
theorem binFault_wf (q : QuadId) (c : NbCmd) (code : Nat) (s : State) (hm : Memory.wf s.mem = true) :
    Memory.wf (binFault q c code s).mem = true := by
  grind -ring -linarith -lia -order -ac [binFault, nbSet_wf, freeVirt_wf]
theorem binEnd_wf (q : QuadId) (c : NbCmd) (s : State) (hm : Memory.wf s.mem = true) :
    Memory.wf (binEnd q c s).mem = true := by
  grind -ring -linarith -lia -order -ac [binEnd, nbEnd_wf, nbFinish_wf, binFault_wf]
theorem execNbinRun_wf (q : QuadId) (s : State) (hm : Memory.wf s.mem = true) :
    ∀ u, execNbinRun q s = .next u → Memory.wf u.mem = true := by
  intro u hu
  simp only [execNbinRun, Host.Outcome.next.injEq] at hu
  subst hu
  refine nbStep_wf _ _ _ _ hm (fun c s hs => ?_)
  have hb : ∀ (c : NbCmd) (s : State), Memory.wf s.mem = true → Memory.wf (nbFinish q c [(plus c.desc 64, 4, c.epoch.toNat), (plus c.desc 68, 1, 1)] (binFault q c)
      (nbSet q { c with phase := 2 }) s).mem = true :=
    fun c s h => nbFinish_wf _ _ _ _ _ _ h (fun code s h => binFault_wf _ _ code _ h) (fun s h => nbSet_wf _ _ _ h)
  split
  · exact binStop_wf _ _ _ _ hs
  · split
    · refine nbGrid_wf _ _ _ _ hs (fun c g s h => ?_)
      split
      · exact nbEnd_wf _ _ _ _ _ _ _ _ h
      · exact hb _ _ h
    · split
      · exact hb _ _ hs
      · split
        · split
          · exact nbSet_wf _ _ _ hs
          · exact nbThen_wf _ _ _ (nbRead_wf _ _ _ _ hs) (fun _ _ h => binFault_wf _ _ _ _ h) (fun _ _ h => nbSet_wf _ _ _ h)
        · split
          · exact nbThen_wf _ _ _ (nbWrites_wf _ _ _ hs) (fun _ _ h => binFault_wf _ _ _ _ h) (fun _ _ h => nbSet_wf _ _ _ h)
          · split
            · exact nbEpoch_wf _ _ _ _ hs (fun _ _ h => binFault_wf _ _ _ _ h) (fun _ _ _ h => binEnd_wf _ _ _ h)
            · exact binEnd_wf _ _ _ hs
theorem chkEnd_wf (q : QuadId) (c : NbCmd) (s : State) (hm : Memory.wf s.mem = true) :
    Memory.wf (chkEnd q c s).mem = true := by
  grind -ring -linarith -lia -order -ac [chkEnd, nbEnd_wf, nbFault_wf, nbFinish_wf]
theorem execNchkRun_wf (q : QuadId) (s : State) (hm : Memory.wf s.mem = true) :
    ∀ u, execNchkRun q s = .next u → Memory.wf u.mem = true := by
  grind -ring -linarith -lia -order -ac [execNchkRun, nbSet_wf, nbEnd_wf, nbFault_wf, nbReads_wf, nbStep_wf, nbGrid_wf, nbEpoch_wf, chkEnd_wf]
theorem execNpairRun_wf (q : QuadId) (s : State) (hm : Memory.wf s.mem = true) :
    ∀ u, execNpairRun q s = .next u → Memory.wf u.mem = true := by
  grind -ring -linarith -lia -order -ac [execNpairRun, nbSet_wf, nbEnd_wf, nbStep_wf, nbGrid_wf]
theorem publishRecords_wf (c : ClusterId) (i : BitVec 6) (rs : List Nat) (s : State) (hm : Memory.wf s.mem = true) :
    Memory.wf (publishRecords c i rs s).mem = true := by
  grind -ring -linarith -lia -order -ac [publishRecords, setRing_wf]
theorem pairEnd_wf (q : QuadId) (c : NbCmd) (s : State) (hm : Memory.wf s.mem = true) :
    Memory.wf (pairEnd q c s).mem = true := by
  grind -ring -linarith -lia -order -ac [pairEnd, nbEnd_wf]
theorem pairGroup_wf (q : QuadId) (c : NbCmd) (cl : ClusterId) (i : BitVec 6) (out : List Nat) (s : State) (hm : Memory.wf s.mem = true) :
    Memory.wf (pairGroup q c cl i out s).mem = true := by
  grind -ring -linarith -lia -order -ac [pairGroup, setRing_wf, nbSet_wf]
theorem pairPublish_wf (q : QuadId) (c : NbCmd) (cl : ClusterId) (i : BitVec 6) (e : Word) (s : State) (hm : Memory.wf s.mem = true) :
    Memory.wf (pairPublish q c cl i e s).mem = true := by
  grind -ring -linarith -lia -order -ac [pairPublish, nbSet_wf, nbEnd_wf, publishRecords_wf]
theorem execGroupPublish_wf (q : QuadId) (s : State) (hm : Memory.wf s.mem = true) :
    ∀ u, execGroupPublish q s = .next u → Memory.wf u.mem = true := by
  (unfold execGroupPublish; repeat' split) <;> grind -ring -linarith -lia -order -ac [nbRead_wf, nbFault_wf, nbThen_wf, nbReads_wf, nbStep_wf, nbEpoch_wf, pairEnd_wf, pairGroup_wf, pairPublish_wf]
theorem cbinEnd_wf (q : QuadId) (c : NbCmd) (ring : Option (ClusterId × BitVec 6)) (k : Nat) (s : State) (hm : Memory.wf s.mem = true) :
    Memory.wf (cbinEnd q c ring k s).mem = true := by
  (unfold cbinEnd; repeat' split) <;> grind -ring -linarith -lia -order -ac [nbEnd_wf, publishRecords_wf]
theorem execCbinRun_wf (q : QuadId) (s : State) (hm : Memory.wf s.mem = true) :
    ∀ u, execCbinRun q s = .next u → Memory.wf u.mem = true := by
  intro u hu
  simp only [execCbinRun, Host.Outcome.next.injEq] at hu
  subst hu
  refine nbStep_wf _ _ _ _ hm (fun c s hs => ?_)
  repeat' first
    | with_reducible assumption
    | with_reducible refine nbGrid_wf _ _ _ _ ?_ (fun _ _ _ => ?_)
    | with_reducible refine nbGridOn_wf _ _ _ _ ?_ (fun _ _ _ => ?_) (fun _ _ _ => ?_)
    | with_reducible refine nbThen_wf _ _ _ ?_ (fun _ _ _ => ?_) (fun _ _ _ => ?_)
    | with_reducible apply nbEnd_wf
    | with_reducible apply nbSet_wf
    | with_reducible apply nbFault_wf
    | with_reducible apply binStop_wf
    | with_reducible apply binFault_wf
    | with_reducible apply nbRead_wf
    | with_reducible apply nbWrites_wf
    | with_reducible apply pairEnd_wf
    | with_reducible apply pairGroup_wf
    | with_reducible apply cbinEnd_wf
    | dsimp only
    | split
    | grind -ring -linarith -lia -order -ac [nbReads_wf]
theorem answerFlight_wf (cid : CordId) (id : Nat) (v : DWord) (s : State) (hm : Memory.wf s.mem = true) :
    Memory.wf (answerFlight cid id v s).mem = true := by
  grind -ring -linarith -lia -order -ac [answerFlight, mapCords_wf]
theorem execNbstRead_wf (q : QuadId) (s : State) (hm : Memory.wf s.mem = true) :
    ∀ u, execNbstRead q s = .next u → Memory.wf u.mem = true := by
  grind -ring -linarith -lia -order -ac [execNbstRead, nbRead_wf, nbDrop_wf, nbStep_wf, answerFlight_wf]
theorem execPowerClock_wf (c : AdminCmd) (s : State) (hm : Memory.wf s.mem = true) :
    ∀ u, execPowerClock c s = .next u → Memory.wf u.mem = true := by
  grind -ring -linarith -lia -order -ac [execPowerClock, setDie_wf, adminNow_wf]
theorem execClockChangeComplete_wf (d : DieId) (s : State) (hm : Memory.wf s.mem = true) :
    ∀ u, execClockChangeComplete d s = .next u → Memory.wf u.mem = true := by
  grind -ring -linarith -lia -order -ac [execClockChangeComplete, setDie_wf]
theorem execPowerPark_wf (c : AdminCmd) (s : State) (hm : Memory.wf s.mem = true) :
    ∀ u, execPowerPark c s = .next u → Memory.wf u.mem = true := by
  grind -ring -linarith -lia -order -ac [execPowerPark, setPart_wf, adminNow_wf, foldl_wf, foldl_memory_wf, foldl_pair_wf]
theorem execParkComplete_wf (p : PartId) (s : State) (hm : Memory.wf s.mem = true) :
    ∀ u, execParkComplete p s = .next u → Memory.wf u.mem = true := by
  grind -ring -linarith -lia -order -ac [execParkComplete, setPart_wf]
theorem execPowerRetain_wf (c : AdminCmd) (s : State) (hm : Memory.wf s.mem = true) :
    ∀ u, execPowerRetain c s = .next u → Memory.wf u.mem = true := by
  grind -ring -linarith -lia -order -ac [execPowerRetain, adminNow_wf]
theorem execBankRetentionDrop_wf (b : SliceBank) (s : State) (hm : Memory.wf s.mem = true) :
    ∀ u, execBankRetentionDrop b s = .next u → Memory.wf u.mem = true := by
  grind -ring -linarith -lia -order -ac [execBankRetentionDrop]
theorem execPowerSleep_wf (c : AdminCmd) (s : State) (hm : Memory.wf s.mem = true) :
    ∀ u, execPowerSleep c s = .next u → Memory.wf u.mem = true := by
  grind -ring -linarith -lia -order -ac [execPowerSleep, adminNow_wf]
theorem execFibreGroupAsleep_wf (g : BitVec 3) (s : State) (hm : Memory.wf s.mem = true) :
    ∀ u, execFibreGroupAsleep g s = .next u → Memory.wf u.mem = true := by
  grind -ring -linarith -lia -order -ac [execFibreGroupAsleep, setFabric_wf]
theorem execFibreGroupWake_wf (g : BitVec 3) (s : State) (hm : Memory.wf s.mem = true) :
    ∀ u, execFibreGroupWake g s = .next u → Memory.wf u.mem = true := by
  grind -ring -linarith -lia -order -ac [execFibreGroupWake]
theorem execTemperatureCurrentLimit_wf (source detail : Nat) (s : State) (hm : Memory.wf s.mem = true) :
    ∀ u, execTemperatureCurrentLimit source detail s = .next u → Memory.wf u.mem = true := by
  grind -ring -linarith -lia -order -ac [execTemperatureCurrentLimit, journalEntry_wf, eventRecord_wf]
theorem execErrorThresholdReached_wf (cls : ErrClass) (s : State) (hm : Memory.wf s.mem = true) :
    ∀ u, execErrorThresholdReached cls s = .next u → Memory.wf u.mem = true := by
  grind -ring -linarith -lia -order -ac [execErrorThresholdReached, raiseMsix_wf, errorEvent_wf]
theorem execObserveSampler_wf (c : AdminCmd) (s : State) (hm : Memory.wf s.mem = true) :
    ∀ u, execObserveSampler c s = .next u → Memory.wf u.mem = true := by
  grind -ring -linarith -lia -order -ac [execObserveSampler, adminNow_wf]
theorem execPcSample_wf (p : PartId) (s : State) (hm : Memory.wf s.mem = true) :
    ∀ u, execPcSample p s = .next u → Memory.wf u.mem = true := by
  grind -ring -linarith -lia -order -ac [execPcSample, setPart_wf, mapCords_wf, putMem_wf]
theorem execObserveEventRing_wf (c : AdminCmd) (s : State) (hm : Memory.wf s.mem = true) :
    ∀ u, execObserveEventRing c s = .next u → Memory.wf u.mem = true := by
  grind -ring -linarith -lia -order -ac [execObserveEventRing, adminNow_wf]
theorem execObserveClearCounters_wf (c : AdminCmd) (s : State) (hm : Memory.wf s.mem = true) :
    ∀ u, execObserveClearCounters c s = .next u → Memory.wf u.mem = true := by
  grind -ring -linarith -lia -order -ac [execObserveClearCounters, adminNow_wf]
theorem execObserveArmWatchpoint_wf (c : AdminCmd) (s : State) (hm : Memory.wf s.mem = true) :
    ∀ u, execObserveArmWatchpoint c s = .next u → Memory.wf u.mem = true := by
  grind -ring -linarith -lia -order -ac [execObserveArmWatchpoint, adminNow_wf]
theorem execObserveDisarmWatchpoint_wf (c : AdminCmd) (s : State) (hm : Memory.wf s.mem = true) :
    ∀ u, execObserveDisarmWatchpoint c s = .next u → Memory.wf u.mem = true := by
  grind -ring -linarith -lia -order -ac [execObserveDisarmWatchpoint, adminNow_wf]
theorem execWatchEventWrite_wf (s : State) (hm : Memory.wf s.mem = true) :
    ∀ u, execWatchEventWrite s = .next u → Memory.wf u.mem = true := by
  grind -ring -linarith -lia -order -ac [execWatchEventWrite, eventRecord_wf]
theorem execStop_wf (c : AdminCmd) (s : State) (hm : Memory.wf s.mem = true) :
    ∀ u, execStop c s = .next u → Memory.wf u.mem = true := by
  grind -ring -linarith -lia -order -ac [execStop, putMem_wf, setPart_wf, adminNow_wf]
theorem execStopResume_wf (c : AdminCmd) (s : State) (hm : Memory.wf s.mem = true) :
    ∀ u, execStopResume c s = .next u → Memory.wf u.mem = true := by
  grind -ring -linarith -lia -order -ac [execStopResume, setPart_wf, adminNow_wf, preemptSuspended_wf]

end Sys2Proof.Laws
end

