-- ==== Sys2Proof/Laws/KeptTurns.lean ====
section
/-! SUPPORT. Every turn keeps memory in canonical form, up to the instruction that it executes. Each lemma is named after its operation. -/

namespace Sys2Proof.Laws

set_option Elab.async false

open Sys2Proof Sys2Proof.Machine

theorem requestTurn_wf (op : Nat) (r : Req) (s : State) (hm : Memory.wf s.mem = true) :
    Memory.wf (requestTurn op r s).mem = true := by
  (unfold requestTurn; repeat' split) <;> grind -ring -linarith -lia -order -ac [execRd_wf, execWr_wf, execWrm_wf, execAtReq_wf, execBwr_wf, execBrd_wf, execRdxTree_wf, execRdxArrival_wf, execNst_wf, execMsg_wf, execReg_wf, execCohFetchShared_wf, execCohFetchExclusive_wf, execCohInvalidate_wf, execCohRecall_wf, execMigOutcome_wf, execMigRequest_wf, execMigAcknowledge_wf, execMigReserve_wf, execMigRecordUpdate_wf, execMigReclaim_wf, execMigAnnounce_wf, stateOf_wf]
theorem messageTurn_wf (m : OutMsg) (s : State) (hm : Memory.wf s.mem = true) :
    Memory.wf (messageTurn m s).mem = true := by
  (unfold messageTurn; repeat' split) <;> grind -ring -linarith -lia -order -ac [execAck_wf, execData_wf, execNeg_wf, execRedir_wf, requestTurn_wf, stateOf_wf]
theorem heardTurn_wf (p : PkgNo) (m : OutMsg) (s : State) (hm : Memory.wf s.mem = true) :
    Memory.wf (heardTurn p m s).mem = true := by
  grind -ring -linarith -lia -order -ac [heardTurn, relayFrom_wf, messageTurn_wf]
theorem adminTurn_wf (c : AdminCmd) (s : State) (hm : Memory.wf s.mem = true) :
    Memory.wf (adminTurn c s).mem = true := by
  grind -ring -linarith -lia -order -ac [adminTurn, execCreateq_wf, execDestroyq_wf, execSuspendq_wf, execResumeq_wf, execReserve_wf, execLoadhandler_wf, execSetbanks_wf, execSetquantum_wf, execPri_wf, execStripe_wf, execMigrate_wf, execJournal_wf, adminInvalid_wf, execPowerClock_wf, execPowerPark_wf, execPowerRetain_wf, execPowerSleep_wf, execObserveSampler_wf, execObserveEventRing_wf, execObserveClearCounters_wf, execObserveArmWatchpoint_wf, execObserveDisarmWatchpoint_wf, execStop_wf, execStopResume_wf, stateOf_wf]
theorem adminGo_wf (s : State) (hm : Memory.wf s.mem = true) :
    Memory.wf (adminGo s).mem = true := by
  grind -ring -linarith -lia -order -ac [adminGo, setQueue_wf, forgetEng_wf, engReadPhys_wf, admin_wf, adminStep_wf]
theorem workTurn_wf (t : Turn) (s : State) (hm : Memory.wf s.mem = true) :
    Memory.wf (workTurn t s).mem = true := by
  (unfold workTurn; repeat' split) <;> grind -ring -linarith -lia -order -ac [setThreshold_wf, devAgain_wf, hostAgain_wf, eccTurn_wf, replayAll_wf, translateLog_wf, pushInval_wf, execClusterCacheEviction_wf, execDirectoryEntryEviction_wf, execPartnerLineEviction_wf, retryPending_wf, pushMove_wf, admin_wf, transmit_wf, execLinkack_wf, execLinknak_wf, execResendTimeout_wf, trainPackage_wf, execBankRetentionDrop_wf, messageTurn_wf, heardTurn_wf, adminTurn_wf, adminGo_wf, stateOf_wf]
theorem front_wf (t : Turn) (s : State) (hm : Memory.wf s.mem = true) :
    (∀ u, front t s = .rest u → Memory.wf u.mem = true) ∧ ∀ i b u, front t s = .run i b u → Memory.wf u.mem = true := by
  unfold front
  split
  · exact frontScalar_wf _ _ _ hm
  · exact frontLane_wf _ _ _ hm
  · exact frontHost_wf _ _ _ hm
  · refine ⟨fun u hu => (by cases hu), fun i b u hu => ?_⟩
    injection hu with h1 h2 h3
    subst h3
    exact hm
  · refine ⟨fun u hu => ?_, fun i b u hu => (by cases hu)⟩
    injection hu with h1
    subst h1
    exact workTurn_wf _ _ hm
theorem back_wf (t : Turn) (before after : State) (hm : Memory.wf after.mem = true) :
    Memory.wf (back t before after).mem = true := by
  (unfold back; repeat' split) <;> grind -ring -linarith -lia -order -ac [endScalar_wf, endHost_wf]
theorem countClock_wf (s : State) (x : PartId × List Ready) (hm : Memory.wf s.mem = true) :
    Memory.wf (countClock s x).mem = true := by
  grind -ring -linarith -lia -order -ac [countClock, setPart_wf]
theorem tickClocks_wf (s : State) (hm : Memory.wf s.mem = true) :
    Memory.wf (tickClocks s).mem = true := by
  grind -ring -linarith -lia -order -ac [tickClocks, mapCords_wf]
theorem noteEligible_wf (parts : List (PartId × List Ready)) (s : State) (k : CoreId) (hm : Memory.wf s.mem = true) :
    Memory.wf (noteEligible parts s k).mem = true := by
  grind -ring -linarith -lia -order -ac [noteEligible, setCore_wf]
theorem schedule_wf (s : State) (hm : Memory.wf s.mem = true) :
    Memory.wf (schedule s).mem = true := by
  grind -ring -linarith -lia -order -ac [schedule, pointRots_wf, countClock_wf, tickClocks_wf, noteEligible_wf, foldl_wf, foldl_memory_wf, foldl_pair_wf]

end Sys2Proof.Laws
end

