-- ==== Sys2Proof/Laws/Quiet.lean ====
section
/-! SUPPORT. What the device's own traffic leaves alone: a request, a coherence message, a write at a slice, a journal or event entry changes no cord, cluster, die queue, stand or launch. -/

namespace Sys2Proof.Laws

open Sys2Proof Sys2Proof.Machine

/-- Two states agree on everything but memory, the fabric, management, the host cores, the values kept for reads in flight, the agenda and the owner answers of the dies. -/
structure Quiet (s t : State) : Prop where
  inputs : t.inputs = s.inputs
  nextId : t.nextId = s.nextId
  cord : t.cord = s.cord
  cords : t.cords = s.cords
  hostNo : t.hostNo = s.hostNo
  leaves : t.leaves = s.leaves
  latches : t.latches = s.latches
  bwaits : t.bwaits = s.bwaits
  answers : t.answers = s.answers
  englines : t.englines = s.englines
  devWrites : t.devWrites = s.devWrites
  parts : t.parts = s.parts
  cores : t.cores = s.cores
  clusters : t.clusters = s.clusters
  quads : t.quads = s.quads
  queues : t.queues = s.queues
  launches : t.launches = s.launches
  stands : t.stands = s.stands
  held : t.held = s.held
  completions : t.completions = s.completions
  disp : t.disp = s.disp
  iommu : t.iommu = s.iommu
  almanac : t.almanac = s.almanac

theorem Quiet.refl (s : State) : Quiet s s := by constructor <;> rfl

theorem Quiet.trans {s t u : State} (h : Quiet s t) (k : Quiet t u) : Quiet s u := by
  obtain ⟨h1, h2, h3, h4, h5, h6, h7, h8, h9, h10, h11, h12, h13, h14, h15, h16, h17, h18, h19, h20, h21, h22, h23⟩ := h
  obtain ⟨k1, k2, k3, k4, k5, k6, k7, k8, k9, k10, k11, k12, k13, k14, k15, k16, k17, k18, k19, k20, k21, k22, k23⟩ := k
  constructor <;> simp only [*]

/-- A fold of quiet steps is quiet. -/
theorem quiet_foldl {α : Type} (f : State → α → State) (h : ∀ s x, Quiet s (f s x)) (xs : List α) : ∀ s, Quiet s (xs.foldl f s) := by
  induction xs with
  | nil => exact Quiet.refl
  | cons x xs ih => exact fun s => (h s x).trans (ih (f s x))

theorem addValue_quiet (line : Nat) (v : BitVec 1024) (s : State) : Quiet s (addValue line v s) := by constructor <;> rfl
theorem setFabric_quiet (k : Fabric → Fabric) (s : State) : Quiet s (setFabric k s) := by constructor <;> rfl
theorem setDie_quiet (s : State) (d : DieId) (k : Die → Die) : Quiet s (setDie s d k) := by constructor <;> rfl
theorem setPeer_quiet (p : PkgNo) (k : Peer → Peer) (s : State) : Quiet s (setPeer p k s) := by constructor <;> rfl

theorem sendMsg_quiet (dst : PkgNo) (m : OutMsg) (s : State) : Quiet s (sendMsg dst m s) := by
  unfold sendMsg; split
  · constructor <;> rfl
  · exact setPeer_quiet _ _ s

theorem sendBulk_quiet (dst : PkgNo) (pa : Nat) (m : OutMsg) (s : State) : Quiet s (sendBulk dst pa m s) := by
  unfold sendBulk; split
  · exact sendMsg_quiet _ _ s
  · constructor <;> rfl

theorem usedOnce_quiet (w : Want) (s : State) : Quiet s (usedOnce w s) := by
  unfold usedOnce; split
  · exact Quiet.refl s
  · exact setDie_quiet s _ _

theorem dropOlder_quiet (w : Want) (s : State) : Quiet s (dropOlder w s) := by
  have h := fun xs => quiet_foldl (fun s (x : PartnerLine) => addValue x.line x.data s) (fun s x => addValue_quiet x.line x.data s) xs s
  unfold dropOlder
  dsimp only
  split
  · exact h _
  · exact (h _).trans (by constructor <;> rfl)

theorem sendNow_quiet (w : Want) (s : State) : Quiet s (sendNow w s).2 := by
  unfold sendNow; split
  · exact Quiet.refl s
  · refine ((usedOnce_quiet w s).trans (dropOlder_quiet w _)).trans ?_
    dsimp only
    repeat' split
    all_goals first
      | (constructor <;> rfl)
      | exact (Quiet.trans (by constructor <;> rfl) (sendBulk_quiet _ _ _ _))
      | exact (Quiet.trans (by constructor <;> rfl) (sendMsg_quiet _ _ _))

theorem dropHeld_quiet (line : Nat) (s : State) : Quiet s (dropHeld line s) := by
  have h := fun xs => quiet_foldl (fun s (x : PartnerLine) => addValue x.line x.data s) (fun s x => addValue_quiet x.line x.data s) xs s
  unfold dropHeld
  exact (h _).trans (by constructor <;> rfl)

theorem evictHeld_quiet (x : PartnerLine) (s t : State) (h : evictHeld x s = some t) : Quiet s t := by
  unfold evictHeld at h
  split at h
  · cases h; exact dropHeld_quiet _ s
  · split at h
    · rename_i e
      cases h
      have k := sendNow_quiet { die := 4, dst := x.owner, op := 0x03, size := 128, scope := 5, fn := 0, pasid := 0, addr := x.line
                                payload := bytesOfNat 16 x.dirty.toNat ++ bytesOfNat 128 x.data.toNat, waiter := .none } s
      rw [e] at k
      exact k.trans (dropHeld_quiet _ _)
    · cases h

theorem evictAll_quiet (xs : List PartnerLine) : ∀ (o : Option State) (s t : State), (∀ u, o = some u → Quiet s u) →
    xs.foldl (fun (t : Option State) x => t.bind (evictHeld x)) o = some t → Quiet s t := by
  induction xs with
  | nil => exact fun o s t h e => h t e
  | cons x xs ih =>
    intro o s t h e
    refine ih _ s t (fun u hu => ?_) e
    obtain ⟨v, hv, hx⟩ := Option.bind_eq_some_iff.mp hu
    exact (h v hv).trans (evictHeld_quiet x v u hx)

theorem sendReq_quiet (w : Want) (s : State) : Quiet s (sendReq w s).2 := by
  unfold sendReq; split
  · rename_i u e
    exact (evictAll_quiet _ (some s) s u (fun v hv => by cases hv; exact Quiet.refl s) e).trans (sendNow_quiet w u)
  · exact Quiet.refl s

theorem askOwner_quiet (s : State) (d : DieId) (g : Gfn) (r : PkgNo) : Quiet s (askOwner s d g r) := by
  unfold askOwner; split
  · exact Quiet.refl s
  · exact sendReq_quiet _ s

theorem sendCoh_quiet (fn line : Nat) (p : PkgNo) (s : State) : Quiet s (sendCoh fn line p s) := by
  unfold sendCoh; split
  · exact Quiet.refl s
  · exact sendReq_quiet _ s

theorem claimLine_quiet (line : Nat) (w : Bool) (p : Option PkgNo) (s t : State) (h : claimLine line w p s = some t) : Quiet s t := by
  unfold claimLine at h
  split at h
  · cases h
  · dsimp only at h
    repeat' split at h
    all_goals first
      | (cases h; done)
      | (cases h; exact quiet_foldl _ (fun s x => sendCoh_quiet _ _ _ s) _ s)

theorem hostConflict_quiet (line : Nat) (w : Bool) (s : State) : Quiet s (hostConflict line w s) := by
  unfold hostConflict flushHosts
  dsimp only
  split <;> (constructor <;> rfl)

theorem touchMask_quiet (ag : Agent) (kind pa mask : Nat) (s : State) : Quiet s (touchMask ag kind pa mask s) := by
  have h1 : ∀ s, Quiet s (if kind = 0 || !s.mostly.any (fun m => m.line == lineOf pa) then s else addValue (lineOf pa) (BitVec.ofNat 1024 (memRead s.mem (lineOf pa) 128)) s) := by
    intro s; split
    · exact Quiet.refl s
    · exact addValue_quiet _ _ s
  have h2 : ∀ s, Quiet s (if kind = 0 then s else noteText (lineOf pa) s) := by
    intro s; unfold noteText keepText
    repeat' split
    all_goals (constructor <;> rfl)
  have h3 : ∀ s, Quiet s (if ag.cls = 0 then s else hostConflict (lineOf pa) (kind != 0) s) := by
    intro s; split
    · exact Quiet.refl s
    · exact hostConflict_quiet _ _ s
  unfold touchMask wakeLine
  refine ((h1 s).trans (h2 _)).trans ((h3 _).trans ?_)
  dsimp only
  repeat' split
  all_goals (constructor <;> rfl)

theorem reachMask_quiet (ag : Agent) (kind pa mask : Nat) (w : Option PkgNo) (s : State) : Quiet s (reachMask ag kind pa mask w s).2 := by
  unfold reachMask; split
  · exact Quiet.refl s
  · split
    · rename_i t e; exact claimLine_quiet _ _ _ s t e
    · exact touchMask_quiet _ _ _ _ s

theorem sliceWrite_quiet (ag : Agent) (pa n v mask : Nat) (w : Option PkgNo) (s : State) : Quiet s (sliceWrite ag pa n v mask w s).2 := by
  have h := reachMask_quiet ag 1 pa (mask % 2 ^ n * 2 ^ (pa % 128)) w s
  unfold sliceWrite; split
  · rename_i e; rw [e] at h; exact h.trans (by constructor <;> rfl)
  · exact h

theorem sliceRead_quiet (ag : Agent) (pa n : Nat) (s : State) : Quiet s (sliceRead ag pa n s).2 := by
  have h := reachMask_quiet ag 0 pa (spanMask (pa % 128) n) none s
  unfold sliceRead reachSlice; split
  · rename_i e; rw [e] at h; exact h
  · exact h

theorem putNow_quiet (a n v : Nat) (s : State) : Quiet s (putNow a n v s).2 := by
  unfold putNow; split
  · have h := sliceWrite_quiet { cls := 2, pkg := s.fabric.num } a n v (2 ^ n - 1) none s
    split <;> (rename_i e; rw [e] at h; exact h)
  · dsimp only
    split <;> (rename_i e; exact (congrArg Prod.snd e) ▸ sendReq_quiet _ s)
  · exact Quiet.refl s
  · exact askOwner_quiet s _ _ _
  · exact Quiet.refl s

theorem putPiece_quiet (a n v : Nat) (s : State) : Quiet s (putPiece a n v s) := by
  have h := putNow_quiet a n v s
  unfold putPiece keepOwn; split
  · constructor <;> rfl
  · split
    · rename_i e; rw [e] at h; exact h
    · rename_i e; rw [e] at h; exact h.trans (by constructor <;> rfl)

/-- The device's own write of some bytes (R118, R234, R250). -/
theorem putMem_quiet (a n v : Nat) (s : State) : Quiet s (putMem a n v s) := by
  unfold putMem
  exact quiet_foldl _ (fun s x => putPiece_quiet _ _ _ s) _ s

/-- The device's own write of bytes whose contents are free. -/
theorem putFree_quiet (a n : Nat) (s : State) : Quiet s (putFree a n s) := by
  unfold putFree
  exact quiet_foldl _ (fun s x => Quiet.trans (by constructor <;> rfl) (putPiece_quiet _ _ _ _)) _ s

/-- A journal entry (R263). -/
theorem journalEntry_quiet (ty q a b : Nat) (s : State) : Quiet s (journalEntry ty q a b s) := by
  unfold journalEntry
  dsimp only
  split
  · constructor <;> rfl
  · exact (putMem_quiet _ _ _ s).trans (by constructor <;> rfl)

/-- An entry of the event ring (R266, R270). -/
theorem eventRecord_quiet (x : EventRec) (s : State) : Quiet s (eventRecord x s) := by
  unfold eventRecord; split
  · exact Quiet.refl s
  · exact Quiet.trans (by constructor <;> rfl) (putFree_quiet _ _ _)

/-- An error event (R266). -/
theorem errorEvent_quiet (s : State) : Quiet s (errorEvent s) := by
  unfold errorEvent
  exact (Quiet.trans (by constructor <;> rfl) (journalEntry_quiet _ _ _ _ _)).trans (eventRecord_quiet _ _)

end Sys2Proof.Laws
end

