-- ==== Sys2Proof/Tests/Slice0.lean ====
section
/-! SUPPORT. Tests of the model, and for each statement with hypotheses a state and operands that meet them together. -/

namespace Sys2Proof.Tests

set_option Elab.async false

open Sys2Proof Sys2Proof.Machine

/-! ### Small states -/

/-- A cord of one in slot 0 of core 0, at rest, its window of 4 KiB resident. -/
def atRest : State := loadedPackage [] [] (.scalar loadCord 0) State.reset
/-- The same with the supervisor's image loaded. -/
def withImage : State := setCore atRest 0 (fun k => { k with handler := some { base := 0, size := 64, entry := 0 } })
/-- A state with registers of bank 0 written. -/
def putRegs (rs : List (Reg × Word)) (s : State) : State := rs.foldl (fun s x => setReg s x.1 x.2) s
/-- The next state of an instruction. -/
def after (i : Instr) (s : State) : State := stateOf s (exec i s)

/-- What holds of an optional value when it is there. -/
theorem of_some {α : Type} {o : Option α} {p : α → Bool} (h : o.all p = true) : ∀ x, o = some x → p x = true := by
  intro x e
  subst e
  simpa using h

/-- The same for a proposition that can be decided. -/
theorem of_some_prop {α : Type} {o : Option α} {p : α → Prop} [DecidablePred p] (h : o.all (fun x => decide (p x)) = true) : ∀ x, o = some x → p x := by
  intro x e
  subst e
  simpa using h

theorem atRest_quiet : quietCord atRest.cord := ⟨rfl, rfl, rfl, rfl, rfl, rfl, rfl⟩
theorem withImage_quiet : quietCord withImage.cord := ⟨rfl, rfl, rfl, rfl, rfl, rfl, rfl⟩
theorem withImage_room : trapRoom withImage := ⟨rfl, rfl, of_some_prop (by decide +kernel), by decide +kernel⟩
theorem atRest_calm : calm atRest := ⟨rfl, rfl, rfl, rfl, rfl, rfl, rfl⟩
theorem atRest_owns : ownsAt atRest 2097152 := by unfold ownsAt; decide +kernel

/-! ### Witnesses: scalar words -/

theorem wit_ScalarArithmeticFrame_single : scalarDest (.add 3 1 2) = some 3 ∧ ∃ t, exec (.add 3 1 2) atRest = .next t := ⟨rfl, _, rfl⟩
theorem wit_ScalarArithmeticFrame_mask : scalarDest (.li 63 1) = some 63 ∧ ∃ t, exec (.li 63 1) atRest = .next t := ⟨rfl, _, rfl⟩
theorem wit_ScalarArithmeticFrame_pair : (58 : Reg).toNat % 2 = 0 ∧ (∃ t, exec (.dadd 58 2 4) atRest = .next t) ∧ ∃ t, exec (.dsub 58 2 4) atRest = .next t :=
  ⟨rfl, ⟨_, rfl⟩, ⟨_, rfl⟩⟩

/-- Registers for branches: s2 is 0, s3 is -1, s4 is 1, s6 is 4, s8 is 2, s58 is 8. -/
def branchRegs : State := putRegs [(3, -1), (4, 1), (6, 4), (8, 2), (58, 8)] withImage

theorem wit_BranchesComplete_conditions :
    (reg branchRegs 2).toInt = 0 ∧ (reg branchRegs 3).toInt < 0 ∧ 0 < (reg branchRegs 4).toInt ∧ ¬(reg branchRegs 4).toInt ≤ 0 ∧ ¬(0 ≤ (reg branchRegs 3).toInt) ∧
      (reg branchRegs 3).toInt ≠ 0 := by decide +kernel
theorem wit_BranchesComplete_targets : (reg branchRegs 6).toNat % 4 = 0 ∧ (reg branchRegs 58).toNat % 4 = 0 := by decide +kernel

theorem wit_NopDoesNothing_illegal : (0x7C000041#32).extractLsb' 26 6 = 0x1F#6 ∧ (0x7C000041#32).extractLsb' 4 4 = 4#4 ∧ 0x7C000041#32 ≠ 0x7C000040#32 ∧
    quietCord withImage.cord ∧ trapRoom withImage := ⟨by decide, by decide, by decide, withImage_quiet, withImage_room⟩
theorem wit_NopDoesNothing_effect : atRest.cord.frag.after = none := rfl

theorem branchRegs_quiet : quietCord branchRegs.cord := ⟨rfl, rfl, rfl, rfl, rfl, rfl, rfl⟩
theorem branchRegs_room : trapRoom branchRegs := ⟨rfl, rfl, of_some_prop (by decide +kernel), by decide +kernel⟩
theorem wit_MisalignedBranchTargetTraps : quietCord branchRegs.cord ∧ trapRoom branchRegs ∧ (reg branchRegs 8).toNat % 4 ≠ 0 :=
  ⟨branchRegs_quiet, branchRegs_room, by decide +kernel⟩
theorem wit_MisalignedBranchTargetTraps_ret : (reg (setReg branchRegs 58 2) 58).toNat % 4 ≠ 0 ∧ quietCord (setReg branchRegs 58 2).cord ∧ trapRoom (setReg branchRegs 58 2) :=
  ⟨by decide +kernel, ⟨rfl, rfl, rfl, rfl, rfl, rfl, rfl⟩, ⟨rfl, rfl, of_some_prop (by decide +kernel), by decide +kernel⟩⟩

/-- The cord with a user handler declared at 64. -/
def withUser : State := { atRest with cord := { atRest.cord with uhandler := 64 } }
theorem wit_TrapEntersHandler : quietCord withUser.cord ∧ frozen withUser = false ∧ withUser.cord.uhandler ≠ 0 ∧ (DWord.lo withUser.cord.uhandler).toNat % 4 = 0 ∧ DWord.hi withUser.cord.uhandler = 0 :=
  ⟨⟨rfl, rfl, rfl, rfl, rfl, rfl, rfl⟩, rfl, by decide +kernel, by decide +kernel, by decide +kernel⟩
theorem wit_TretReturns : let s := after .trap withUser
    s.cord.mode = .running ∧ s.cord.frags = [] ∧ s.cord.handlerFlag = true ∧ s.cord.handlerLane = false ∧ s.cord.pend = [] ∧ s.cord.trap.resume.toNat % 4 = 0 :=
  by decide +kernel

/-- Predicate 1 set in the lower half of the lanes. -/
def halfPred : State := { withImage with cord := setPred withImage.cord 1 0xFFFFFFFFFFFF }
theorem wit_DivergentBranchSplits_none : halfPred.cord.frag.queue = [] ∧ halfPred.cord.frag.mask &&& (~~~(predOf halfPred.cord 0)) = 0 := by decide +kernel
theorem wit_DivergentBranchSplits_all : let t := halfPred.cord.frag.mask &&& predOf halfPred.cord 0
    halfPred.cord.frag.queue = [] ∧ t ≠ 0 ∧ t = halfPred.cord.frag.mask := by decide +kernel
theorem wit_DivergentBranchSplits_some : let t := halfPred.cord.frag.mask &&& predOf halfPred.cord 1
    halfPred.cord.frag.queue = [] ∧ t ≠ 0 ∧ t ≠ halfPred.cord.frag.mask ∧ entriesUsed halfPred.cord < 8 ∧ scalarPending halfPred.cord halfPred.cord.frag.bank = false := by decide +kernel

/-- An arm that encloses the fragment. -/
def someArm (n : Nat) : Arm := { split := n, side := 0, join := 400, top := false, trans := false }
/-- The cord with n more fragments. -/
def nested (n : Nat) : State :=
  { halfPred with cord := { halfPred.cord with
      frag := { halfPred.cord.frag with arms := [someArm 1] }
      frags := (List.range n).map (fun k => { Fragment.blank with id := k + 1, arms := [someArm 1] }), nextId := 20 } }
theorem wit_DivergentBranchSplits_last : entriesUsed (nested 6).cord = 7 ∧ (nested 6).cord.frag.arms ≠ [] ∧ (nested 6).cord.frag.queue = [] := by decide +kernel
theorem wit_NinthSplitTraps : let s := nested 7; let t := s.cord.frag.mask &&& predOf s.cord 1
    s.cord.mode = .running ∧ s.cord.flights = [] ∧ s.cord.frag.queue = [] ∧ (∀ f ∈ allFrags s.cord, f.faults = []) ∧ s.cord.handlerFlag = false ∧ s.cord.id.handler = false ∧
      (s.cord.frags.all (fun g => g.id != s.cord.frag.id)) = true ∧ t ≠ 0 ∧ t ≠ s.cord.frag.mask ∧
      8 ≤ entriesUsed s.cord := by decide +kernel
theorem wit_NinthSplitTraps_room : trapRoom (nested 7) := ⟨rfl, rfl, of_some_prop (by decide +kernel), by decide +kernel⟩

theorem wit_ExitRemovesLanes_all : anyInBody atRest.cord.frag = false ∧ atRest.cord.handlerFlag = false ∧ atRest.cord.frag.queue = [] ∧
    atRest.cord.frag.owned &&& ~~~atRest.cord.frag.mask = 0 ∧ atRest.cord.frags = [] := by decide +kernel
theorem wit_ExitRemovesLanes_some : let s := setReg atRest 63 0
    anyInBody s.cord.frag = false ∧ s.cord.handlerFlag = false ∧ s.cord.frag.queue = [] ∧ s.cord.frag.owned &&& ~~~s.cord.frag.mask ≠ 0 := by decide +kernel

/-! ### Witnesses: synchronisation and system -/

theorem wit_FencesGoOnOrWait_quiet : anyInBody atRest.cord.frag = false ∧ atRest.cord.frag.queue = [] ∧ pathsZero atRest.cord [0, 1, 2, 3] = true ∧ ownPending atRest = false ∧
    (∀ l ∈ (clusterOf atRest (thisCluster atRest)).lines, lineInReach atRest (thisCluster atRest) 5 l = true → l.dirty = 0) ∧
    (∀ o ∈ atRest.fabric.outstanding, ∀ x, o.waiter ≠ .writeBack x) := by
  refine ⟨by decide +kernel, by decide +kernel, by decide +kernel, by decide +kernel, ?_, ?_⟩
  · intro l h; exact absurd h (by simp [show (clusterOf atRest (thisCluster atRest)).lines = [] from rfl])
  · intro o h; exact absurd h (by simp [show atRest.fabric.outstanding = [] from rfl])
/-- The cord with one path counter at 1. -/
def raised (n : Nat) (s : State) : State := { s with cord := { s.cord with paths := s.cord.paths.setIfInBounds n 1 } }
/-- The cord with a clean line, a line with one dirty byte, and a stack line of another stand's in its cluster. -/
def withLines : State := { atRest with clusters := atRest.clusters.set 0 { Cluster.reset with lines := [{ addr := 0, way := 0, valid := 3, dirty := 0, data := 5, stack := false },
  { addr := 128, way := 0, valid := 3, dirty := 1, data := 7, stack := false }] } }
theorem wit_FencesGoOnOrWait_drops : let s := withLines; let c := thisCluster s
    anyInBody s.cord.frag = false ∧ s.cord.frag.queue = [] ∧ pathsZero s.cord [0, 1, 3] = true ∧ (∃ l ∈ (clusterOf s c).lines, lineInReach s c 2 l = true ∧ l.dirty ≠ 0) ∧
      (∃ l ∈ (clusterOf s c).lines, lineInReach s c 2 l = true ∧ l.dirty = 0) := by decide +kernel
theorem wit_FencesGoOnOrWait_waits : pathsZero (raised 2 atRest).cord [0, 1, 2, 3] = false ∧ pathsZero (raised 2 atRest).cord [0, 1, 3] = true ∧
    pathsZero (raised 3 atRest).cord [0, 1, 3] = false ∧ (raised 2 atRest).cord.frag.queue = [] := by decide +kernel

/-- The number of a scratch address in the cord's own window, as a pair in s2 and s3. -/
def winPair (off : Nat) (s : State) : State := putRegs [(2, BitVec.ofNat 32 off), (3, 0x80000000)] s
theorem wit_BarriersComplete : let s := putRegs [(5, 65535)] (winPair 4088 atRest)
    anyInBody s.cord.frag = false ∧ s.cord.frag.queue = [] ∧ s.cord.flights = [] ∧ pathsZero s.cord [0, 1, 2, 3] = true ∧ ownPending s = false ∧ (1 : Reg).toNat < 2 ∧
      (barrierPlace s (pair s 2)).toOption = some (loadStand, 4088) ∧ runFailed s loadStand 4088 = false ∧ s.bwaits = [] ∧ 0 < (reg s 5).toNat ∧ (reg s 5).toNat < 65536 ∧
      scratchRead (.win loadStand 4088) 8 s / 4294967296 % 2 ≠ (reg s 5).toNat % 2 ∧ scratchRead (.win loadStand 4088) 8 s / 4294967296 % 2 = (reg s 0).toNat % 2 :=
  by decide +kernel
theorem wit_BarriersComplete_window : ∀ st, findStand atRest loadStand = some st → Memory.wf st.window = true := of_some (by decide +kernel)
theorem wit_BarrierCountOutOfRangeTraps : let s := putRegs [(5, 65536)] withImage
    (reg s 0).toNat = 0 ∧ 65536 ≤ (reg s 5).toNat ∧ quietCord s.cord ∧ trapRoom s :=
  ⟨by decide +kernel, by decide +kernel, ⟨rfl, rfl, rfl, rfl, rfl, rfl, rfl⟩, ⟨rfl, rfl, of_some_prop (by decide +kernel), by decide +kernel⟩⟩

/-- A ring of 16 records that holds three. -/
def ringOf3 : Ring := { index := 5, stand := loadStand, pasid := 1, j := 0, kind := 1, c := 0, bank := 15, head := 2, tail := 5, recs := [], ended := false, failed := [] }
/-- That ring in cluster 0. -/
def withRing : State := { putRegs [(5, 3), (6, 4), (7, 0xFFFFFFFF)] atRest with clusters := atRest.clusters.set 0 { Cluster.reset with rings := [ringOf3], bankmode := 0x80000000 } }
theorem wit_WaitsAndLotsComplete_ring : findRing (clusterOf withRing (thisCluster withRing)) withRing.cord.stand 0 = some ringOf3 ∧ (reg withRing 0).toNat ≤ 3 ∧
    min (reg withRing 5).toNat (2 ^ (ringOf3.c + 4)) ≤ (ringOf3.tail - ringOf3.head).toNat ∧ (ringOf3.tail - ringOf3.head).toNat < min (reg withRing 6).toNat (2 ^ (ringOf3.c + 4)) ∧
    (ringOf3.tail - ringOf3.head).toNat < min (reg withRing 7).toNat (2 ^ (ringOf3.c + 4)) := by decide +kernel
theorem wit_WaitsAndLotsComplete_paths : ((raised 2 withRing).cord.paths.getD 0 0).toNat ≤ (reg withRing 0).toNat ∧
    (reg withRing 0).toNat < ((raised 2 withRing).cord.paths.getD (2 : Reg).toNat 0).toNat := by decide +kernel
theorem wit_WaitsAndLotsComplete_lots : anyInBody withRing.cord.frag = false ∧ (withRing.cord.lots + 256 - (reg withRing 0).toNat % 256) % 256 ≤ 127 ∧ withRing.cord.batches = [] :=
  by decide +kernel

theorem wit_SpecialRegistersComplete : atRest.cord.id.handler = false ∧ atRest.cord.handlerFlag = false ∧ (after .trap withUser).cord.handlerFlag = true ∧
    ({ atRest.cord with id := { core := 0, slot := 0, handler := true } } : Cord).id.handler = true := by decide +kernel
theorem wit_PrivilegedWordsTrapOutsideHandler : quietCord withImage.cord ∧ trapRoom withImage ∧ 48 ≤ (48 : Reg).toNat ∧ 30 ≤ (30 : Reg).toNat ∧ (47 : Reg).toNat < 48 :=
  ⟨withImage_quiet, withImage_room, by decide, by decide, by decide⟩
theorem wit_PrivilegedWordsTrapOutsideHandler_ranges : let s := putRegs [(2, 255), (3, 16), (4, 1), (5, 256), (6, 2), (7, 15)] withImage
    (reg s 2).toNat < 256 ∧ regSel 256 (reg s 3) ≠ none ∧ (reg s 4).toNat < 2 ∧ 256 ≤ (reg s 5).toNat ∧ 2 ≤ (reg s 6).toNat ∧ regSel 256 (reg s 7) = none := by decide +kernel

/-- The cord with 8 lane words, s5 a count of 8, s6 of 0, s7 of 4,097. -/
def laneText (q : Nat) : State :=
  let s := putRegs [(5, 8), (7, 4097), (8, 9)] withImage
  { s with cord := { s.cord with lwords := 8, frag := { s.cord.frag with queue := List.replicate q { first := 0, count := 1, done := 0, ord := 0 } } } }
theorem wit_LaneBlocksAreEnqueued_room : let s := laneText 7
    0 < (reg s 5).toNat ∧ (reg s 5).toNat ≤ 4096 ∧ (reg s 0).toNat + (reg s 5).toNat ≤ s.cord.lwords ∧ s.cord.frag.queue.length < 8 := by decide +kernel
theorem wit_LaneBlocksAreEnqueued_full : let s := laneText 8
    0 < (reg s 5).toNat ∧ (reg s 5).toNat ≤ 4096 ∧ (reg s 0).toNat + (reg s 5).toNat ≤ s.cord.lwords ∧ 8 ≤ s.cord.frag.queue.length := by decide +kernel
theorem wit_LaneBlocksAreEnqueued_trap : quietCord (laneText 0).cord ∧ trapRoom (laneText 0) ∧ (reg (laneText 0) 6).toNat = 0 ∧ 4096 < (reg (laneText 0) 7).toNat ∧
    (laneText 0).cord.lwords < (reg (laneText 0) 0).toNat + (reg (laneText 0) 8).toNat :=
  ⟨⟨rfl, rfl, rfl, rfl, rfl, rfl, rfl⟩, ⟨rfl, rfl, of_some_prop (by decide +kernel), by decide +kernel⟩, by decide +kernel, by decide +kernel, by decide +kernel⟩

/-- Cluster 0 with given groves. -/
def withGroves (gs : List Grove) : State := { atRest with clusters := atRest.clusters.set 0 { Cluster.reset with groves := gs } }
/-- A stand other than the cord's. -/
def otherStand (n : Nat) : StandKey := { queue := 2, seq := 1, num := n }
/-- A grove of key 0 with members at some indexes. -/
def groveAt (ks : List Nat) : Grove := { pasid := 1, key := 0, members := ks.map (fun k => (k, otherStand k)), leaving := [] }
/-- A grove whose member 3 is the cord's stand. -/
def myGrove : Grove := { pasid := 1, key := 0, members := [(3, loadStand)], leaving := [] }
theorem wit_GrovesComplete_none : anyInBody atRest.cord.frag = false ∧ (∀ g ∈ (clusterOf atRest 0).groves, g.leaving = []) ∧ groveOf (clusterOf atRest 0) loadStand = none ∧
    (clusterOf atRest 0).groves.find? (fun g => g.key == reg atRest 0 && g.pasid == atRest.cord.pasid) = none := by decide +kernel
theorem wit_GrovesComplete_mine : groveOf (clusterOf (withGroves [myGrove]) 0) loadStand = some (myGrove, 3) ∧ myGrove.key = reg (withGroves [myGrove]) 0 ∧
    myGrove.pasid = (withGroves [myGrove]).cord.pasid ∧ myGrove.key ≠ reg (putRegs [(2, 1)] (withGroves [myGrove])) 2 ∧ leaveWaits (withGroves [myGrove]) loadStand = false ∧
    (∀ g ∈ (clusterOf (withGroves [myGrove]) 0).groves, g.leaving = []) := by decide +kernel
theorem wit_GrovesComplete_full : let s := withGroves [groveAt [0, 1, 2, 3, 4, 5, 6, 7]]
    groveOf (clusterOf s 0) loadStand = none ∧ 8 ≤ (groveAt [0, 1, 2, 3, 4, 5, 6, 7]).members.length ∧
      (clusterOf s 0).groves.find? (fun g => g.key == reg s 0 && g.pasid == s.cord.pasid) = some (groveAt [0, 1, 2, 3, 4, 5, 6, 7]) ∧ (∀ g ∈ (clusterOf s 0).groves, g.leaving = []) :=
  by decide +kernel
theorem wit_GrovesComplete_joins : let g := groveAt [0, 2]; let s := withGroves [g]
    groveOf (clusterOf s 0) loadStand = none ∧ (clusterOf s 0).groves.find? (fun g => g.key == reg s 0 && g.pasid == s.cord.pasid) = some g ∧ g.members.length < 8 ∧ 1 < 8 ∧
      (∀ m ∈ g.members, m.1 ≠ 1) ∧ (∀ j, j < 1 → ∃ m ∈ g.members, m.1 = j) ∧ (∀ g ∈ (clusterOf s 0).groves, g.leaving = []) := by
  refine ⟨by decide +kernel, by decide +kernel, by decide +kernel, by decide, by decide +kernel, ?_, by decide +kernel⟩
  intro j h; exact ⟨(0, otherStand 0), by decide +kernel, by omega⟩

/-! ### Witnesses: scalar memory, transactions, the handler, host transactions -/

theorem ok_of_toOption {ε α : Type} {e : Except ε α} {a : α} (h : e.toOption = some a) : e = .ok a := by
  cases e <;> simp_all [Except.toOption]

theorem ex_of_any {α : Type} {o : Option α} {p : α → Prop} [DecidablePred p] (h : o.any (fun x => decide (p x)) = true) : ∃ x, o = some x ∧ p x := by
  cases o with
  | none => simp at h
  | some x => exact ⟨x, rfl, by simpa using h⟩

theorem wit_ScalarAccessesIssue : anyInBody atRest.cord.frag = false ∧ (reg (putRegs [(5, 0x77F)] atRest) 5).toNat < 2048 ∧ (reg (putRegs [(5, 0x77F)] atRest) 5).getLsbD 7 = false := by
  decide +kernel

theorem wit_StoreStoresItsBytesOnly_stw : let s := winPair 4092 atRest
    quietCord s.cord ∧ steer s s.cord none (pair s 2 + (0 : BitVec 10).signExtend 64 * BitVec.ofNat 64 4) 4 = .ok (.win loadStand 4092) ∧
      (∀ st, findStand s loadStand = some st → Memory.wf st.window = true) :=
  ⟨⟨rfl, rfl, rfl, rfl, rfl, rfl, rfl⟩, ok_of_toOption (by decide +kernel), of_some (by decide +kernel)⟩
theorem wit_StoreStoresItsBytesOnly_std : let s := winPair 4096 atRest
    quietCord s.cord ∧ steer s s.cord none (pair s 2 + (-1 : BitVec 10).signExtend 64 * BitVec.ofNat 64 8) 8 = .ok (.win loadStand 4088) ∧
      (∀ st, findStand s loadStand = some st → Memory.wf st.window = true) :=
  ⟨⟨rfl, rfl, rfl, rfl, rfl, rfl, rfl⟩, ok_of_toOption (by decide +kernel), of_some (by decide +kernel)⟩
theorem wit_LoadsAndAtomicsReturnTheBytes : let s := winPair 0 atRest
    quietCord s.cord ∧ s.cord.live = true ∧ (60 : Reg).toNat ≠ 0 ∧ (60 : Reg).toNat < 61 ∧ (∀ n, n < 6 → s.cord.paths.getD n 0 = 0) ∧ s.cord.pend = [] ∧
      runFailed s loadStand 0 = false ∧ steer s s.cord none (pair s 2 + (0 : BitVec 10).signExtend 64 * 4) 4 = .ok (.win loadStand 0) :=
  ⟨⟨rfl, rfl, rfl, rfl, rfl, rfl, rfl⟩, by decide +kernel, by decide, by decide, by decide +kernel, rfl, by decide +kernel, ok_of_toOption (by decide +kernel)⟩

/-- The cord with the global address 2 MiB in s2 and s3, and a cluster cache with given lines and with or without a bank in CACHE mode. -/
def globalPair (ways : Bool) (ls : List CacheLine) : State :=
  let s := putRegs [(2, 0x200000), (5, 7)] atRest
  { s with mem := [(2097152, 5)], clusters := s.clusters.set 0 { Cluster.reset with lines := ls, bankmode := if ways then 0 else 0x55555555 } }
/-- A copy of the line at 2 MiB with its first byte only. -/
def firstByte : CacheLine := { addr := 2097152, way := 3, valid := 1, dirty := 1, data := 9, stack := false }
theorem wit_StoreStoresItsBytesOnly_global : ∀ x ∈ [(true, []), (true, [firstByte]), (false, [])], let s := globalPair x.1 x.2
    quietCord s.cord ∧ reachesHere s (pair s 2 + (0 : BitVec 10).signExtend 64 * BitVec.ofNat 64 8) 8 2 2097152 ∧ cacheTakes (clusterOf s (thisCluster s)) 2097152 ∧
      Memory.wf s.mem = true ∧ hasWays (clusterOf s (thisCluster s)) = x.1 := by
  intro x h
  simp only [List.mem_cons, List.not_mem_nil, or_false] at h
  rcases h with rfl | rfl | rfl <;>
    exact ⟨⟨rfl, rfl, rfl, rfl, rfl, rfl, rfl⟩, by unfold reachesHere calm ownsAt; decide +kernel, by unfold cacheTakes; decide +kernel, by decide +kernel, by decide +kernel⟩
theorem wit_LoadsAndAtomicsReturnTheBytes_global : ∀ x ∈ [(true, []), (true, [firstByte]), (false, [])], let s := globalPair x.1 x.2
    s.cord.live = true ∧ (∀ n, n < 6 → s.cord.paths.getD n 0 = 0) ∧ s.cord.pend = [] ∧ reachesHere s (pair s 2 + (0 : BitVec 10).signExtend 64 * 4) 4 1 2097152 ∧
      reachesHere s (pair s 2) 4 3 2097152 ∧ cacheTakes (clusterOf s (thisCluster s)) 2097152 ∧ copyBad (clusterOf s (thisCluster s)) 2097152 false = false ∧
      waiting s (.writeBack 2097152) = false := by
  intro x h
  simp only [List.mem_cons, List.not_mem_nil, or_false] at h
  rcases h with rfl | rfl | rfl <;>
    exact ⟨by decide +kernel, by decide +kernel, rfl, by unfold reachesHere calm ownsAt; decide +kernel, by unfold reachesHere calm ownsAt; decide +kernel,
      by unfold cacheTakes; decide +kernel, by decide +kernel, by decide +kernel⟩
/-- What a store leaves: its bytes dirty in the cluster's copy, or in memory. -/
theorem test_store_global : (cacheLine (clusterOf (after (.stw 5 2 0 0) (globalPair true [])) 0) 2097152 false).dirty = 15 ∧
    memRead (after (.stw 5 2 0 0) (globalPair false [])).mem 2097152 8 = 7 := by decide +kernel

theorem wit_TransactionWordsComplete_begin : let s := putRegs [(2, 64), (5, 255)] atRest
    s.cord.frag.tx = TxRec.idle ∧ entriesUsed s.cord ≤ 6 ∧ (reg s 2).toNat % 4 = 0 ∧ (reg s 5).toNat % 256 < s.cord.alloc ∧ txPending s.cord s.cord.frag.id = false ∧
      s.cord.frag.tx.lanes = [] ∧ s.cord.frag.tx.qarm = false ∧ s.cord.frag.tx.lock = false := by decide +kernel
/-- The cord in a body with its lanes 0 and 95. -/
def inBody : State := after (.txb 5 2 15) (putRegs [(2, 64), (61, 1), (62, 0), (63, 0x80000000)] atRest)
theorem wit_TransactionWordsComplete_abort : inBody.cord.frag.tx.lock = false ∧ inBody.cord.frag.tx.lanes.length = 2 ∧
    (∀ x ∈ inBody.cord.frag.tx.lanes, x.lane < 96 ∧ inBody.cord.frag.mask.getLsbD x.lane = true ∧ x.doomed = none) := by decide +kernel
theorem wit_TransactionWordsComplete_none : ∀ x ∈ (setReg (setReg inBody 61 0) 63 0).cord.frag.tx.lanes, (setReg (setReg inBody 61 0) 63 0).cord.frag.mask.getLsbD x.lane = false := by
  decide +kernel

/-- The cord after a TXB with an all-zero mask, which has reserved its two entries. -/
def reservedBody : State := after (.txb 5 2 15) (putRegs [(2, 64), (61, 0), (62, 0), (63, 0)] atRest)
theorem wit_TransactionWordsComplete_reserved : reservedBody.cord.frag.tx.lanes = [] ∧ reservedBody.cord.frag.tx.reserved = true ∧ reservedBody.cord.frags = [] := by decide +kernel
theorem wit_TransactionWordsComplete_status : txPending inBody.cord inBody.cord.frag.id = false ∧ inBody.cord.frag.tx.lanes.length ≤ 96 ∧ inBody.cord.frag.tx.attempt ≤ 15 ∧ inBody.cord.frag.tx.lanes ≠ [] := by decide +kernel

/-- One transactional lane with a read and a write log. -/
def loneLane (v : Word) : LaneTx := { lane := 95, doomed := none, reads := [(4096, v)], writes := [(8192, 0x04030201, 0xF)] }
/-- The cord with that lane in its first attempt of two. -/
def commits (v : Word) : State :=
  { atRest with cord := { atRest.cord with frag := { atRest.cord.frag with tx := { TxRec.idle with restart := 16, target := 64, budget := 2, attempt := 1, lanes := [loneLane v] } } } }
theorem wit_CommitPublishesOrRetries (v : Word) : let s := commits v; let x := loneLane v
    quietCord { s.cord with frag := { s.cord.frag with tx := TxRec.idle } } ∧ s.cord.frag.tx.lanes = [x] ∧ x.doomed = none ∧ x.lane < 96 ∧ s.cord.frag.tx.qarm = false ∧
      s.cord.frag.tx.lock = false ∧ s.cord.frag.queue = [] ∧ s.cord.frag.arms = [] ∧ s.cord.frag.after = none ∧ (∀ n, n < 6 → s.cord.paths.getD n 0 = 0) ∧ ownPending s = false ∧
      s.almanac.lock = .free ∧ s.fabric.directory = [] ∧ s.fabric.moves = [] ∧ (clusterOf s (thisCluster s)).lines = [] ∧ s.fabric.outstanding = [] ∧ s.mgmt.watches = [] ∧
      s.cord.frag.tx.attempt < s.cord.frag.tx.budget :=
  ⟨⟨rfl, rfl, rfl, rfl, rfl, rfl, rfl⟩, rfl, rfl, (by decide : 95 < 96), rfl, rfl, rfl, rfl, rfl, (by decide +kernel : ∀ n, n < 6 → atRest.cord.paths.getD n 0 = 0), rfl, rfl, rfl, rfl,
    (by decide +kernel : (clusterOf atRest (thisCluster atRest)).lines = []), rfl, rfl, (by decide : 1 < 2)⟩
theorem wit_CommitPublishesOrRetries_same : (loneLane 0).reads.all (fun r => memRead (commits 0).mem r.1 4 == r.2.toNat) = true := by decide +kernel
theorem wit_CommitPublishesOrRetries_changed : (loneLane 1).reads.all (fun r => memRead (commits 1).mem r.1 4 == r.2.toNat) = false := by decide +kernel

/-- A cord that a TRAP has stopped, in slot 0 of core 0. -/
def served : Cord :=
  { atRest.cord with mode := .trapped, trap := { TrapRec.zero with cause := 14, resume := 4 } }
/-- The handler of core 0 serving it; s10 holds its selector, s11 a register selector. -/
def handlerRuns (sel : Word) : State :=
  let s : State := { withImage with cord := { atRest.cord with id := { core := 0, slot := 0, handler := true } }, cords := [served] }
  putRegs [(10, 0), (11, sel), (12, 77)] (setCore s 0 (fun k => { k with serving := some loadCord }))
theorem handlerRuns_cords (v : Word) : ∀ x ∈ (handlerRuns v).cords, x.id = served.id → x = served := by
  intro x h _; exact List.mem_singleton.mp h
theorem wit_HandlerReachesStoppedCords_class0 : (∀ k l, (k, l) ∈ [(1, 0), (60, 0)] → let s := handlerRuns (BitVec.ofNat 32 (16 * k))
    s.cord.id.handler = true ∧ (∃ c, selected s (reg s 10) = some c ∧ c.id = loadCord ∧ reachable c = true) ∧
      (reg s 11).toNat = 0 + 16 * k + 4096 * l ∧ 0 < k ∧ k < 61 ∧ l = 0) := by
  intro k l h; simp only [List.mem_cons, Prod.mk.injEq, List.not_mem_nil, or_false] at h
  rcases h with ⟨rfl, rfl⟩ | ⟨rfl, rfl⟩ <;> exact ⟨by decide +kernel, ex_of_any (by decide +kernel), by decide +kernel, by decide, by decide, rfl⟩
theorem wit_HandlerReachesStoppedCords_class2 : let s := handlerRuns (BitVec.ofNat 32 (2 + 16 * 255 + 4096 * 95))
    s.cord.id.handler = true ∧ (∃ c, selected s (reg s 10) = some c ∧ reachable c = true ∧ 255 < c.alloc ∧ c.alloc ≤ 256) ∧ (reg s 11).toNat = 2 + 16 * 255 + 4096 * 95 :=
  ⟨by decide +kernel, ex_of_any (by decide +kernel), by decide +kernel⟩
theorem wit_HandlerReachesStoppedCords_class3 : let s := handlerRuns (BitVec.ofNat 32 (3 + 16 * 7 + 4096 * 2))
    s.cord.id.handler = true ∧ (∃ c, selected s (reg s 10) = some c ∧ reachable c = true) ∧ (reg s 11).toNat = 3 + 16 * 7 + 4096 * 2 :=
  ⟨by decide +kernel, ex_of_any (by decide +kernel), by decide +kernel⟩
theorem wit_HandlerReachesStoppedCords_resume : let s := handlerRuns 0
    reg s 11 = 0 ∧ ∃ c, selected s (reg s 10) = some c ∧ reachable c = true ∧ c.mode = .trapped ∧ c.trap.info.getLsbD 0 = false ∧ c.trap.resume.toNat % 4 = 0 ∧ c.trapReplay = .none ∧
      c.frags = [] ∧ c.frag.faults = [] ∧ c.trapFrag = c.frag.id ∧ (coreOf s (thisCore s)).serving = some c.id :=
  ⟨by decide +kernel, ex_of_any (by decide +kernel)⟩

theorem wit_TrapsReachTheHandler_request : let s := after .trap withImage
    (coreOf s 0).serving = none ∧ (coreOf s 0).reqs = loadCord :: [] ∧ (coreOf s 0).handler = some { base := 0, size := 64, entry := 0 } ∧
      (∃ c, (allCords s).find? (fun x => x.id == loadCord) = some c ∧ c.mode = .trapped) ∧ loadCord.core = 0 ∧ loadCord.handler = false :=
  ⟨by decide +kernel, by decide +kernel, by decide +kernel, ex_of_any (by decide +kernel), rfl, rfl⟩
/-- A lane fault that waits for its delivery. -/
def waitingFault : PendFault :=
  { stream := .lane, pc := 3, code := 7, sub := 0, lanes := 1, addr := 8, x := true, y := false, remote := false, deferred := false, replay := .none, ord := (0, 0) }
theorem wit_TrapsReachTheHandler_delivery : let s := { withImage with cord := { withImage.cord with mode := .draining, frag := { withImage.cord.frag with faults := [waitingFault] } } }
    s.cord.live = true ∧ (partOf s s.cord.id.part).stopped = false ∧ s.cord.mode = .draining ∧ s.cord.flights = [] ∧ s.cord.frags = [] ∧ s.cord.frag.faults = [waitingFault] ∧ s.cord.handlerFlag = false ∧ s.cord.id.handler = false ∧
      waitingFault.deferred = false ∧ waitingFault.replay = .none ∧ waitingFault.code < 64 ∧ userCode waitingFault.code = false ∧ (coreOf s s.cord.id.core).handler.isSome ∧
      (coreOf s s.cord.id.core).reqs.length < 16 := by decide +kernel

/-- Host core 0 changed. -/
def hostIs (f : HostCore → HostCore) : State := { State.reset with hosts := State.reset.hosts.map f }
theorem wit_HostTransactionsComplete_outside : let h := State.reset.hosts[State.reset.hostNo.val]'State.reset.hostNo.isLt
    h.active = false ∧ h.lock = false ∧ State.reset.almanac.lock = .free ∧ State.reset.almanac.waiters = [] := by decide +kernel
theorem wit_HostTransactionsComplete_inside : let s := hostIs (fun h => { h with active := true, writes := [(64, 1)] }); let h := s.hosts[s.hostNo.val]'s.hostNo.isLt
    h.active = true ∧ h.lock = false ∧ (∀ g ∈ s.hosts.toList, g.ticket = none) ∧ s.almanac.lock = .free ∧ s.fabric.directory = [] ∧ s.fabric.moves = [] := by decide +kernel
theorem wit_HostTransactionsComplete_locked : let s := hostIs (fun h => { h with lock := true }); (s.hosts[s.hostNo.val]'s.hostNo.isLt).lock = true := by decide +kernel

/-! ### Witnesses: engines -/

/-- The cord with a window of 128 KiB, and s16 to s24 as an operand block. -/
def bigWindow (rs : List Word) : State :=
  putRegs (rs.zipIdx.map (fun x => (BitVec.ofNat 6 (16 + x.2), x.1))) { withImage with stands := [{ loadedStand with size := 131072, pages := List.replicate 32 0 }] }
theorem bigWindow_wf (rs : List Word) : ∀ st ∈ (bigWindow rs).stands, Memory.wf st.window = true := by
  have h : (bigWindow rs).stands = [{ loadedStand with size := 131072, pages := List.replicate 32 0 }] := by
    unfold bigWindow putRegs
    generalize List.map _ rs.zipIdx = l
    suffices h : ∀ (l : List (Reg × Word)) (s : State), (l.foldl (fun s x => setReg s x.1 x.2) s).stands = s.stands from h l _
    intro l
    induction l with
    | nil => intro s; rfl
    | cons x l ih => intro s; simp only [List.foldl_cons]; rw [ih]; rfl
  intro st m; rw [h] at m; rw [List.mem_singleton.mp m]; rfl

theorem wit_MatrixCommandsAreQueued_product : let s := bigWindow [0, 8192, 0, 0, 0x00200020]
    anyInBody s.cord.frag = false ∧ (15 : BitVec 4).toNat < s.cord.tiles ∧ (partOf s (thisPart s)).mq.length < 16 ∧ pairValid 8 9 = true ∧ lutValid 4 11 = true ∧
      (rowsWin s (blockReg s 16 0) 32 (32 * matWidth 8 / 8)).isSome ∧ (rowsWin s (blockReg s 16 1) 32 (32 * matWidth 9 / 8)).isSome ∧
      (scaleWin s (blockReg s 16 2) 8 32).isSome ∧ (scaleWin s (blockReg s 16 3) 9 32).isSome ∧ (rowsWin s (blockReg s 16 1) 32 (32 * matWidth 11 / 8)).isSome ∧
      (scaleWin s (blockReg s 16 3) 11 32).isSome ∧ (blockReg s 16 4).toNat % 65536 = 32 ∧ (blockReg s 16 4).toNat / 65536 = 32 := by decide +kernel
theorem wit_MatrixCommandsAreQueued_mmax : let s := bigWindow [16, 8192, 0, 0, 0x00800000]
    pairValid 1 1 = true ∧ (1 : BitVec 4).toNat < 8 ∧ (blockReg s 16 0).toNat < 32 ∧ (blockReg s 16 0).toNat % 16 ≠ (15 : BitVec 4).toNat ∧ (blockReg s 16 0).toNat % 16 < s.cord.tiles ∧
      (rowsWin s (blockReg s 16 1) 128 (64 * matWidth 1 / 8)).isSome ∧ (scaleWin s (blockReg s 16 3) 1 64).isSome := by decide +kernel
theorem wit_MatrixCommandsAreQueued_rows : let s := bigWindow [0, 256]
    (blockReg s 16 1).toNat % 16 = 0 ∧ 256 ≤ (blockReg s 16 1).toNat ∧ 64 * matWidth 1 / 8 ≤ (blockReg s 16 1).toNat ∧
      (winRange s (blockReg s 16 0).toNat (63 * (blockReg s 16 1).toNat + 256) 16).isSome ∧
      (winRange s (blockReg s 16 0).toNat (63 * (blockReg s 16 1).toNat + 64 * matWidth 1 / 8) 16).isSome := by decide +kernel

/-- A matrix command of the cord on tile 15 with operands at 0 and 32,768. -/
def matOf (op : MatOp) (running : Bool) : MatCmd :=
  { cord := loadCord, pc := 0, frag := 0, stand := loadStand, op := op, tile := 15, a := { key := loadStand, off := 0, raw := 0 }, b := { key := loadStand, off := 32768, raw := 32768 }
    sa := { key := loadStand, off := 0, raw := 0 }, sb := { key := loadStand, off := 0, raw := 0 }, strideA := 256, strideB := 32, batch := 0, fork := 1, running := running
    snap := [(loadStand, [])] }
/-- The package with that command at the head of partition 0. -/
def withMat (op : MatOp) (running : Bool) : State := setPart (bigWindow []) 0 (fun p => { p with mq := [matOf op running] })
theorem wit_MatrixCommandsAreQueued_full : let s := setPart (bigWindow []) 0 (fun p => { p with mq := List.replicate 16 (matOf .mmz false) })
    16 ≤ (partOf s (thisPart s)).mq.length ∧ anyInBody s.cord.frag = false := by decide +kernel

theorem wit_MatrixCommandsTakeEffect_start : let s := withMat .mmld false
    (partOf s 0).mq = [matOf .mmld false] ∧ s.cord.live = true ∧ s.cord.id = (matOf .mmld false).cord ∧ s.cord.stand = (matOf .mmld false).stand ∧ s.cord.flights = [] ∧ ownPending s = false := by decide +kernel
theorem wit_MatrixCommandsTakeEffect_end (op : MatOp) : let s := withMat op true; let m := matOf op true
    m.running = true ∧ (matOf .mmz true).cord.part = 0 ∧ m.cord = (matOf .mmz true).cord ∧ m.tile < 16 ∧ 256 ≤ m.strideA ∧ (partOf (withMat .mmz true) 0).dead = [] ∧ (∀ c : ClusterId, (clusterOf (withMat .mmz true) c).failed = []) ∧
      winReach (withMat .mmz true) 0 loadStand loadStand = true ∧ m.stand = loadStand ∧ m.a.key = loadStand ∧ m.b.key = loadStand ∧ m.snap.find? (fun x => x.1 == loadStand) = some (loadStand, []) ∧
      (∀ st, findStand (withMat .mmz true) loadStand = some st → Memory.wf st.window = true ∧ st.window = []) ∧ s.cord = (withMat .mmz true).cord :=
  ⟨rfl, by decide +kernel, rfl, (by decide : 15 < 16), (by decide : 256 ≤ 256), by decide +kernel, by decide +kernel, by decide +kernel, rfl, rfl, rfl, by rfl, of_some_prop (by decide +kernel), rfl⟩
theorem wit_MatrixCommandsTakeEffect_ops : MatOp.mma 8 8 32 ≠ .mmz ∧ (∃ k, MatOp.mma 8 8 32 = .mma 8 8 k) ∧ ∃ r sc, MatOp.mmst 0 true 5 = .mmst 0 r sc := ⟨by decide, ⟨_, rfl⟩, ⟨_, _, rfl⟩⟩

theorem wit_CopiesAndLandingMapsComplete_map : let s := bigWindow [131008, 3, 0]
    anyInBody s.cord.frag = false ∧ (mapWord s 16 7).isSome ∧ s.cord.frag.queue = [] ∧ s.cord.flights = [] ∧ pathsZero s.cord [0, 1, 3] = true ∧
      BitVec.ofNat 64 (scratchRead (.win loadStand 131064) 8 s) &&& blockPair s 16 1 ≠ blockPair s 16 1 := by decide +kernel
theorem wit_CopiesAndLandingMapsComplete_none : (mapWord (bigWindow [131008, 0, 0]) 16 7).isSome ∧ blockPair (bigWindow [131008, 0, 0]) 16 1 = 0 := by decide +kernel
theorem wit_CopiesAndLandingMapsComplete_set : let s := bigWindow [131008, 0, 0]
    (mapWord s 16 7).isSome ∧ BitVec.ofNat 64 (scratchRead (.win loadStand 131064) 8 s) &&& blockPair s 16 1 = blockPair s 16 1 := by decide +kernel
/-- A copy descriptor at 0: destination 4,096 of the window, map at 64, EXPECT 1, flags 0. -/
def withDesc (expect : Nat) : State :=
  scratchWrite (.win loadStand 0) 32 (2 ^ 63 + 4096 + 2 ^ 64 * 64 + 2 ^ 96 * expect) (bigWindow [0, 8192, 0x80000000, 16, 32])
theorem wit_CopiesAndLandingMapsComplete_cpy : ∀ n ∈ [1, 1024], let s := withDesc n
    anyInBody s.cord.frag = false ∧ (copyCheck s 16).isSome ∧ s.cord.flights = [] ∧ ((clusterOf s (thisCluster s)).copies.filter (fun c => !c.started)).length < 32 ∧
      (openCopy (clusterOf s (thisCluster s)) { key := loadStand, off := 0, raw := 0 }).isNone ∧
      (openCopy (clusterOf (after (.cpy 16 1 0) s) (thisCluster s)) { key := loadStand, off := 0, raw := 0 }).isSome = decide (1 < n) := by decide +kernel
theorem wit_CopiesAndLandingMapsComplete_window : ∀ st, findStand (withDesc 1) loadStand = some st → Memory.wf st.window = true := of_some (by decide +kernel)

/-- A started copy of one slice of 16 bytes inside the window. -/
def copyOf (step : Nat) (barrier : Option WinPos) : Copy :=
  { id := 7, desc := { key := loadStand, off := 0, raw := 0 }, opener := loadStand, dest := 0x8000000000001000, win := some { key := loadStand, off := 4096, raw := 4096 }
    map := { key := loadStand, off := 64, raw := 64 }, barrier := barrier, expect := 1, arvn := 1, scope := 1
    slices := [{ src := 0x8000000000002000, win := some { key := loadStand, off := 8192, raw := 8192 }, off := 0, count := 16, cord := loadCord, stand := loadStand, pasid := 1, scope := 1, fork := 1 }]
    started := true, landed := 0, chunk := none, step := step, fail := none }
/-- That copy in cluster 0. -/
def withCopy (step : Nat) (barrier : Option WinPos) : State :=
  scratchWrite (.win loadStand 8192) 16 0x0102030405060708 (setCluster (bigWindow []) 0 (fun c => { c with copies := [copyOf step barrier] }))
theorem wit_CopyLandsItsBytes : ∀ x ∈ [copyOf 0 none, copyOf 1 none, copyOf 2 (some { key := loadStand, off := 128, raw := 128 })], let s := withCopy x.step x.barrier
    x.started = true ∧ (clusterOf s 0).copies.find? (fun y => y.id == x.id && y.started) = some x ∧ x.fail = none ∧ (∀ k : ClusterId, (clusterOf s k).failed = []) ∧
      (∀ st ∈ s.stands, Memory.wf st.window = true) ∧ x.chunk = none ∧ x.landed = 0 ∧ (∀ d ∈ allCords s, d.flights = []) ∧ (∀ k : CoreId, (coreOf s k).log = []) ∧ copyStand s x = loadStand ∧ winReach s 0 loadStand loadStand = true ∧ 4096 + 16 ≠ 64 ∧
      64 + 64 ≤ 4096 := by decide +kernel

/-- The operands of a gather: a list of 4 indexes at 0, a table in memory, data at 4,096, map at 64, status at 128. -/
def gatherRegs : State := bigWindow [0, 0x80000000, 4, 2097152, 0, 4, 4096, 64, 128]
/-- Those of a scatter: the status word is the eighth. -/
def scatterRegs : State := bigWindow [0, 0x80000000, 4, 2097152, 0, 4, 4096, 128]
theorem wit_GathersAndReductionsAreAccepted : anyInBody gatherRegs.cord.frag = false ∧ (dieOf gatherRegs (thisDie gatherRegs)).gathers.length < 64 ∧ gatherRegs.cord.flights = [] ∧
    (buildGather false (1 == (1 : BitVec 1)) 0 2 16 gatherRegs).isSome ∧ (buildGather true (0 == (1 : BitVec 1)) 2 5 16 scatterRegs).isSome := by decide +kernel
theorem wit_GathersAndReductionsAreAccepted_zero : let s := bigWindow []
    quietCord s.cord ∧ trapRoom s ∧ blockReg s 16 2 = 0 :=
  ⟨⟨rfl, rfl, rfl, rfl, rfl, rfl, rfl⟩, ⟨rfl, rfl, of_some_prop (by decide +kernel), by decide +kernel⟩, by decide +kernel⟩
/-- A gather at a position of its list of 2. -/
def gatherOf (scatter : Bool) (next : Nat) : GatherCmd :=
  { id := 7, cord := loadCord, stand := loadStand, pasid := 1, scatter := scatter, idx64 := false, combine := 0, scope := 1, list := 0x8000000000000000
    listWin := some { key := loadStand, off := 0, raw := 0 }, count := 2, table := 0x200000, size := 4, data := { key := otherStand 0, off := 0, raw := 0 }
    map := { key := loadStand, off := 64, raw := 64 }, status := { key := loadStand, off := 128, raw := 128 }, fork := 1, next := next, first := none }
theorem wit_GathersAndReductionsAreAccepted_full : let s := setDie (bigWindow []) 0 (fun d => { d with gathers := List.replicate 64 (gatherOf false 0) })
    64 ≤ (dieOf s (thisDie s)).gathers.length := by decide +kernel
theorem wit_GathersAndReductionsAreAccepted_slot : let s := bigWindow [0xFFFFFFC0, 0xFFFFFF]
    (blockPair s 16 0).toNat % 64 = 0 ∧ globalRange (blockPair s 16 0) 64 = true ∧ unitFull s (blockPair s 16 0).toNat = false := by decide +kernel
/-- A slot at 2 MiB whose unit has a full queue. -/
def fullUnit : State :=
  setDie { bigWindow [0x200000, 0] with dies := State.reset.dies.set 0 { Die.reset with ats := [loadEntry] } } 0 (fun d => { d with rdx := List.replicate 64 { launch := none, tree := false, slot := 4096, index := 0, value := 1, scope := 2, reply := none } })
theorem wit_GathersAndReductionsAreAccepted_unit : (blockPair fullUnit 16 0).toNat % 64 = 0 ∧ globalRange (blockPair fullUnit 16 0) 64 = true ∧ anyInBody fullUnit.cord.frag = false ∧
    unitFull fullUnit (blockPair fullUnit 16 0).toNat = true := by decide +kernel

/-- The die with that command, its data in the window of another stand of its grove. -/
def withGather (scatter : Bool) (next : Nat) : State :=
  let s := bigWindow []
  let s := { s with stands := s.stands ++ [{ loadedStand with key := otherStand 0, window := [(0, 9)] }]
                    clusters := s.clusters.set 0 { Cluster.reset with groves := [{ pasid := 1, key := 0, members := [(0, otherStand 0), (1, loadStand)], leaving := [] }]
                                                                      lines := [{ addr := 2097152, way := 0, valid := ~~~0, dirty := 0, data := 5, stack := false }] }
                    mem := [(2097152, 5)], dies := s.dies.set 0 { Die.reset with ats := [loadEntry] } }
  setDie s 0 (fun d => { d with gathers := [gatherOf scatter next] })
theorem wit_GatherAndReductionUnits_run : ∀ b ∈ [false, true], ∀ n ∈ [0, 2], let s := withGather b n; let g := gatherOf b n
    (dieOf s 0).gathers.find? (fun x => x.id == g.id && x.scatter == g.scatter) = some g ∧ (∀ x ∈ (dieOf s 0).gathers, x.id = g.id → x = g) ∧ g.scope < 2 ∧
      (∀ c ∈ allCords s, c.flights = []) ∧ (∀ k : CoreId, (coreOf s k).log = []) ∧ (∀ k : ClusterId, (clusterOf s k).failed = []) ∧ (∀ st ∈ s.stands, Memory.wf st.window = true) ∧
      winReach s g.cord.core.cluster g.stand g.status.key = true ∧ winReach s g.cord.core.cluster g.stand g.data.key = true ∧ globalRange (g.table + 0) g.size = true ∧
      g.map.key ≠ g.data.key := by decide +kernel
/-- A read that the cluster cache answers leaves the state as it is. -/
theorem engRead_cached (e : Eng) (a : DWord) (n : Nat) (x : TlbEntry) (s : State) (hp : linePieces (n + 1) a.toNat 0 n = [(0, n)])
    (ht : tlbFind (dieOf s (engDie e)).ats e.pasid a.toNat 1 = some x) (hs : e.scope ≤ 1)
    (hb : (clusterOf s e.cluster).lines.any (fun l => l.addr == lineOf (tlbPhys x a.toNat) && l.stack == false && !liveWay (clusterOf s e.cluster) l.way.toNat) = false)
    (hg : copyBad (clusterOf s e.cluster) (lineOf (tlbPhys x a.toNat)) false = false)
    (hl : lineHolds (cacheLine (clusterOf s e.cluster) (lineOf (tlbPhys x a.toNat)) false) (tlbPhys x a.toNat % 128) n = true) :
    engRead e a n s = (.ok (lineBytes (cacheLine (clusterOf s e.cluster) (lineOf (tlbPhys x a.toNat)) false) (tlbPhys x a.toNat % 128) n), s) := by
  have hn : ¬ 2 ≤ e.scope := by omega
  unfold engRead
  rw [hp]
  have hk' : leaveFor e.replay e.cluster (lineOf (tlbPhys x a.toNat)) false s = (some s, s) := by
    unfold leaveFor; rw [if_neg (by rw [hb]; decide)]
  simp only [readPieces, engGlobal, engTranslate, Nat.add_zero, ht, engReadPhys, engCache, if_neg hn, hk', hg, hl]
  simp [hs]
theorem wit_GatherAndReductionUnits_read : ∃ v, v < 2 ^ (8 * 4) ∧ engRead (gatherEng (gatherOf false 0)) 0x200000 4 (withGather false 0) = (.ok v, withGather false 0) :=
  ⟨_, by decide +kernel, engRead_cached _ _ _ loadEntry _ (by decide +kernel) (by decide +kernel) (by decide) (by decide +kernel) (by decide +kernel) (by decide +kernel)⟩
/-- A scatter at its first element, at 2 MiB; cluster 0 holds the line, or has no bank in CACHE mode. -/
def withScatter (ways : Bool) : State :=
  let s := withGather true 0
  if ways then s else setCluster s 0 (fun c => { c with bankmode := 0x55555555, lines := [] })
theorem wit_GatherAndReductionUnits_write : ∀ b ∈ [true, false], let s := withScatter b; let g := gatherOf true 0
    g.scatter = true ∧ g.combine = 0 ∧ 0 < g.size ∧ tlbFind (dieOf s g.cord.core.cluster.die).ats g.pasid 0x200000 2 = some loadEntry ∧ tlbPhys loadEntry 0x200000 = 0x200000 ∧
      s.englines = [] ∧ Memory.wf s.mem = true ∧ cacheTakes (clusterOf s 0) 0x200000 ∧ hasWays (clusterOf s 0) = b ∧ calm s ∧ ownsAt s 0x200000 := by
  intro b h
  simp only [List.mem_cons, List.not_mem_nil, or_false] at h
  rcases h with rfl | rfl <;> exact ⟨rfl, rfl, by decide, by decide +kernel, by decide +kernel, rfl, by decide +kernel, by unfold cacheTakes; decide +kernel, by decide +kernel,
    by unfold calm; decide +kernel, by unfold ownsAt; decide +kernel⟩
/-- A slot of kind i32 with EXPECT 2, one contribution arrived, and another waiting. -/
def withSlot : State :=
  let s := { bigWindow [] with mem := [(4096, 2), (4100, 2), (4112, 1), (4120, 0xFF), (4121, 0xFF), (4122, 0xFF), (4123, 0xFF)], latches := [{ slot := 4096, kind := 2, expect := 2, leaves := 0 }] }
  setDie s 0 (fun d => { d with rdx := [{ launch := none, tree := false, slot := 4096, index := 0, value := 1, scope := 2, reply := none }] })
theorem wit_GatherAndReductionUnits_slot : Memory.wf withSlot.mem = true ∧ withSlot.fabric.directory = [] ∧ withSlot.fabric.moves = [] ∧ withSlot.failed = [] ∧ withSlot.leaves = [] ∧
    withSlot.latches.find? (fun l => l.slot == 4096) = some { slot := 4096, kind := 2, expect := 2, leaves := 0 } ∧ memRead withSlot.mem (4096 + 20) 4 < 2 ^ 31 ∧
    0 < memRead withSlot.mem (4096 + 16) 4 ∧ memRead withSlot.mem (4096 + 16) 4 < 65536 ∧ (dieOf withSlot 0).rdx.length = 1 := by decide +kernel

/-- A grid descriptor: box lengths 4, cut-off 1, one cell, one particle, with an EPOCH and a STATE. -/
def gridNat (epoch st : Nat) : Nat :=
  0x40800000 * (1 + 2 ^ 32 + 2 ^ 64) + 2 ^ 96 * 0x3F800000 + 2 ^ 160 + 2 ^ 176 + 2 ^ 192 + 2 ^ 224 + 2 ^ 512 * epoch + 2 ^ 544 * st
/-- That descriptor as a line. -/
def gridData : BitVec 1024 := BitVec.ofNat 1024 (gridNat 4 2)
/-- The operands of a neighbour-engine command: a descriptor at 2 MiB, status at 64; particles 0 to 1; the ring of kind 2. -/
def nbRegs (ring : Word) : State :=
  let s := bigWindow [2097152, 0, 64, 0, 0, 1, 0]
  let r := { ringOf3 with kind := 2, tail := 2 }
  putRegs [(20, ring), (22, 0x0000A000)] { s with clusters := s.clusters.set 0 { Cluster.reset with rings := [r], lines := [{ addr := 2097152, way := 0, valid := ~~~0, dirty := 0, data := gridData, stack := false }] }, dies := s.dies.set 0 { Die.reset with ats := [loadEntry] } }
theorem wit_NeighbourCommandsAreQueued : let s := nbRegs 0
    anyInBody s.cord.frag = false ∧ (quadOf s (thisCluster s).quad).length < 16 ∧ s.cord.flights = [] ∧ (nbBuild s .bin 2 false 128 16).isSome ∧ (nbBuild s .chk 5 false 128 16).isSome ∧
      (buildPair false 2 false 16 s).isSome ∧ (buildPair true 2 true 16 s).isSome ∧ (buildCbin false 2 false 16 s).isSome ∧ (buildCbin true 2 true 16 s).isSome ∧ (1 : BitVec 3).toNat < 2 ∧
      s.cord.live = true ∧ (blockPair s 16 0).toNat % 128 = 0 ∧ globalRange (blockPair s 16 0) 128 = true ∧ ownPending s = false ∧
      pagePending s (thisCore s) s.cord.pasid ((blockPair s 16 0).toNat % 2 ^ 57 / 4096) = false := by decide +kernel
theorem wit_NeighbourCommandsAreQueued_cfg : ∃ v, gridOk (gridOf v) = true ∧
    engRead { id := acceptId (nbRegs 0), cluster := thisCluster (nbRegs 0), pasid := (nbRegs 0).cord.pasid, scope := 1, stand := loadStand } 0x200000 128 (nbRegs 0) = (.ok v, nbRegs 0) :=
  ⟨_, by decide +kernel, engRead_cached _ _ _ loadEntry _ (by decide +kernel) (by decide +kernel) (by decide) (by decide +kernel) (by decide +kernel) (by decide +kernel)⟩
theorem wit_NeighbourCommandsAreQueued_cfg_accepted : (nbBuild (nbRegs 0) .cfg 1 false 128 16).isSome ∧ blockPair (nbRegs 0) 16 0 = 0x200000 := by decide +kernel

/-! ### Witnesses: neighbour-engine steps -/

/-- A command of quadrant 0's engine, its descriptor at 2 MiB, status at 64; it started on a grid of one particle. -/
def nbOf (op : NbOp) (phase : Nat) : NbCmd :=
  { id := 7, op := op, cord := loadCord, stand := loadStand, pasid := 1, scope := 1, desc := 0x200000, status := { key := loadStand, off := 64, raw := 64 }, barrier := none
    fork := 1, phase := phase, desc0 := gridData, epoch := 4, next := 1, pairs := 3, skipped := 0, firstSkip := 0, parts := [], far := .num false 0 0, classes := [some 0], recs := [], stop := none }
/-- n bytes of a number at an address. -/
def bytesAt (a n v : Nat) : Memory := (List.range n).filterMap (fun i => let b := v / 256 ^ i % 256; if b = 0 then none else some (a + i, BitVec.ofNat 8 b))
/-- The quadrant with a command at its head and the line at 2 MiB in memory; cluster 0 has no CACHE bank, and the line's bank was reached before. -/
def withNb (c : NbCmd) (data : Nat) : State :=
  let s := bigWindow []
  { s with clusters := s.clusters.set 0 { Cluster.reset with bankmode := 0x55555555, rings := [{ ringOf3 with kind := 2 }] }
           mem := bytesAt 2097152 128 data, mgmt := { s.mgmt with touched := [(2097152, 0)] }
           dies := s.dies.set 0 { Die.reset with ats := [loadEntry] }, quads := s.quads.set 0 [c] }

/-- What a read of the line at 2 MiB by an engine of cluster 0 leaves as it is. -/
structure StillReads (s : State) : Prop where
  hosts : s.hosts = State.reset.hosts
  lines : (clusterOf s 0).lines = []
  dir : s.fabric.directory = []
  moves : s.fabric.moves = []
  failed : s.failed = []
  mostly : s.mostly = []
  watches : s.mgmt.watches = []
  drowsy : s.mgmt.drowsy = []
  touched : s.mgmt.touched = [(0x200000, sliceClockAt s 0x200000)]

theorem hostConflict_still (line : Nat) (s : State) (h : s.hosts = State.reset.hosts) : hostConflict line false s = s := by
  have e : ∀ f : HostCore → HostCore, f HostCore.reset = HostCore.reset → State.reset.hosts.map f = State.reset.hosts := by
    intro f hf; simp [State.reset, hf]
  have m : mapHosts (fun h => if h.active && (sigHit s h.wlines line || (false && sigHit s h.reads line)) then abortedHost 1 0 h else h) s = s := by
    unfold mapHosts; rw [h, e _ rfl, ← h]
  unfold hostConflict
  rw [m]
  unfold flushHosts
  rw [if_pos (by rw [h]; decide +kernel)]

theorem sliceRead_still (e : Eng) (n : Nat) (s : State) (h : StillReads s) (_hr : e.replay = false) : sliceRead (engAgent e s) 0x200000 n s = (.done (memRead s.mem 0x200000 n), s) := by
  have hw : wakeLine 0x200000 s = s := by
    have ht := h.touched
    have hd := h.drowsy
    unfold wakeLine
    generalize sliceClockAt s 0x200000 = k at ht ⊢
    cases bankAt s 0x200000 with
    | none => rfl
    | some b =>
      obtain ⟨m, e⟩ : ∃ m, m = s.mgmt := ⟨_, rfl⟩
      simp only [← e] at ht hd ⊢
      rw [hd, ht]
      have : ({ m with drowsy := [], touched := [(0x200000, k)] } : Mgmt) = m := by rw [← hd, ← ht]
      simpa [lineOf] using by rw [this, e]
  have ht : touchSlice (engAgent e s) 0 0x200000 n s = s := by
    unfold touchSlice touchMask
    simp [hostConflict_still _ _ h.hosts, h.watches, hw]
  unfold sliceRead reachSlice reachMask
  unfold touchSlice at ht
  have hm : movingNow s (gfnOf 0x200000) = false := by unfold movingNow; rw [h.moves]; rfl
  rw [hm]
  simp [claimLine, h.dir, h.failed, ht]

/-- What such a read gives. -/
def stillValue (s : State) (o n : Nat) : Nat := lineBytes (fillLine (emptyLine 0x200000 false) (BitVec.ofNat 1024 (memRead s.mem 0x200000 128))) o n

/-- An engine's read of bytes of that line from memory leaves the state as it is. -/
theorem engRead_still (e : Eng) (a : DWord) (n : Nat) (s : State) (h : StillReads s) (hp : linePieces (n + 1) a.toNat 0 n = [(0, n)])
    (ht : tlbFind (dieOf s (engDie e)).ats e.pasid a.toNat 1 = some loadEntry) (hs : e.scope ≤ 1) (hc : e.cluster = 0) (hy : e.replay = false) (hl : lineOf (tlbPhys loadEntry a.toNat) = 0x200000)
    (hh : lineHolds (emptyLine 0x200000 false) (tlbPhys loadEntry a.toNat % 128) n = false) (ho : resolve s (engDie e) (gfnOf (tlbPhys loadEntry a.toNat)) = .here 0 1) :
    engRead e a n s = (.ok (stillValue s (tlbPhys loadEntry a.toNat % 128) n), s) := by
  have hb : leaveFor e.replay 0 0x200000 false s = (some s, s) := by unfold leaveFor; rw [h.lines]; rfl
  have hm : ∀ g, movingNow s g = false := by intro g; unfold movingNow; rw [h.moves]; rfl
  have hr : routeFor e.replay s (engDie e) (gfnOf (tlbPhys loadEntry a.toNat)) = .here 0 1 := by
    have hq : routeOf s (engDie e) (gfnOf (tlbPhys loadEntry a.toNat)) = .here 0 1 := by unfold routeOf; rw [ho]; simp [hm]
    unfold routeFor
    split
    · have hf : finishing s (gfnOf (tlbPhys loadEntry a.toNat)) = false := by unfold finishing; rw [h.moves]; rfl
      rw [hf, Bool.and_false]; simpa using hq
    · exact hq
  have hn : ¬ 2 ≤ e.scope := by omega
  have hg : copyBad (clusterOf s 0) 0x200000 false = false := by unfold copyBad; rw [h.lines]; rfl
  have hk : cacheLine (clusterOf s 0) 0x200000 false = emptyLine 0x200000 false := by unfold cacheLine; rw [h.lines]; rfl
  unfold engRead
  rw [hp]
  simp only [readPieces, engGlobal, engTranslate, Nat.add_zero, ht, engReadPhys, engCache, hc, hl, hb, if_neg hn, hg, hk, hh]
  rw [hr]
  simp [hs, gotOf, sliceRead_still e 128 s h hy, stillValue]

theorem withNb_still (c : NbCmd) (data : Nat) : StillReads (withNb c data) :=
  ⟨rfl, by simp [clusterOf, withNb, Cluster.reset], rfl, rfl, rfl, rfl, rfl, rfl, congrArg (fun k => [(0x200000, k)]) (show (0 : DWord) = sliceClockAt (withNb (nbOf .st 0) 0) 0x200000 by decide +kernel)⟩

/-- Whether a command's read of n bytes lies in that line. -/
def nbInLine (c : NbCmd) (a : DWord) (n : Nat) : Bool :=
  let s := withNb c 0
  let e := nbEng c
  globalRange a n && decide (linePieces (n + 1) a.toNat 0 n = [(0, n)]) && decide (tlbFind (dieOf s (engDie e)).ats e.pasid a.toNat 1 = some loadEntry) && decide (e.scope ≤ 1) &&
    decide (e.cluster = 0) && decide (lineOf (tlbPhys loadEntry a.toNat) = 0x200000) && !lineHolds (emptyLine 0x200000 false) (tlbPhys loadEntry a.toNat % 128) n &&
    decide (resolve s (engDie e) (gfnOf (tlbPhys loadEntry a.toNat)) = .here 0 1)
/-- Its value. -/
def nbValue (data : Nat) (a : DWord) (n : Nat) : Nat := stillValue (withNb (nbOf .st 0) data) (tlbPhys loadEntry a.toNat % 128) n
theorem nb_read (c : NbCmd) (data : Nat) (a : DWord) (n : Nat) (h : nbInLine c a n = true) : nbRead c a n (withNb c data) = (.ok (nbValue data a n), withNb c data) := by
  simp only [nbInLine, Bool.and_eq_true, decide_eq_true_eq, Bool.not_eq_true'] at h
  obtain ⟨⟨⟨⟨⟨⟨⟨h1, h2⟩, h3⟩, h4⟩, h5⟩, h6⟩, h7⟩, h8⟩ := h
  unfold nbRead
  rw [if_pos h1]
  exact engRead_still (nbEng c) a n _ (withNb_still c data) h2 h3 h4 h5 rfl h6 h7 h8

theorem forkMay_narrow (c : CordId) (k : StandKey) (fork scope : Nat) (s : State) (h : scope < 2)
    (ho : ((allCords s).find? (fun x => x.id == c && x.stand == k)).all (fun x => olderDone x fork) = true) (hl : loggedBefore s c k fork = false) :
    forkMay c k fork scope s = (some s, s) := by
  have hn : (if Config.pick (2 ^ 64 + fork) % 2 = 0 then scope else 0) < 2 := by split <;> omega
  unfold forkMay
  generalize (if Config.pick (2 ^ 64 + fork) % 2 = 0 then scope else 0) = n at hn
  unfold forkReady
  split <;> simp_all

/-- The rings of a command. -/
def nbRings (op : NbOp) : List (ClusterId × BitVec 6) := match op with
  | .pair _ _ _ r => [r]
  | .cbin _ r => r.toList
  | _ => []
/-- The part of the shared hypotheses that is decided. -/
def nbPlain (c : NbCmd) (data : Nat) : Bool :=
  let s := withNb c data
  decide (quadOf s 0 = [c]) && ((allCords s).find? (fun x => x.id == c.cord && x.stand == c.stand)).all (fun x => olderDone x c.fork) && !loggedBefore s c.cord c.stand c.fork &&
    (nbRings c.op).all (fun r => (ringAt (clusterOf s r.1) r.2).any (fun k => !k.ended)) && decide (∀ st ∈ s.stands, Memory.wf st.window = true) &&
    winReach s c.cord.core.cluster c.stand c.status.key && decide (c.scope < 2) && decide (c.barrier = none)
/-- The hypotheses of NeighbourStepsTakeEffect that every clause shares, met at once. -/
theorem nb_hyps (c : NbCmd) (data : Nat) (h : nbPlain c data = true) : let s := withNb c data
    quadOf s 0 = c :: [] ∧ (∀ x ∈ ([] : List NbCmd), x.id ≠ c.id) ∧ c.barrier = none ∧ forkMay c.cord c.stand c.fork c.scope s = (some s, s) ∧
      (∀ ring, ring ∈ nbRings c.op → ∃ k, ringAt (clusterOf s ring.1) ring.2 = some k ∧ k.ended = false) ∧
      (∀ st ∈ s.stands, Memory.wf st.window = true) ∧ winReach s c.cord.core.cluster c.stand c.status.key = true := by
  simp only [nbPlain, Bool.and_eq_true, decide_eq_true_eq, List.all_eq_true, Bool.not_eq_true'] at h
  obtain ⟨⟨⟨⟨⟨⟨⟨h1, h2⟩, h3⟩, h4⟩, h5⟩, h6⟩, h7⟩, h8⟩ := h
  refine ⟨h1, by simp, h8, forkMay_narrow _ _ _ _ _ h7 h2 h3, ?_, h5, h6⟩
  intro r hr
  have := h4 r hr
  revert this
  cases ringAt (clusterOf (withNb c data) r.1) r.2 <;> simp

/-- Whether the writes of a step, made for the command as it has become, are granted and leave stands and clusters as they were. -/
def nbDone (c n : NbCmd) (data : Nat) (ws : List (Nat × Nat × Nat)) : Bool :=
  let s := withNb c data
  let r := nbWrites n (ws.map (fun w => (n.desc + BitVec.ofNat 64 w.1, w.2.1, w.2.2))) (setQuad s 0 (fun cs => modifyWhere (fun x => x.id == c.id) (fun _ => n) cs))
  decide (r.1 = .ok 0) && decide (r.2.stands = s.stands) && decide (r.2.clusters = s.clusters) && decide (quadOf r.2 0 = [n])
/-- The ring's name. -/
def nbRingName : ClusterId × BitVec 6 := (0, 5)

theorem wit_NeighbourSteps_lines : ∀ c ∈ [nbOf .cfg 0, nbOf .bin 0, nbOf .chk 0, nbOf (.pair true 0 1 nbRingName) 2, nbOf .st 0], nbInLine c 0x200000 128 = true ∧ nbInLine c 0x200040 8 = true := by
  decide +kernel
theorem wit_NeighbourSteps_cfg : nbPlain (nbOf .cfg 0) (gridNat 4 0) = true ∧ nbValue (gridNat 4 0) 0x200040 8 = 4 ∧
    nbDone (nbOf .cfg 0) { nbOf .cfg 0 with phase := 1, epoch := 6 } (gridNat 4 0) [(68, 1, 1), (64, 4, 6), (72, 4, 0)] = true ∧
    nbPlain (nbOf .cfg 1) (gridNat 4 0) = true ∧ nbDone (nbOf .cfg 1) (nbOf .cfg 1) (gridNat 4 0) [(68, 1, 1), (64, 4, 4), (72, 4, 0)] = true := by decide +kernel
theorem wit_NeighbourSteps_bin : (∀ st ∈ [0, 1], nbPlain (nbOf .bin 0) (gridNat 4 st) = true ∧ gridOk (gridOf (nbValue (gridNat 4 st) 0x200000 128)) = true ∧
      (gridOf (nbValue (gridNat 4 st) 0x200000 128)).st = st ∧ (gridOf (nbValue (gridNat 4 st) 0x200000 128)).epoch = 4) ∧
    nbDone (nbOf .bin 0) { nbOf .bin 0 with desc0 := BitVec.ofNat 1024 (nbValue (gridNat 4 1) 0x200000 128), phase := 1, epoch := 5 } (gridNat 4 1) [(64, 4, 5), (68, 1, 1)] = true ∧
    nbPlain (nbOf .bin 8) (gridNat 5 1) = true ∧ BitVec.ofNat 32 (nbValue (gridNat 5 1) 0x200040 8) = 5 ∧
    nbDone (nbOf .bin 8) { nbOf .bin 8 with phase := 6, epoch := 6 } (gridNat 5 1) [(72, 4, 0), (68, 1, 2), (64, 4, 6)] = true := by decide +kernel
/-- NCHK after its only particle, which moved as far as a number says. -/
def chkEnd (far : FVal) : NbCmd := { nbOf .chk 1 with far := far }
theorem wit_NeighbourSteps_chk : (∀ st ∈ [1, 2], nbPlain (nbOf .chk 0) (gridNat 4 st) = true ∧ gridOk (gridOf (nbValue (gridNat 4 st) 0x200000 128)) = true ∧
      (gridOf (nbValue (gridNat 4 st) 0x200000 128)).st = st) ∧
    (∀ st ∈ [3, 2], nbPlain (chkEnd (.num false 0 0)) (gridNat 4 st) = true ∧ nbValue (gridNat 4 st) 0x200040 8 / 2 ^ 32 % 256 = st ∧
      nbDone (chkEnd (.num false 0 0)) { chkEnd (.num false 0 0) with phase := st, epoch := 6 } (gridNat 4 st) [(72, 4, (roundF32 (.num false 0 0)).toNat)] = true) ∧
    nbPlain (chkEnd (.ofInt 1)) (gridNat 4 2) = true ∧
    nbDone (chkEnd (.ofInt 1)) { chkEnd (.ofInt 1) with phase := 4, epoch := 6 } (gridNat 4 2) [(72, 4, (roundF32 (.ofInt 1)).toNat), (68, 1, 3), (64, 4, 6)] = true ∧
    (let g := startGrid (chkEnd (.ofInt 1)); g.npart ≤ (chkEnd (.ofInt 1)).next ∧ (unitsVal (-298) (fix g.skin * fix g.skin)).lt (mulVals (.num false 0 0) (.ofInt 4)).1 = false ∧
      (unitsVal (-298) (fix g.skin * fix g.skin)).lt (mulVals (.ofInt 1) (.ofInt 4)).1 = true) := by decide +kernel
/-- A pair command over particles. -/
def pairOf (count phase : Nat) : NbCmd := { nbOf (.pair true 0 count nbRingName) phase with next := 0 }
theorem wit_NeighbourSteps_pair : (∀ x ∈ [gridNat 4 3, gridNat 4 1, gridNat 5 2, gridNat 4 2], ∀ n ∈ [0, 1], nbPlain (pairOf n 0) x = true ∧ gridOk (gridOf (nbValue x 0x200000 128)) = true) ∧
    (let g := gridOf (nbValue (gridNat 4 2) 0x200000 128); g.st = 2 ∧ g.epoch.toNat % 2 = 0 ∧ 0 + 1 ≤ g.npart) ∧
    (gridOf (nbValue (gridNat 5 2) 0x200000 128)).epoch.toNat % 2 = 1 ∧ (gridOf (nbValue (gridNat 4 3) 0x200000 128)).st = 3 ∧ (gridOf (nbValue (gridNat 4 1) 0x200000 128)).st = 1 ∧
    nbPlain (nbOf (.pair true 0 1 nbRingName) 1) (gridNat 4 2) = true := by decide +kernel
/-- The grid of two particles: its particles, its sorted list and its cell starts in the line at 2 MiB. -/
def twoGrid : BitVec 1024 :=
  BitVec.ofNat 1024 (0x40800000 * (1 + 2 ^ 32 + 2 ^ 64) + 2 ^ 96 * 0x3F800000 + 2 ^ 160 + 2 ^ 176 + 2 ^ 192 + 2 * 2 ^ 224 + 2 ^ 256 * 0x200020 + 2 ^ 320 * 0x200008 + 2 ^ 384 * 0x200000 + 2 ^ 512 * 4 + 2 ^ 544 * 2)
/-- That line: cell starts 0 and 2, the list 0 and 1, the second particle half a unit along x. -/
def twoLine : Nat := 2 ^ 33 + 2 ^ 96 + 2 ^ 384 * 0x3F000000
/-- NPAIR.F at its first particle of that grid, in a phase. -/
def pairTwo (phase : Nat) (epoch : Word) (recs : List Nat) : NbCmd := { pairOf 1 phase with desc := 0x200000, desc0 := twoGrid, epoch := epoch, recs := recs }
theorem wit_NeighbourSteps_group : nbPlain (pairTwo 1 4 []) twoLine = true ∧
    (let g := startGrid (pairTwo 1 4 []); g.cstart = 0x200000 ∧ g.sorted = 0x200008 ∧ gridCells g = 1 ∧ g.npart = 2 ∧
      candidates g true (wordsIn 2 4 (nbValue twoLine 0x200000 8)) (wordsIn 2 4 (nbValue twoLine 0x200008 8)) 0 = [1] ∧ plus g.part 0 = 0x200020 ∧ plus g.part 16 = 0x200030 ∧
      (pairRecords g 0 1 (posOf (nbValue twoLine 0x200020 16)) (posOf (nbValue twoLine 0x200030 16))).isSome) ∧
    (∀ x ∈ [(0x200000, 8), (0x200008, 8), (0x200020, 16), (0x200030, 16)], nbInLine (pairTwo 1 4 []) x.1 x.2 = true) := by decide +kernel
theorem wit_NeighbourSteps_group_reads : let s := withNb (pairTwo 1 4 []) twoLine
    nbReads (pairTwo 1 4 []) 16 [0x200020, 0x200030] s = (.ok [nbValue twoLine 0x200020 16, nbValue twoLine 0x200030 16], s) := by
  have h := wit_NeighbourSteps_group.2.2
  simp only [nbReads, nb_read _ twoLine _ _ (h (0x200020, 16) (by simp)), nb_read _ twoLine _ _ (h (0x200030, 16) (by simp))]
/-- NPAIR.F with a group of one pair written, begun at an EPOCH. -/
def pairWritten (epoch : Word) : NbCmd := pairTwo 2 epoch [0, 0, 3 * 2 ^ 124]
theorem wit_NeighbourSteps_publish : nbPlain (pairWritten 4) (gridNat 4 2) = true ∧ nbPlain (pairWritten 6) (gridNat 4 2) = true ∧
    nbInLine (pairWritten 4) 0x200040 8 = true ∧ nbInLine (pairWritten 6) 0x200040 8 = true := by decide +kernel
theorem wit_NeighbourSteps_publish_epoch : BitVec.ofNat 32 (nbValue (gridNat 4 2) 0x200040 8) = 4 := by decide +kernel
theorem wit_NeighbourSteps_cbin : nbPlain (nbOf (.cbin false none) 0) 0 = true ∧ nbPlain (nbOf (.cbin true (some nbRingName)) 0) 1 = true ∧ nbPlain (nbOf (.cbin false none) 3) (1 + 2 ^ 32) = true ∧
    nbInLine (nbOf (.cbin false none) 0) 0x200000 64 = true ∧ nbInLine (nbOf (.cbin true (some nbRingName)) 0) 0x200000 64 = true ∧
    binOk false (binDesc (nbValue 0 0x200000 64)) = false ∧ binOk true (binDesc (nbValue 1 0x200000 64)) = true ∧ none ∉ (nbOf (.cbin false none) 3).classes ∧
    nbPlain (nbOf .st 0) (gridNat 4 2) = true ∧ (withNb (nbOf .st 0) (gridNat 4 2)).cord.id = loadCord := by decide +kernel

/-! ### Witnesses: lane operations -/

/-- Lane operands at the last register that the cord of atRest holds, with ss 0 and the whole mask. -/
def laneOp (ty : LaneTy) (var : Variant) (imm : Word) : LaneOp :=
  { vd := 0, va := 2, vb := 4, vc := 1, pneg := false, pidx := 0, la := 0, ss := 0, ty := ty, var := var, imm := imm, compact := false }
/-- Every lane operation. -/
def laneKinds : List LaneKind :=
  [.vabs, .vadd, .vand, .vclz, .vbfx, .vcmp, .vcmpn, .vfadd, .vfsub, .vfmul, .vfma, .vhfma, .vbfma, .vfmin, .vfmax, .vfsgn, .vfcls, .vfcmp, .vcvt, .vcvts,
   .vcrsc, .vcrat, .vcrhy, .vcrex, .vcrlg, .vcrsq, .vcrrs, .vcrdv, .vcrth, .vld, .vldc, .vldm, .vatom, .vatomNtf, .vcas, .vbcst, .vlane, .vmad, .vmul, .vmulh,
   .vmulhn, .vsub, .vmin, .vmax, .vminn, .vmaxn, .vor, .vxor, .vpopc, .vshl, .vshr, .vsar, .vsel, .vmov, .vmovInd, .vmovs, .vpack, .vunpk, .vplog, .vpmovS,
   .vpmovP, .vrng, .vprf, .vst, .vstc, .vstn, .vshfl, .vrot, .vred, .vscan, .vvote]
theorem wit_LaneOperations_regs : ∀ k ∈ laneKinds, regsOk atRest.cord k (laneOp .i32 .base 0) = true ∧ regsOk atRest.cord k (laneOp .i64 .base 0) = true := by decide +kernel
theorem wit_LaneMovesComplete : (BitVec.ofNat 8 (reg atRest (laneOp .i32 .base 0).ss).toNat).toNat < atRest.cord.alloc ∧ (laneOp .i32 .base 5).imm.toNat / 2 % 4 < 3 := by decide +kernel

/-- Lane 95 of v2 is +infinity and of v4 -infinity. -/
def infinities (s : State) : State :=
  { s with cord := setVreg (setVreg s.cord 2 (laneVec (fun l => if l = 95 then 0x7F800000 else 0))) 4 (laneVec (fun l => if l = 95 then 0xFF800000 else 0)) }
theorem wit_LaneFloatsComplete_trap : let s := infinities withImage; let o := laneOp .f32 .x 0
    regsOk s.cord .vfadd o = true ∧ o.ty ≠ .i64 ∧ (activeMask s.cord o).getLsbD 95 = true ∧
      (sumVals [NumFmt.value .fp32 (valA s.cord o 95), NumFmt.value .fp32 (valB s.cord o 95)]).2 = true ∧ s.cord.uhandler = 0 := by decide +kernel
theorem wit_LaneFloatsComplete_quiet : quietCord (infinities withImage).cord ∧ trapRoom (infinities withImage) :=
  ⟨⟨rfl, rfl, rfl, rfl, rfl, rfl, rfl⟩, rfl, rfl, of_some_prop (by decide +kernel), by decide +kernel⟩
theorem wit_LaneFloatsComplete_no_condition : ∀ l < 96, (sumVals [NumFmt.value .fp32 (valA atRest.cord (laneOp .f32 .x 0) l), NumFmt.value .fp32 (valB atRest.cord (laneOp .f32 .x 0) l)]).2 = false := by
  decide +kernel

/-- A VCRSQ of the cord, its entry at a beat. -/
def withBeat (beat : Nat) : State :=
  let s := after (.vcrsq (laneOp .f32 .base 0)) atRest
  setPart s 0 (fun p => { p with cordic := p.cordic.map (fun e => { e with beat := beat }) })
theorem wit_CordicOperationsComplete_beat : ∀ b < 3, (partOf (withBeat b) 0).cordic.length = 1 ∧ (withBeat b).cord.live = true ∧ (withBeat b).cord.mode = .running ∧
    (partOf (withBeat b) 0).cordic.all (fun e => e.beat == b && e.cord == (withBeat b).cord.id && e.inv ||| e.dz == 0) = true ∧
    (partOf (withBeat b) 0).cordic.all (fun e => (withBeat b).cord.flights.any (fun f => f.id == e.flight)) = true := by decide +kernel

theorem wit_CrossLaneOperationsComplete : let o := laneOp .i32 .base 0
    lanesOf (activeMask atRest.cord o) ≠ [] ∧ lanesOf (activeMask atRest.cord { o with pneg := true }) = [] ∧
      (tree (combine o.ty o.imm.toNat) 7 (((lanesOf (activeMask atRest.cord o)).filter (fun l => decide (l ≤ 95))).map (fun l => (l, valA atRest.cord o l)))).isSome := by decide +kernel
theorem wit_LaneAccessesIssue : atRest.cord.frag.tx = TxRec.idle := rfl

/-- The contiguous store of v0 at the last 384 bytes of the window of 4 KiB. -/
def runOp : LaneOp := { laneOp .n32 .base 3712 with va := 0, vb := 0, vc := 0 }
theorem wit_LaneStoreFrameAndPairWord_store : let s := atRest
    quietCord s.cord ∧ s.cord.frag.tx = TxRec.idle ∧ regsOk s.cord .vstc runOp = true ∧ accessSize runOp = 4 ∧
      (∀ l ∈ lanesOf (activeMask s.cord runOp), steer s s.cord (some l) (addrRun s.cord runOp 4 l) 4 = .ok (.win loadStand (3712 + 4 * l))) ∧
      (∀ st, findStand s loadStand = some st → Memory.wf st.window = true) :=
  ⟨atRest_quiet, rfl, by decide +kernel, by decide, fun l h => ok_of_toOption ((by decide +kernel :
    ∀ l ∈ lanesOf (activeMask atRest.cord runOp), (steer atRest atRest.cord (some l) (addrRun atRest.cord runOp 4 l) 4).toOption = some (.win loadStand (3712 + 4 * l))) l h),
    of_some (by decide +kernel)⟩
/-- A compact operation over registers of three banks. -/
def compactOp (k : CompactKind) (vd va vb : VReg) : CompactOp := { kind := k, vd := vd, va := va, vb := vb, pneg := false, pidx := 0, la := 0, ty := .n32, var := .base }
theorem wit_LaneStoreFrameAndPairWord_pair : let x := compactOp .vadd 0 1 2; let y := compactOp .vsub 3 2 1
    wellFormed (.pairWord x y) = true ∧ atRest.cord.mode = .running ∧ regsOk atRest.cord x.kind.full x.toLane = true ∧ regsOk atRest.cord y.kind.full y.toLane = true ∧
      x.var ≠ .x ∧ y.var ≠ .x ∧ y.kind ≠ .vld ∧ y.kind ≠ .vst := by decide +kernel
theorem wit_LaneStoreFrameAndPairWord_memory : ∀ k ∈ [CompactKind.vld, .vst], let x := compactOp .vadd 0 2 3; let y := compactOp k 3 2 0
    wellFormed (.pairWord x y) = true ∧ regsOk atRest.cord x.kind.full x.toLane = true ∧ regsOk atRest.cord y.kind.full y.toLane = true := by decide +kernel

/-! ### Witnesses: banks, rings, queues, hosts -/

/-- Cluster 0 changed. -/
def withCluster (f : Cluster → Cluster) (s : State) : State := { s with clusters := s.clusters.set 0 (f (clusterOf s 0)) }
theorem wit_Banks_free : Memory.wf atRest.mem = true ∧ modeField 0x80000000 15 = 2 ∧ modeField (clusterOf atRest 0).bankmode 15 ≠ 2 ∧
    (∀ j, j < 16 → j ≠ 15 → modeField 0x80000000 j = 3 ∨ modeField 0x80000000 j = modeField (clusterOf atRest 0).bankmode j) ∧ bankBusy (clusterOf atRest 0) 15 = false ∧
    bankHeld atRest 0 15 = false := by decide +kernel
/-- Bank 0 in SCRATCH mode, with the page of the stand. -/
def bankTaken : State := withCluster (fun cl => { cl with bankmode := 1 }) atRest
theorem wit_Banks_held : bankHeld bankTaken 0 0 = true ∧ modeField 0xFFFFFFFC 0 = 0 ∧ modeField (clusterOf bankTaken 0).bankmode 0 ≠ 0 ∧ (∀ j, j < 16 → j ≠ 0 → modeField 0xFFFFFFFC j = 3) := by
  decide +kernel
/-- Bank 15 on its way to mode 2. -/
def bankChanges : State := withCluster (fun cl => { cl with bankstat := 0x80008000, changing := [(15, 2)] }) atRest
theorem wit_Banks_changing : (clusterOf bankChanges 0).changing.find? (fun x => x.1 == 15) = some (15, 2) ∧ (clusterOf bankChanges 0).lines = [] ∧ bankBusy (clusterOf bankChanges 0) 15 = true ∧ (∀ l ∈ (clusterOf bankChanges 0).lines, l.way ≠ 15) := by
  decide +kernel

/-- A discarded log entry in the reservation of core 0. -/
def withLog : State :=
  setCore atRest 0 (fun k => { k with resv := [{ kind := 2, pasid := 1, base := 65536, size := 65536, stackMax := 0 }], log := [
    { index := 3, page := 9, pasid := 1, slot := 0, stand := loadStand, flight := 1, discarded := true, pc := 0, atom := none, scope := 0, seq := 1, recs := [{ value := 7, word := 0, mask := 15 }], code := 7, again := false, pa := none }] })
theorem wit_Rings_head : ringAt (clusterOf withRing 0) 5 = some ringOf3 := by decide +kernel
/-- A message for that ring waits in the inbound buffer, sent by the cord. -/
def inboundOne : State :=
  withCluster (fun cl => { cl with inbound := [{ ring := 5, payload := 0xABCDEF, fromCord := some (loadCord, 1), fromReq := none }] }) withRing
theorem wit_Rings_inbound : ∃ m r, (clusterOf inboundOne 0).inbound = [m] ∧ m.fromCord = some (loadCord, 1) ∧ ringAt (clusterOf inboundOne 0) m.ring = some r ∧ ringCount r < ringSize r :=
  ⟨_, ringOf3, rfl, rfl, by decide +kernel, by decide⟩
/-- A SNDM of the cord that a full inbound buffer has refused. -/
def sndmFlight : Flight :=
  { id := 1, frag := 0, stream := .scalar, pc := 0, isY := false, op := .sndm, scope := 0, size := 16, signed := false, dest := .none
    lanes := [{ newLane 0 0 77 with data2 := 88, fva := 0x0000A000 }], paths := [], ord := (0, 0), splits := [], la := 0 }
/-- The package with it in flight. -/
def sending (count : Word) (held : Nat) : State :=
  let s := withCluster (fun cl => { cl with rings := [{ ringOf3 with tail := 2 + count }], inbound := List.replicate held { ring := 5, payload := 1, fromCord := none, fromReq := none } }) withRing
  { s with cord := { s.cord with flights := [sndmFlight] } }
theorem wit_Rings_sndm : ∀ p ∈ [((3 : Word), 0), (16, 64)], let s := sending p.1 p.2; let h : Word := 0x0000A000
    s.cord.live = true ∧ s.cord.flights = [sndmFlight] ∧ h.extractLsb' 25 7 = s.fabric.num ∧ h.extractLsb' 19 6 = (0 : ClusterId) ∧ ringRefusal (clusterOf s 0) h s.cord.pasid = none ∧
      (ringAt (clusterOf s 0) (h.extractLsb' 13 6)).any (fun r => if p.2 = 0 then decide (ringCount r < ringSize r) else decide (ringSize r ≤ ringCount r)) = true := by decide +kernel

/-- A user queue of 4 records and 4 completions. -/
def queueOf (f : Queue → Queue) : Queue :=
  f { Queue.reset with num := 1, live := true, pasid := 1, ring := 2097152, q := 2, comp := 2101248, c := 2 }
/-- The package with it, and a journal of 16 entries at 12,288. -/
def withQueue (f : Queue → Queue) : State := { atRest with queues := [queueOf f], mgmt := { atRest.mgmt with journal := some { base := 12288, log2 := 4 } } }
theorem wit_Queues_indices : let s := withQueue (fun x => { x with tail := 1, head := 1, written := 2 })
    ∃ x, findQueue s 1 = some x ∧ ((5 : Word) - x.head).toNat ≤ 2 ^ x.q ∧ (x.tail - x.head).toNat ≤ ((5 : Word) - x.head).toNat ∧ 2 ^ x.q < ((6 : Word) - x.head).toNat ∧
      ((2 : Word) - x.chead).toNat ≤ (x.written - x.chead).toNat ∧ (x.written - x.chead).toNat < ((3 : Word) - x.chead).toNat :=
  ⟨_, by rfl, by decide, by decide, by decide, by decide, by decide⟩

theorem wit_HostEventsTakeEffect_access : calm atRest ∧ ownsAt atRest 2097152 ∧ atRest.hostWait = [] ∧ atRest.fabric.outstanding = [] ∧ (atRest.hosts[0]'(by decide)).active = false := ⟨atRest_calm, atRest_owns, rfl, rfl, by decide +kernel⟩
theorem wit_HostEventsTakeEffect_interrupt : let s := hostIs (fun h => { h with active := true, rd := 5, target := 64 }); (s.hosts[0]'(by decide)).active = true ∧ (∀ m : HostNo, (s.hosts[m.val]'m.isLt).flush = false) := by decide +kernel
theorem wit_HostEventsTakeEffect_lock : let s := { hostIs (fun h => { h with active := true, waiting := true, ticket := some 3 }) with almanac := { State.reset.almanac with waiters := [.host 0, .cord loadCord 0 1] } }
    s.almanac.lock = .free ∧ s.almanac.waiters = .host 0 :: [.cord loadCord 0 1] ∧ (∀ m : HostNo, (s.hosts[m.val]'m.isLt).flush = false) := ⟨rfl, rfl, by decide +kernel⟩

/-! ### Witnesses: rotation, contexts, streams, splits, ends -/

/-- Two cords of the active context on partition 0. -/
def twoCords : State := { atRest with cords := [{ atRest.cord with id := { core := 0, slot := 1, handler := false }, index := 1 }], parts := atRest.parts.set 0 { Partition.reset with streak := 64 } }
theorem wit_CordEvents_rotation : (rotated (partOf twoCords 0).rot (partitionRing twoCords 0)).length = 2 ∧ 64 ≤ (partOf twoCords 0).streak := by decide +kernel

/-- A second context of PASID 2 on core 0, of a priority; quantum 0 is no quantum. -/
def twoContexts (pa pb quantum left idle : Nat) : State :=
  let key2 : StandKey := { queue := 2, seq := 1, num := 0 }
  let s := { atRest with
    cords := [{ atRest.cord with id := { core := 0, slot := 1, handler := false }, pasid := 2, stand := key2 }]
    stands := [{ loadedStand with priority := pa }, { loadedStand with key := key2, pasid := 2, priority := pb }]
    mgmt := { atRest.mgmt with quantum := quantum } }
  setCore s 0 (fun k => { k with ctxs := [{ pasid := 1, inactive := 0, eligible := true }, { pasid := 2, inactive := 0, eligible := true }], quantumLeft := left, idle := idle, clock := 5 })
theorem wit_CordEvents_contexts : ∀ p ∈ [(0, 1, 0, 0, 0), (1, 0, 0, 0, 0), (1, 1, 8, 0, 0), (1, 1, 0, 0, 511), (1, 1, 0, 0, 510)], let s := twoContexts p.1 p.2.1 p.2.2.1 p.2.2.2.1 p.2.2.2.2
    (coreOf s 0).ctxs = [{ pasid := 1, inactive := 0, eligible := true }, { pasid := 2, inactive := 0, eligible := true }] ∧ (coreOf s 0).active = some 1 ∧ contextPriority s 0 1 = p.1 ∧ contextPriority s 0 2 = p.2.1 ∧
      s.mgmt.quantum = p.2.2.1 ∧ (coreOf s 0).quantumLeft = 0 ∧ (coreOf s 0).idle = p.2.2.2.2 ∧ ({ pasid := 2, inactive := 0, eligible := true } : Ctx).eligible = true := by decide +kernel

/-- The stand of the cord, pre-empted, its save area at 1 MiB. -/
def leaving : State :=
  setCore { atRest with stands := [{ loadedStand with phase := 1 }] } 0 (fun k => { k with resv := [{ kind := 0, pasid := 1, base := 1048576, size := 2162688, stackMax := 0 }] })
theorem wit_CordEvents_stream_out : leaving.cord.live = true ∧ leaving.cords = [] ∧ leaving.cord.id.handler = false ∧ leaving.cord.mode = .running ∧ leaving.cord.flights = [] ∧
    leaving.cord.frags = [] ∧ leaving.cord.frag.tx.lanes = [] ∧ leaving.cord.alloc ≤ 256 ∧ leaving.cord.tiles ≤ 16 ∧ findStand leaving leaving.cord.stand = some { loadedStand with phase := 1 } ∧
    leaving.almanac.lock = .free ∧ (partOf leaving leaving.cord.id.part).stopped = false ∧ (partOf leaving leaving.cord.id.part).cordic = [] ∧ (partOf leaving leaving.cord.id.part).mq = [] ∧
    (coreOf leaving leaving.cord.id.core).saved = [] ∧ Memory.wf leaving.mem = true :=
  ⟨by decide +kernel, by decide +kernel, by decide +kernel, by decide +kernel, by decide +kernel, by decide +kernel, by decide +kernel, by decide +kernel, by decide +kernel, by rfl,
    by decide +kernel, by decide +kernel, by decide +kernel, by decide +kernel, by decide +kernel, by decide +kernel⟩
/-- That cord saved, its stand in a phase. -/
def savedOut (phase : Nat) : State :=
  setCore { State.reset with stands := [{ loadedStand with phase := phase }] } 0 (fun k => { k with saved := [{ pasid := 1, cords := [atRest.cord] }] })
theorem wit_CordEvents_stream_in : ∀ p ∈ [1, 2], let s := savedOut p
    (coreOf s 0).saved = [{ pasid := atRest.cord.pasid, cords := [atRest.cord] }] ∧ findStand s atRest.cord.stand = some { loadedStand with phase := p } := by
  intro p h; simp only [List.mem_cons, List.not_mem_nil, or_false] at h
  rcases h with rfl | rfl <;> exact ⟨rfl, rfl⟩
theorem wit_CordEvents_stream_in_alone : ∀ j : CoreId, j ≠ 0 → (coreOf (savedOut 1) j).saved = [] := by decide +kernel
theorem wit_CordEvents_resume : suspended (savedOut 1) loadStand.queue = false ∧ (∀ x ∈ allCords (savedOut 1), x.id.handler = false → x.stand ≠ atRest.cord.stand) ∧
    slotsFree (savedOut 1) [atRest.cord] = true ∧ ({ loadedStand with phase := 1 } : Stand).together = [] ∧ (∀ d : DieId, (dieOf (savedOut 1) d).reserved = none) ∧ (savedOut 1).disp.reserved = none := by decide +kernel
/-- A gang of a queue of priority 5 has reserved die 0. -/
def savedHeld : State := { savedOut 1 with queues := [{ Queue.reset with num := 2, live := true, priority := 5 }], dies := (savedOut 1).dies.set 0 { Die.reset with reserved := some (2, 1, 0) } }
theorem wit_CordEvents_resume_held : heldAbove savedHeld { loadedStand with phase := 1 } = true ∧ findStand savedHeld loadStand = some { loadedStand with phase := 1 } := by decide +kernel
/-- The same, with the stand's queue suspended. -/
def savedSuspended : State := { savedOut 2 with queues := [{ Queue.reset with num := loadStand.queue, live := true, state := 1, suspended := true }] }
theorem wit_CordEvents_stream_in_suspended : suspended savedSuspended loadStand.queue = true ∧ findStand savedSuspended atRest.cord.stand = some { loadedStand with phase := 2 } := by decide +kernel

/-- Arms of split 7 whose join is at 64. -/
def armOf (side : Nat) : Arm := { split := 7, side := side, join := 64, top := true, trans := false }
/-- A cord split at the top: the not-taken arm acts and is at the join; the other has a status. -/
def splitCord (bank : Bool) (status : FragStatus) : State :=
  let f := { atRest.cord.frag with pc := 64, arms := [armOf 0], status := .atJoin, mask := 0xFF, owned := 0xFF, bank := bank }
  { atRest with cord := { atRest.cord with frag := f, frags := [{ f with id := 1, arms := [armOf 1], status := status, mask := 0xFF00, owned := 0xFF00, bank := !bank }], nextId := 2, topSplit := true } }
theorem wit_CordEvents_fusion : ∀ x ∈ [FragStatus.atJoin, .serial], let s := splitCord false x
    s.cord.live = true ∧ (partOf s s.cord.id.part).stopped = false ∧ s.cord.frags.length = 1 ∧ s.cord.frags.all (fun g => g.arms == [armOf 1] && decide (g.id ≠ s.cord.frag.id) && g.status == x && g.queue.isEmpty && g.faults.isEmpty) = true ∧
      s.cord.mode = .running ∧ s.cord.flights = [] ∧ s.cord.frag.arms = [armOf 0] ∧ s.cord.frag.status = .atJoin ∧ s.cord.frag.queue = [] ∧ s.cord.frag.faults = [] ∧ s.cord.frag.after = none := by
  decide +kernel

/-- A cord that has ended, one of some that its stand counts. -/
def endedCord (left : Nat) : State := { atRest with cord := { atRest.cord with mode := .ended, exitPc := 12 }, stands := [{ loadedStand with cordsLeft := left }] }
theorem wit_CordEvents_end : ∀ n ∈ [1, 2], let s := endedCord n
    s.cord.live = true ∧ s.cord.mode = .ended ∧ s.cord.flights = [] ∧ s.cord.id.handler = false ∧ s.cord.batches = [] ∧ (partOf s s.cord.id.part).stopped = false ∧ s.cord.exitSeen = false ∧ (∀ c ∈ s.cords, c.flights = []) ∧ (findStand s s.cord.stand).any (fun st => st.cordsLeft == n) = true := by
  decide +kernel

/-! ### Witnesses: the dispatcher -/

/-- A launch record of PASID 1: one stand of 97 threads of 16 lane registers, a window of one page, the arguments at 0x1122334455667788, tag 9. -/
def oneRecord : Nat :=
  1 + 7 * 2 ^ 64 + 96 * 2 ^ 128 + 2097152 * 2 ^ 192 + 2101248 * 2 ^ 256 + 2 ^ 320 + 0x1122334455667788 * 2 ^ 448 + 2 ^ 512 + 9 * 2 ^ 960
/-- A bad one: its VERSION is 0. -/
def badRecord : Nat := oneRecord - 1
/-- Every core of cluster 0 holds the reservations of PASID 1, and bank 0 is in SCRATCH mode. -/
def ready : State :=
  let s := withCluster (fun cl => { cl with bankmode := 1 }) { atRest with dies := atRest.dies.set 0 { Die.reset with ats := [loadEntry] } }
  (List.range 4).foldl (fun s i => setCore s (BitVec.ofNat 8 i) (fun k => { k with resv := [{ kind := 2, pasid := 0, base := 0, size := 0, stackMax := 0 }, { kind := 0, pasid := 1, base := 0, size := 0, stackMax := 0 }] })) s
/-- The queue with a record to fetch, in memory at its last place. -/
def fetches (r : Nat) : State :=
  { ready with queues := [queueOf (fun x => { x with head := 3, tail := 4, nextSeq := 5 })], mem := memWrite [] (2097152 + 384) 128 r }
theorem wit_Dispatcher_fetch : ∀ r ∈ [oneRecord, badRecord], let s := fetches r
    (findQueue s 1).any (fun x => hasRecord x && x.nextSeq == 5 && x.ring + 128 * (x.head.toNat % 2 ^ x.q) == 2097536) = true ∧ s.englines = [] ∧
      tlbFind (dieOf s 0).ats 1 2097536 1 = some loadEntry ∧ tlbPhys loadEntry 2097536 = 2097536 ∧ 2097536 % 128 = 0 ∧ memRead s.mem 2097536 128 = r ∧ s.launches = [] ∧
      recDeps (BitVec.ofNat 1024 r) = [] := by decide +kernel
theorem wit_Dispatcher_fetch_calm (r : Nat) : calm (fetches r) ∧ ownsAt (fetches r) 2097536 := ⟨⟨rfl, rfl, rfl, rfl, rfl, rfl, rfl⟩, by unfold ownsAt; exact (by decide +kernel : (ownedAt ready.fabric (gfnOf 2097536)).isSome = true)⟩
theorem wit_Dispatcher_fetch_records : recordOk (BitVec.ofNat 1024 badRecord) = false ∧ recordOk (BitVec.ofNat 1024 oneRecord) = true ∧
    (findQueue (fetches oneRecord) 1).any (fun x => fitsEmpty (fetches oneRecord) x (BitVec.ofNat 1024 oneRecord)) = true := by decide +kernel

/-- A launch of that record without a window, its gang not yet placed. -/
def launchOf (f : Launch → Launch) : Launch :=
  f { queue := 1, seq := 1, record := BitVec.ofNat 1024 (oneRecord - 2 ^ 512), order := none, nextGang := 0, placed := 0, ended := 0, depFailed := false, groups := [], cleared := [], outcome := none
      done := false, written := false }
/-- The package with it. -/
def withLaunch (f : Launch → Launch) : State := { ready with queues := [queueOf id], launches := [launchOf f], stands := [], cord := Cord.blank }
theorem wit_Dispatcher_placement : let s := withLaunch id; let l := launchOf id
    (servingOrder s).map (fun q => q.num) = [1] ∧ (servingOrder s).all (fun q => decide (nextLaunch s q = some l) && decide (q.priority = 0) &&
      (fitDie (bankOrder s.tick) (needOfRecord q l.record) 1 ((dieClusters 0).map (roomOf s [] (needOfRecord q l.record)))).isSome) = true ∧
      findLaunch s l.queue l.seq = some l ∧ recTogether l.record = false ∧ recExtent l.record 1 = 1 ∧ packageHeld s l 0 = false ∧ dieHeld s l 0 0 = false := by decide +kernel
/-- The launch with its stand ended. -/
def ran (f : Launch → Launch) : State := withLaunch (fun l => f { l with nextGang := 1, placed := 1, ended := 1 })
/-- That launch. -/
def ranLaunch : Launch := launchOf (fun l => { l with nextGang := 1, placed := 1, ended := 1 })
theorem wit_Dispatcher_group : hasGroup ranLaunch.record 2 0 = true ∧ hasGroup ranLaunch.record 5 0 = true ∧ ranLaunch.groups.contains (2, 0) = false ∧ groupPlaced ranLaunch 2 0 = true := by
  decide +kernel
theorem wit_Dispatcher_group_state : findLaunch (ran id) 1 1 = some ranLaunch ∧ (ran id).fabric.outstanding = [] ∧ (ran id).stands = [] := ⟨rfl, rfl, rfl⟩
theorem wit_Dispatcher_group_clean : ∀ k : ClusterId, (clusterOf (ran id) k).lines = [] := by decide +kernel
theorem wit_Dispatcher_group_idle : contributionsBusy 1 1 (ran id) = false ∧ dumpOut 1 1 (ran id) = false ∧ enginesBusy (fun k => ofLaunch 1 1 k && inGroup ranLaunch.record 2 0 k) (ran id) = false := by decide +kernel
/-- It ran with an outcome, or a failed dependence. -/
def ranWith (o : Option (Nat × Nat)) (d : Bool) : Launch := { ranLaunch with outcome := o, depFailed := d }
/-- The hypotheses of its completion. -/
def completeHyps (o : Option (Nat × Nat)) (d : Bool) : Bool :=
  let s := ran (fun l => { l with outcome := o, depFailed := d })
  decide (findLaunch s 1 1 = some (ranWith o d)) && !(ranWith o d).done && (ranWith o d).ended == (ranWith o d).placed && !enginesBusy (ofLaunch 1 1) s && s.launches.all (fun m => (recDeps m.record).isEmpty)
theorem wit_Dispatcher_complete : completeHyps none false = true ∧ completeHyps none true = true ∧ completeHyps (some (2, 7)) false = true := by decide +kernel
theorem wit_Dispatcher_complete_over : placementOver (ranWith none false) = true ∧ placementOver (ranWith none true) = true ∧ placementOver (ranWith (some (2, 7)) false) = true ∧
    recDeps (ranWith none false).record = [] := by decide +kernel
/-- A completion to write, to the ring's last place. -/
def completes (written : Word) : State :=
  { ready with queues := [queueOf (fun x => { x with written := written })]
               completions := [{ queue := 1, seq := 6, tag := 9, status := 2, code := 7, extra := 0, jseq := 3, cint := true }] }
theorem wit_Dispatcher_record : let s := completes 3
    (findQueue s 1).any (fun x => decide ((x.written - x.chead).toNat ≠ 2 ^ x.c) && x.comp + 32 * (x.written.toNat % 2 ^ x.c) == 2101344) = true ∧ s.englines = [] ∧
      tlbFind (dieOf s 0).ats 1 2101344 2 = some loadEntry ∧ Memory.wf s.mem = true ∧ (findQueue (completes 4) 1).any (fun x => decide ((x.written - x.chead).toNat = 2 ^ x.c)) = true := by
  decide +kernel
theorem wit_Dispatcher_record_calm : calm (completes 3) ∧ ownsAt (completes 3) 2101344 := ⟨⟨rfl, rfl, rfl, rfl, rfl, rfl, rfl⟩, by unfold ownsAt; exact (by decide +kernel : (ownedAt ready.fabric (gfnOf 2101344)).isSome = true)⟩

/-! ### Witnesses: walks, page requests, invalidations -/

/-- A device directory at 81,920 of one level, a process directory at 86,016 of one level, and page tables at 65,536 that give page 513 of PASID 1 an entry of 2 MiB. -/
def tables (leaf : Nat) : Memory :=
  memWrite (memWrite (memWrite (memWrite (memWrite (memWrite (memWrite (memWrite [] 81920 8 33) 81944 8 (2 ^ 60 + 21)) 86032 8 1) 86040 8 (10 * 2 ^ 60 + 16)) 65536 8 (17 * 1024 + 1)) 69632 8 (18 * 1024 + 1)) 73728 8 (19 * 1024 + 1)) 77832 8 leaf
/-- A load of that page whose lane walks. -/
def walkFlight (st : AccState) : Flight :=
  { id := 1, frag := 0, stream := .scalar, pc := 0, isY := false, op := .load, scope := 0, size := 4, signed := false, dest := .sreg false 5
    lanes := [{ newLane 0 2101248 0 with st := st, tgt := .virt }], paths := [(0, false)], ord := (0, 0), splits := [], la := 0 }
/-- The package with it, a walk of a stamp and an ISN. -/
def walking (leaf : Nat) (stamp isn : DWord) : State :=
  { atRest with
    mem := tables leaf, iommu := { atRest.iommu with ddtp := 20 * 1024 + 2 }, cord := { atRest.cord with flights := [walkFlight .walking] }
    dies := atRest.dies.set 0 { Die.reset with isn := isn, walks := [{ pasid := 1, page := 513, stamp := stamp, need := [1], engines := [] }] } }
/-- A leaf that maps the page, readable by a user program. -/
def goodLeaf : Nat := 512 * 1024 + 23
theorem wit_Translation_walk : ∀ x ∈ [(goodLeaf, (1 : DWord)), (0, 0), (7 + 512 * 1024, 0)], let s := walking x.1 0 x.2
    ((dieOf s 0).walks.find? (fun w => w.pasid == 1 && w.page == 513)).any (fun w => w.need == [1] && w.stamp == 0 && w.engines.isEmpty) = true ∧ s.cord.live = true ∧ s.cord.flights = [walkFlight .walking] ∧
      (walkFlight .walking).lanes.all (fun l => l.st == .walking && lanePage (walkFlight .walking) l == 513 && laneNeed (walkFlight .walking) l == 1) = true ∧ underPasid 0 1 s.cord = true ∧
      (walkNow (walkEng 0 1 513) 1 (513 * 4096) 1 s).1 = (if x.1 = 0 then .absent else if x.1 = goodLeaf then .leaf 21 1 true true false false 77832 else .denied) := by decide +kernel
theorem wit_Translation_walk_leaf : let s := walking goodLeaf 0 0
    calm s ∧ ownsAt s 77832 ∧ s.englines = [] ∧ (walkEntry 1 (513 * 4096) 1 (.leaf 21 1 true true false false 77832)).isSome = true ∧ engOut s (walkEng 0 1 513).id = false :=
  ⟨⟨rfl, rfl, rfl, rfl, rfl, rfl, rfl⟩, by unfold ownsAt; decide +kernel, rfl, by decide +kernel, by decide +kernel⟩
theorem wit_Translation_walk_stamp : ((dieOf (walking 0 0 1) 0).walks.find? (fun w => w.pasid == 1 && w.page == 513)).any (fun w => decide (w.stamp < (dieOf (walking 0 0 1) 0).isn)) = true := by decide +kernel
/-- The line of the leaf has failed. -/
def walkFails : State := { walking goodLeaf 0 0 with failed := [77824] }
/-- The tables lie in a granule that package 1 owns. -/
def walkWaits : State :=
  let s := walking goodLeaf 0 0
  { s with fabric := { s.fabric with present := [0, 1], gone := [0], records := [{ gfn := 0, owner := 1, pool := 0, moving := false, retired := false, stumps := 1, frame := 0, gen := 1 }] } }
theorem wit_Translation_walk_refused : (walkNow (walkEng 0 1 513) 1 (513 * 4096) 1 walkFails).1 = .refused 11 := by decide +kernel
theorem wit_Translation_walk_later : (walkNow (walkEng 0 1 513) 1 (513 * 4096) 1 walkWaits).1 = .later := by decide +kernel

/-- The page request of that lane, which is parked. -/
def pageRef : PageRef := { die := 0, pasid := 1, page := 513, write := false }
/-- The package with it and a timeout. -/
def parking (timeout : Word) : State :=
  { atRest with cord := { atRest.cord with flights := [walkFlight (.parked 7)] }
                dies := atRest.dies.set 0 { Die.reset with timeout := timeout, pageReqs := [{ pasid := 1, page := 513, write := false, read := true, privileged := false, last := true, engines := [(4, 7)] }] } }
/-- The hypotheses of its response. -/
def pageHyps (x : Word) : Bool :=
  let s := parking x
  (findRequest s pageRef).any (fun q => q.engines == [(4, 7)]) && s.cord.live && decide (s.cord.flights = [walkFlight (.parked 7)]) && (walkFlight (.parked 7)).lanes.all (parkedOn pageRef (walkFlight (.parked 7))) &&
    underPasid pageRef.die pageRef.pasid s.cord && (dieOf s 0).timeout == x
theorem wit_Translation_page : pageHyps 0 = true ∧ pageHyps 9 = true := by decide +kernel
theorem wit_Translation_logs : ∀ k : CoreId, (coreOf (parking 9) k).log = [] := by decide +kernel
theorem wit_Translation_invalidation : (∀ d : DieId, (dieOf atRest d).walks = [] ∧ (dieOf atRest d).invals = []) ∧ (∀ c ∈ allCords atRest, c.flights = []) ∧ atRest.fabric.outstanding = [] ∧
    (∀ c : ClusterId, (clusterOf atRest c).lines = []) ∧ atRest.iommu.queue = [] ∧ (∀ k : CoreId, (coreOf atRest k).log = []) := by decide +kernel
/-- A die with 32 invalidations under way. -/
def manyInvals : State := { atRest with dies := atRest.dies.set 0 { Die.reset with invals := List.replicate 32 { isn := 0, frames := [], flights := [] } } }
theorem wit_Translation_invalidation_full : 32 ≤ (dieOf manyInvals 0).invals.length := by decide +kernel

/-! ### Witnesses: requests of other packages -/

/-- A request of package 1 at this one. -/
def reqOf (f : Req → Req) : Req :=
  f { src := 1, dst := 0, tag := 9, size := 0, scope := 5, rly := false, fn := 0, pasid := 1, addr := 2097152, payload := bytesOfNat 16 2097280 }
/-- The package in a pod of two. -/
def joined (s : State) : State := { s with fabric := { s.fabric with joined := true, present := [0, 1] } }
theorem wit_OwnerAnswersRequests : (reqOf id).dst = (joined withRing).fabric.num ∧ (ownedAt (joined withRing).fabric (gfnOf (reqAddr (reqOf id)))).isSome = true ∧ sizeBytes (reqOf id).size = 4 ∧
    payNat (reqOf id) 0 16 < 2 ^ 57 ∧ (ownedAt (joined withRing).fabric (gfnOf (payNat (reqOf id) 0 16))).isSome = true ∧ (∀ p ∈ (joined withRing).fabric.present, p = 0 ∨ p = (reqOf id).src) ∧
    refusalOf (joined withRing).fabric (gfnOf 0) = none ∧ registrarOf (joined withRing).fabric (gfnOf 0) = 0 ∧ (ownedAt (joined withRing).fabric (gfnOf 0)).isSome = true ∧ isPartner (joined withRing).fabric (reqOf id).src = true ∧ lineOf (payNat (reqOf id) 0 16) ≠ lineOf (reqAddr (reqOf id)) ∧ payNat (reqOf id) 0 16 ≠ 0 ∧ payNat (reqOf (fun r => { r with payload := [] })) 0 16 = 0 ∧
    (ownedAt (joined withRing).fabric (gfnOf (reqAddr (reqOf id)))).all (fun o => decide ((dieOf (joined withRing) (rdxDie o.1)).rdx.length < 64)) = true := by decide +kernel
theorem wit_OwnerAnswersRequests_calm : calm (joined withRing) ∧ (joined withRing).mgmt.journal = none ∧ (joined withRing).mgmt.events = none := ⟨⟨rfl, rfl, rfl, rfl, rfl, rfl, rfl⟩, rfl, rfl⟩
/-- The hypotheses of a message to a handle, and whether its ring refuses it. -/
def messageHyps (x : BitVec 57) (refused : Option Nat) : Bool :=
  let s := joined withRing
  let r := reqOf (fun r => { r with addr := x })
  let h : Word := r.addr.setWidth 32
  let k : ClusterId := h.extractLsb' 19 6
  (ownedAt s.fabric (gfnOf (reqAddr r))).isSome && ringRefusal (clusterOf s k) h r.pasid == refused && decide (ringAt (clusterOf s k) (h.extractLsb' 13 6) = some ringOf3) &&
    decide (ringCount ringOf3 < ringSize ringOf3) && (clusterOf s k).inbound.isEmpty
theorem wit_OwnerAnswersRequests_ring : messageHyps 0x0000A000 none = true ∧ messageHyps 0x0000A001 (some 4) = true := by decide +kernel
theorem wit_OwnerAnswersRequests_refused : ∃ sub, refusalOf { (joined atRest).fabric with present := [] } (gfnOf (reqAddr (reqOf (fun r => { r with addr := BitVec.ofNat 57 (2 ^ 57 - 1) })))) = some sub :=
  Option.isSome_iff_exists.mp (by decide +kernel)
/-- A line of a partner, changed here. -/
def heldLine (modified : Bool) (dirty : BitVec 128) : PartnerLine := { line := 2097152, owner := 1, modified := modified, data := 77, dirty := dirty }
/-- The package that holds it. -/
def holds (modified : Bool) (dirty : BitVec 128) : State := { joined atRest with fabric := { (joined atRest).fabric with partner := [heldLine modified dirty] } }
theorem wit_OwnerAnswersRequests_recall : (holds true 3).fabric.partner.find? (fun x => x.line == lineOf (reqAddr (reqOf id))) = some (heldLine true 3) := by decide +kernel

/-! ### Witnesses: evictions and migrations -/

/-- A line of cluster 0 with its bytes 0 and 127 dirty. -/
def dirtyLine : CacheLine := { addr := 2097152, way := 0, valid := ~~~0, dirty := 1 ||| 1#128 <<< 127, data := 0xAB, stack := false }
theorem wit_Evictions_cluster : let s := withCluster (fun cl => { cl with lines := [dirtyLine] }) atRest
    (clusterOf s 0).lines.filter (fun x => x.addr == dirtyLine.addr) = [dirtyLine] ∧ copyBad (clusterOf s 0) dirtyLine.addr dirtyLine.stack = false ∧ dirtyLine.dirty ≠ 0 ∧ dirtyLine.valid ≠ 0 := by decide +kernel
/-- The directory tracks a copy of that line at package 1. -/
def tracked (modified : Bool) : State := { joined atRest with fabric := { (joined atRest).fabric with directory := [{ line := 2097152, modified := modified, mask := 2 }] } }
theorem wit_Evictions_directory : ∀ m ∈ [true, false], let s := tracked m; let e : DirEntry := { line := 2097152, modified := m, mask := 2 }
    s.fabric.directory.find? (fun x => x.line == e.line) = some e ∧ maskPartners s.fabric e.mask = [1] ∧ cohOut s.fabric e.line 1 = false ∧ s.fabric.joined = true ∧ linkDown s.fabric 1 = false ∧
      (freeTag s.fabric 4 1).isSome = true := by decide +kernel
theorem wit_Evictions_cluster_calm : let s := withCluster (fun cl => { cl with lines := [dirtyLine] }) atRest; calm s ∧ ownsAt s 2097152 :=
  ⟨⟨rfl, rfl, rfl, rfl, rfl, rfl, rfl⟩, by unfold ownsAt; decide +kernel⟩
theorem wit_Evictions_partner : (∀ y ∈ (holds true 3).fabric.partner, y.line % 128 = 0) ∧ (holds false 0).fabric.partner = [heldLine false 0] ∧ (holds true 3).fabric.partner = [heldLine true 3] ∧ (freeTag (holds true 3).fabric 4 1).isSome = true := by decide +kernel
/-- A clock of 2^5 on every die. -/
def aged (touched : List (Nat × DWord)) : State := { atRest with mgmt := { atRest.mgmt with retain := 5, sliceClocks := Vector.replicate 5 32, touched := touched } }
theorem wit_Evictions_bank : (aged []).mgmt.retain ≠ 0 ∧ ∀ b ∈ [({ die := 4, slice := 31, bank := 7 } : SliceBank), { die := 3, slice := 47, bank := 0 }],
    (aged []).mgmt.drowsy.contains b = false ∧ bankTouched (aged []) b = false ∧ 2 ^ (aged []).mgmt.retain ≤ ((aged []).mgmt.sliceClocks.getD b.die 0).toNat := by decide +kernel
theorem wit_Evictions_bank_touched : ∃ b, bankTouched (aged [(2097152, 32)]) b = true ∧ b.die ≤ 4 ∧ b.slice < 48 ∧ b.die ≠ 4 ∧ b.bank < 8 := by
  have h : ∃ x, sliceAt (aged [(2097152, 32)]) 2097152 = some x ∧ x.1 = 0 ∧ x.2 < 48 := ex_of_any (by decide +kernel)
  obtain ⟨x, e, hd, hs⟩ := h
  refine ⟨{ die := x.1, slice := x.2, bank := Config.sliceBank (lineOf 2097152) % 8 }, ?_, by simp [hd], hs, by simp [hd], Nat.mod_lt _ (by decide)⟩
  unfold bankTouched bankAt
  simp only [show (aged [(2097152, 32)]).mgmt.touched = [(2097152, 32)] from rfl, List.any_cons, List.any_nil, Bool.or_false, e, hd, Option.map_some, beq_self_eq_true, Bool.true_and]
  decide +kernel

/-- A MIG request about granule 1: package, pool, frame and generation. -/
def migOf (fn : BitVec 4) (pkg : PkgNo) (pool frame gen : Nat) : Req := reqOf (fun r => { r with fn := fn, size := 2, payload := migPayload 1 pkg pool frame gen })
theorem wit_Migrations_reserve : (freeFrame (joined atRest).fabric (migPool (migOf 0 0 0 0 0))).isSome = true ∧ freeFrame { State.reset.fabric with exposed := [65536] } (migPool (migOf 0 0 0 0 0)) = none ∧ gfnOf (reqAddr (migOf 0 0 0 0 0)) = 1 := by
  decide +kernel
theorem wit_Migrations_record : migGen (migOf 1 0 2 5 0) = 0 ∧ migPool (migOf 1 0 2 5 0) < 8 ∧ migPool (migOf 1 1 2 5 0) < 8 ∧ (recordOf (joined atRest).fabric 1).owner = migPkg (migOf 1 0 2 5 0) ∧ (recordOf (joined atRest).fabric 1).owner ≠ migPkg (migOf 1 1 2 5 0) := by
  decide +kernel
/-- A stump of granule 1 that waits for some packages. -/
def stumpFor (missing : List PkgNo) : Stump := { gfn := 1, owner := 1, gen := 1, pool := 0, frame := 1, missing := missing, relayed := false }
theorem wit_Migrations_acknowledge : ∀ m ∈ [[(1 : PkgNo), 2], [1]], let s := { joined atRest with fabric := { (joined atRest).fabric with stumps := [stumpFor m] } }
    s.fabric.stumps = [stumpFor m] ∧ (stumpFor m).gfn = gfnOf (reqAddr (migOf 3 0 0 0 0)) ∧
      (stumpFor m).missing.filter (fun q => q != (migOf 3 0 0 0 0).src) = (if m.length = 2 then [2] else []) := by decide +kernel
/-- The request whose outcome package 1 tells, its status word at 2,097,280. -/
def asked : Outstanding := { op := 0x0B, req := reqOf (fun r => { r with src := 0, dst := 1, fn := 6 }), waiter := .mig (.phys 2097280), naks := 0, held := false, bulk := false }
theorem wit_Migrations_outcome : let s := { joined atRest with fabric := { (joined atRest).fabric with outstanding := [asked] } }
    s.fabric.outstanding = [asked] ∧ asked.op = 0x0B ∧ asked.req.fn = 6 ∧ asked.req.tag = (migOf 6 0 0 0 0).tag ∧ gfnOf (reqAddr asked.req) = gfnOf (reqAddr (migOf 6 0 0 0 0)) ∧
      s.fabric.directory = [] ∧ s.failed = [] ∧ s.fabric.pending = [] ∧ asked.waiter = .mig (.phys 2097280) ∧ (ownedAt s.fabric (gfnOf 2097280)).isSome = true ∧ 2097280 < 2 ^ 57 ∧ s.fabric.incoming = [] ∧ (ownedAt s.fabric (gfnOf (reqAddr (migOf 6 0 0 0 0)))).isSome = true := by
  decide +kernel
/-- A request to move granule 1 to package 1. -/
def movesTo : MigReq := { gfn := 1, dest := 1, pool := 0, src := 0, tag := 3 }
/-- That request waits. -/
def movable : State := { joined atRest with fabric := { (joined atRest).fabric with waiting := [movesTo] } }
theorem wit_Migrations_dequeue : movable.fabric.waiting = [movesTo] ∧ movable.fabric.moves = [] ∧ movable.fabric.incoming = [] ∧ (ownedAt movable.fabric movesTo.gfn).isSome = true ∧
    movesTo.dest ≠ movable.fabric.num ∧ openSlots movable movesTo.gfn = false ∧ queuedFor movable movesTo.gfn = false := by decide +kernel
/-- The move copied whole. -/
def copied : State := { joined atRest with mem := [(2097151, 3), (2097152, 7), (4194303, 8), (4194304, 9)], fabric := { (joined atRest).fabric with moves := [{ req := movesTo, step := 4, gen := 1, frame := 0, chunk := 4096, held := [] }] } }
theorem wit_Migrations_stump : (ownedAt copied.fabric movesTo.gfn).isSome = true ∧ copied.fabric.moves.all (fun m => m.step == 4 && decide (4096 ≤ m.chunk) && m.held.isEmpty && m.req == movesTo) = true ∧
    waiting copied (.copyChunk movesTo.gfn) = false ∧ copied.mgmt.watches = [] ∧ Memory.wf copied.mem = true := by decide +kernel
/-- An announcement about granule 1. -/
def announced (due : Bool) : State := { joined atRest with fabric := { (joined atRest).fabric with announces := [{ gfn := 1, old := 1, owner := 2, gen := 1, ackDue := due, req := none }] } }
theorem wit_Migrations_announced : ∀ d ∈ [true, false], (announced d).fabric.announces.all (fun a => a.ackDue == d) = true ∧ (announced d).fabric.outstanding = [] ∧ (announced d).fabric.peers = [] ∧ (announced d).fabric.bulk = [] ∧ (announced d).fabric.stumps = [] := by
  decide +kernel

/-! ### Witnesses: replies, the fabric, admin commands, device events -/

/-- The package with one access of the cord at package 1 in flight under TAG 9. -/
def remote (op : Nat) (mop : MemOp) (naks : Nat) : State :=
  let s := joined atRest
  { s with
    cord := { s.cord with flights := [{ walkFlight (.sent 1 9) with op := mop, dest := .none }] }
    fabric := { s.fabric with outstanding := [{ op := op, req := reqOf (fun r => { r with src := 0, dst := 1 }), waiter := .access loadCord 1 0 false, naks := naks, held := false, bulk := false }] } }
/-- An answer to it. -/
def answerOf (bs : List Byte) : Resp := { src := 1, dst := 0, tag := 9, size := 0, payload := bs }
/-- The hypotheses that its answers share. -/
def remoteHyps (op : Nat) (mop : MemOp) (naks : Nat) : Bool :=
  let s := remote op mop naks
  !s.fabric.outcomes.contains ((1 : PkgNo), (9 : BitVec 14)) && (answered s.fabric 1 9).any (fun o => o.op == op && o.naks == naks && decide (o.waiter = .access s.cord.id 1 0 false)) && s.cord.live && s.cord.flights.length == 1 &&
    s.cord.flights.all (fun f => f.id == 1 && decide (f.op = mop) && f.lanes.length == 1 && f.lanes.all (fun l => l.lane == 0)) && (answerOf []).dst == s.fabric.num
theorem wit_Replies_answers : remoteHyps 0x03 .store 0 = true ∧ remoteHyps 0x04 (.atom 0) 0 = true ∧ remoteHyps 0x04 (.atom 0) 3 = true := by decide +kernel
theorem wit_Replies_redirect : newerGen atRest.fabric 1 1 = true ∧ newerGen { atRest.fabric with gens := [(1, 5)] } 1 5 = false ∧ newerGen { atRest.fabric with gens := [(1, 5)] } 1 6 = true ∧ atRest.fabric.outstanding = [] := by
  decide +kernel

/-- The first 32 bytes of that flit with its CRC taken as 0. -/
def flitHead : List Byte := bytesOfNat 32 (2 ^ 118 + 2 ^ 121 + 2 ^ 128 * (3 * 2 ^ 120))
theorem crc_flitHead : flitHead.foldl crcByte 0xFFFFFFFF#32 = 290265935#32 := by decide +kernel
theorem crc_zeros0 : (List.replicate 38 (0 : Byte)).foldl crcByte 290265935#32 = 2426004787#32 := by decide +kernel
theorem crc_zeros1 : (List.replicate 38 (0 : Byte)).foldl crcByte 2426004787#32 = 2834306631#32 := by decide +kernel
theorem crc_zeros2 : (List.replicate 38 (0 : Byte)).foldl crcByte 2834306631#32 = 2425632669#32 := by decide +kernel
theorem crc_zeros3 : (List.replicate 38 (0 : Byte)).foldl crcByte 2425632669#32 = 137908250#32 := by decide +kernel
theorem crc_zeros4 : (List.replicate 38 (0 : Byte)).foldl crcByte 137908250#32 = 2975362296#32 := by decide +kernel
theorem crc_zeros5 : (List.replicate 38 (0 : Byte)).foldl crcByte 2975362296#32 = 780481976#32 := by decide +kernel
theorem crc_zeros6 : (List.replicate 38 (0 : Byte)).foldl crcByte 780481976#32 = 73994670#32 := by decide +kernel
theorem crc_zeros7 : (List.replicate 38 (0 : Byte)).foldl crcByte 73994670#32 = 2499258588#32 := by decide +kernel
theorem crc_zeros8 : (List.replicate 38 (0 : Byte)).foldl crcByte 2499258588#32 = 3576591534#32 := by decide +kernel
theorem crc_zeros9 : (List.replicate 38 (0 : Byte)).foldl crcByte 3576591534#32 = 4098289245#32 := by decide +kernel
theorem crc_zeros10 : (List.replicate 38 (0 : Byte)).foldl crcByte 4098289245#32 = 1665526713#32 := by decide +kernel
theorem crc_zeros11 : (List.replicate 38 (0 : Byte)).foldl crcByte 1665526713#32 = 1254654596#32 := by decide +kernel
theorem crc_zeros12 : (List.replicate 38 (0 : Byte)).foldl crcByte 1254654596#32 = 3321435248#32 := by decide +kernel
theorem crc_zeros13 : (List.replicate 38 (0 : Byte)).foldl crcByte 3321435248#32 = 1241968151#32 := by decide +kernel
theorem crc_zeros14 : (List.replicate 38 (0 : Byte)).foldl crcByte 1241968151#32 = 1478922527#32 := by decide +kernel
theorem crc_zeros15 : (List.replicate 38 (0 : Byte)).foldl crcByte 1478922527#32 = 3763573049#32 := by decide +kernel
/-- A whole flit of package 1 with SEQ 0. -/
def goodFlit : List Byte := bytesOfNat 32 (2 ^ 32 * 531394246 + 2 ^ 118 + 2 ^ 121 + 2 ^ 128 * (3 * 2 ^ 120)) ++ List.replicate 608 0
theorem crc_goodFlit : crc32 (goodFlit.take 4 ++ List.replicate 4 0 ++ goodFlit.drop 8) = 531394246#32 := by
  have h : goodFlit.take 4 ++ List.replicate 4 0 ++ goodFlit.drop 8 = flitHead ++ (List.replicate 38 0 ++ (List.replicate 38 0 ++ (List.replicate 38 0 ++ (List.replicate 38 0 ++ (List.replicate 38 0 ++ (List.replicate 38 0 ++ (List.replicate 38 0 ++ (List.replicate 38 0 ++ (List.replicate 38 0 ++ (List.replicate 38 0 ++ (List.replicate 38 0 ++ (List.replicate 38 0 ++ (List.replicate 38 0 ++ (List.replicate 38 0 ++ (List.replicate 38 0 ++ (List.replicate 38 0)))))))))))))))) := by decide +kernel
  rw [h, crc32]
  simp only [List.foldl_append, crc_flitHead, crc_zeros0, crc_zeros1, crc_zeros2, crc_zeros3, crc_zeros4, crc_zeros5, crc_zeros6, crc_zeros7, crc_zeros8, crc_zeros9, crc_zeros10, crc_zeros11,
    crc_zeros12, crc_zeros13, crc_zeros14, crc_zeros15]
  decide
theorem wit_Fabric_flit : flitOk goodFlit = true := by
  rw [flitOk, crc_goodFlit]
  decide +kernel
theorem wit_Fabric_flit_fields : flitSrc goodFlit = 1 ∧ flitSequenced goodFlit = true ∧ flitSeq goodFlit = (peerOf (joined atRest).fabric 1).expect := by decide +kernel
theorem wit_Fabric_bad_flit : flitOk [] = false := by decide +kernel
/-- The package in a pod with its node partner 1 over a trained link, and package 4 of another node, which has opened the dwell on fibre 1. -/
def podOf : State := { joined atRest with fabric := { (joined atRest).fabric with present := [0, 1, 4], links := (Vector.replicate 3 .idle).set 0 .up, openers := [(1, 4)] } }
theorem wit_Fabric_flit_state : podOf.fabric.joined = true ∧ portLit podOf (.link 0) = true ∧ portPeer podOf.fabric (.link 0) = some 1 ∧ portLit podOf (.fibre 1) = true ∧
    portPeer podOf.fabric (.fibre 1) = some 4 ∧ flitField goodFlit 120 1 = 0 ∧ (peerOf podOf.fabric 1).early = [] ∧ (peerOf podOf.fabric 1).expect = 0 := by decide +kernel
theorem wit_Fabric_fibre : fibreDark podOf 1 = false ∧ podOf.fabric.present.contains 4 = true ∧ sameNode 4 podOf.fabric.num = false ∧
    matchingOf podOf.fabric.num.toNat (4 : PkgNo).toNat = switchMatching podOf.fabric (1 : BitVec 7).toNat := by decide +kernel
theorem wit_Fabric_relay : portTo podOf 4 = some (.fibre 1) ∧ portTo podOf 5 = none ∧ portTo podOf 1 = some (.link 0) := by decide +kernel
/-- A flit to package 1 that a port carried and that has failed 16 times, and the state of its link. -/
def worn (st : LinkState) (via : Port) : State :=
  { podOf with fabric := { podOf.fabric with links := Vector.replicate 3 st, peers := [{ newPeer 1 with sent := [{ seq := 0, bytes := [], msgs := [.neg { src := 0, requester := 1, tag := 0, code := 9, sub := 1 }], port := via, fails := 16, failed := true, due := true }] }] } }
theorem wit_Fabric_worn : portWorn (worn .up (.link 0)).fabric (.link 0) = true ∧ portPeer (worn .up (.link 0)).fabric (.link 0) = some 1 ∧ (worn .up (.link 0)).fabric.links.getD 0 .up = .up ∧
    (worn .retraining (.link 0)).fabric.links.getD 0 .up = .retraining ∧ portPeer (worn .retraining (.link 0)).fabric (.link 0) = some 1 ∧ portWorn (worn .up (.fibre 1)).fabric (.fibre 1) = true ∧
    (worn .up (.fibre 1)).fabric.failedFibres.contains 1 = false ∧ (worn .retraining (.link 0)).mgmt.journal = none ∧ (worn .retraining (.link 0)).mgmt.events = none := by decide +kernel

/-- An admin command: OP, the tag 0xABCD and parameters as offset, width and value. -/
def adminCmd (op : Nat) (ps : List (Nat × Nat × Nat)) : AdminCmd := BitVec.ofNat 512 (op + 2 ^ 32 * 0xABCD + ps.foldl (fun a p => a + p.2.2 * 2 ^ (8 * p.1)) 0)
/-- Whether a command has its OP and names its parameters only. -/
def adminFits (c : AdminCmd) (op : Nat) (names : List (Nat × Nat)) : Bool := cmdField c 0 2 == op && onlyNamed c names
/-- CREATEQ for a queue. -/
def createCmd (q : Nat) : AdminCmd := adminCmd 0x01 [(8, 2, q), (10, 1, 15), (12, 4, 0xFFFFF), (16, 8, 2097152), (24, 1, 16), (25, 1, 4), (26, 2, 0xFFFF), (32, 8, 2101248), (48, 4, 99232)]
theorem wit_Admin_createq : adminFits (createCmd 16383) 0x01 [(8, 2), (10, 1), (12, 4), (16, 8), (24, 1), (25, 1), (26, 2), (32, 8), (40, 8), (48, 4)] = true ∧ createqOk (createCmd 16383) = true ∧
    createqOk (createCmd 0) = false ∧ adminFits (createCmd 0) 0x01 [(8, 2), (10, 1), (12, 4), (16, 8), (24, 1), (25, 1), (26, 2), (32, 8), (40, 8), (48, 4)] = true ∧
    (findQueue ready (cmdQueue (createCmd 16383))).isNone = true := by decide +kernel
theorem wit_Admin_queues : ∀ op ∈ [2, 3, 4], adminFits (adminCmd op [(8, 2, 1)]) op [(8, 2)] = true ∧ 1 ≤ cmdField (adminCmd op [(8, 2, 1)]) 8 2 ∧ cmdField (adminCmd op [(8, 2, 1)]) 8 2 < 16384 := by
  decide +kernel
theorem wit_Admin_queues_there : (findQueue (withQueue id) (cmdQueue (adminCmd 2 [(8, 2, 1)]))).isSome = true ∧ openLaunches (withQueue id) 1 = [] ∧ namesQueue (withQueue id) (adminCmd 2 [(8, 2, 9)]) = false := by
  decide +kernel
/-- RESERVE of a save area. -/
def reserveCmd (kind base : Nat) : AdminCmd := adminCmd 0x05 [(8, 4, 1), (12, 1, kind), (13, 1, 3), (14, 1, 15), (15, 1, 3), (16, 8, base), (24, 8, 2162688)]
theorem wit_Admin_reserve : let names := [(8, 4), (12, 1), (13, 1), (14, 1), (15, 1), (16, 8), (24, 8), (32, 4)]
    adminFits (reserveCmd 0 2162688) 0x05 names = true ∧ reserveOk (reserveCmd 0 2162688) = true ∧ (coreOf atRest (reserveCore (reserveCmd 0 2162688))).resv = [] ∧
      adminFits (reserveCmd 3 0) 0x05 names = true ∧ reserveOk (reserveCmd 3 0) = false := by decide +kernel
theorem wit_Admin_loadhandler : let c := adminCmd 0x06 [(8, 8, 4096), (16, 4, 64), (20, 4, 60)]
    adminFits c 0x06 [(8, 8), (16, 4), (20, 4)] = true ∧ cmdField c 8 8 % 4 = 0 ∧ cmdField c 8 8 < 2 ^ 57 ∧ cmdField c 16 4 % 4 = 0 ∧ cmdField c 20 4 % 4 = 0 ∧ cmdField c 20 4 < cmdField c 16 4 := by decide +kernel
theorem wit_Admin_setbanks : let c := adminCmd 0x07 [(8, 1, 3), (9, 1, 15), (12, 4, 0x55)]
    adminFits c 0x07 [(8, 1), (9, 1), (12, 4)] = true ∧ cmdField c 8 1 ≤ 3 ∧ cmdField c 9 1 ≤ 15 := by decide +kernel
theorem wit_Admin_setquantum : ∀ v ∈ [0, 12, 30], let c := adminCmd 0x08 [(8, 1, v)]; adminFits c 0x08 [(8, 1)] = true ∧ (cmdField c 8 1 = 0 ∨ (12 ≤ cmdField c 8 1 ∧ cmdField c 8 1 ≤ 30)) := by decide +kernel
theorem wit_Admin_pri : let c := adminCmd 0x09 [(8, 1, 3), (9, 1, 1), (12, 4, 9)]; adminFits c 0x09 [(8, 1), (9, 1), (12, 4)] = true ∧ cmdField c 8 1 ≤ 3 ∧ cmdField c 9 1 ≤ 1 := by decide +kernel
theorem wit_Admin_stripe : let c := adminCmd 0x0A [(8, 8, 4194304), (16, 4, 1), (20, 1, 0)]
    adminFits c 0x0A [(8, 8), (16, 4), (20, 1)] = true ∧ cmdField c 8 8 % 2097152 = 0 ∧ cmdField c 8 8 < 2 ^ 57 ∧ 1 ≤ cmdField c 16 4 ∧ cmdField c 20 1 ≤ 31 ∧ nodePackages (joined atRest).fabric (cmdField c 20 1) ≠ [] := by
  decide +kernel
theorem wit_Admin_migrate : let c := adminCmd 0x0B [(8, 8, 77), (16, 1, 127), (17, 1, 7), (24, 8, 4096)]
    adminFits c 0x0B [(8, 8), (16, 1), (17, 1), (24, 8)] = true ∧ cmdField c 8 8 < 2 ^ 36 ∧ cmdField c 16 1 ≤ 127 ∧ cmdField c 17 1 ≤ 7 ∧ cmdField c 24 8 % 4 = 0 ∧ cmdField c 24 8 < 2 ^ 57 := by decide +kernel
theorem wit_Admin_power : (let c := adminCmd 0x0C [(9, 1, 3), (12, 4, 17)]; adminFits c 0x0C [(8, 1), (9, 1), (12, 4)] = true ∧ cmdField c 8 1 = 0 ∧ cmdField c 9 1 ≤ 3 ∧ 8 ≤ cmdField c 12 4 ∧ cmdField c 12 4 ≤ 17) ∧
    (let c := adminCmd 0x0C [(8, 1, 1), (9, 1, 3), (10, 1, 15), (12, 4, 0x1FFFF)]; adminFits c 0x0C [(8, 1), (9, 1), (10, 1), (12, 4)] = true ∧ cmdField c 8 1 = 1 ∧ cmdField c 9 1 ≤ 3 ∧ cmdField c 10 1 ≤ 15 ∧ cmdField c 12 4 < 2 ^ 17) ∧
    (∀ k ∈ [0, 8, 24], let c := adminCmd 0x0C [(8, 1, 2), (12, 4, k)]; adminFits c 0x0C [(8, 1), (12, 4)] = true ∧ cmdField c 8 1 = 2 ∧ cmdField c 12 4 = k) ∧
    (let c := adminCmd 0x0C [(8, 1, 3), (12, 4, 255)]; adminFits c 0x0C [(8, 1), (12, 4)] = true ∧ cmdField c 8 1 = 3 ∧ cmdField c 12 4 < 256) := by decide +kernel
theorem wit_Admin_observe : (let c := adminCmd 0x0D [(12, 4, 24), (16, 8, 4096), (24, 1, 20)]; adminFits c 0x0D [(8, 1), (12, 4), (16, 8), (24, 1)] = true ∧ cmdField c 12 4 = 24 ∧ cmdField c 16 8 = 4096 ∧ cmdField c 24 1 = 20) ∧
    (let c := adminCmd 0x0D []; adminFits c 0x0D [(8, 1), (12, 4), (16, 8), (24, 1)] = true ∧ cmdField c 8 1 = 0 ∧ cmdField c 12 4 = 0) ∧
    (let c := adminCmd 0x0D [(8, 1, 1), (16, 8, 4096), (24, 1, 6)]; adminFits c 0x0D [(8, 1), (16, 8), (24, 1)] = true ∧ cmdField c 8 1 = 1 ∧ cmdField c 16 8 = 4096 ∧ cmdField c 24 1 = 6) ∧
    (let c := adminCmd 0x0D [(8, 1, 2), (16, 8, 2097152), (25, 1, 7), (32, 16, 1)]; adminFits c 0x0D [(8, 1), (16, 8), (25, 1), (32, 16)] = true ∧ cmdField c 8 1 = 2 ∧ cmdField c 16 8 = 2097152 ∧ cmdField c 25 1 < 8 ∧
      (sliceAt atRest (cmdField c 16 8)).any (fun h => watchFree atRest h.1 h.2) = true) ∧
    (let c := adminCmd 0x0D [(8, 1, 3), (16, 8, 256)]; adminFits c 0x0D [(8, 1), (16, 8)] = true ∧ cmdField c 8 1 = 3 ∧ cmdField c 16 8 % 128 = 0) ∧
    (let c := adminCmd 0x0D [(8, 1, 4), (12, 4, 7)]; adminFits c 0x0D [(8, 1), (12, 4)] = true ∧ cmdField c 8 1 = 4 ∧ cmdField c 12 4 < 8) := by decide +kernel
theorem wit_Admin_stop : (let c := adminCmd 0x0E [(8, 1, 3), (9, 1, 15), (10, 1, 3), (11, 1, 3), (16, 8, 4096), (24, 4, 16416)]
      adminFits c 0x0E [(8, 1), (9, 1), (10, 1), (11, 1), (12, 1), (16, 8), (24, 4)] = true ∧ stopOk c 0 = true ∧ cmdField c 16 8 % 64 = 0 ∧ cmdField c 16 8 < 2 ^ 57 ∧ 16416 ≤ cmdField c 24 4) ∧
    (let c := adminCmd 0x0E [(12, 1, 1)]; adminFits c 0x0E [(8, 1), (9, 1), (10, 1), (11, 1), (12, 1)] = true ∧ stopOk c 1 = true) ∧ atRest.mgmt.journal.isNone = true ∧ Memory.wf atRest.mem = true := by decide +kernel
theorem wit_Admin_journal : let c := adminCmd 0x0F [(8, 8, 4096), (16, 1, 20)]
    adminFits c 0x0F [(8, 8), (16, 1)] = true ∧ cmdField c 8 8 % 32 = 0 ∧ cmdField c 8 8 < 2 ^ 57 ∧ 6 ≤ cmdField c 16 1 ∧ cmdField c 16 1 ≤ 20 := by decide +kernel

/-- Every admin command with its OP, a byte set that no command names, and OP 0: out of form. -/
def adminOps : List (Nat × List (Nat × Nat)) :=
  [(0x01, [(8, 2), (10, 1), (12, 4), (16, 8), (24, 1), (25, 1), (26, 2), (32, 8), (40, 8), (48, 4)]), (0x02, [(8, 2)]), (0x03, [(8, 2)]), (0x04, [(8, 2)]),
    (0x05, [(8, 4), (12, 1), (13, 1), (14, 1), (15, 1), (16, 8), (24, 8), (32, 4)]), (0x06, [(8, 8), (16, 4), (20, 4)]), (0x07, [(8, 1), (9, 1), (12, 4)]), (0x08, [(8, 1)]),
    (0x09, [(8, 1), (9, 1), (12, 4)]), (0x0A, [(8, 8), (16, 4), (20, 1)]), (0x0B, [(8, 8), (16, 1), (17, 1), (24, 8)]), (0x0C, [(8, 1), (9, 1), (12, 4)]), (0x0C, [(8, 1), (9, 1), (10, 1), (12, 4)]),
    (0x0C, [(8, 1), (12, 4)]), (0x0D, [(8, 1), (12, 4), (16, 8), (24, 1)]), (0x0D, [(8, 1), (16, 8), (24, 1)]), (0x0D, [(8, 1), (16, 8), (25, 1), (32, 16)]), (0x0D, [(8, 1), (16, 8)]), (0x0D, [(8, 1), (12, 4)]),
    (0x0E, [(8, 1), (9, 1), (10, 1), (11, 1), (12, 1), (16, 8), (24, 4)]), (0x0E, [(8, 1), (9, 1), (10, 1), (11, 1), (12, 1)]), (0x0F, [(8, 8), (16, 1)])]
theorem wit_Admin_invalid : (∀ x ∈ adminOps, adminFits (adminCmd x.1 [(63, 1, 1)]) x.1 x.2 = false ∧ adminFits (adminCmd 0 []) x.1 x.2 = false) ∧
    (∀ v ∈ [1, 11, 31], let c := adminCmd 0x08 [(8, 1, v)]; adminFits c 0x08 [(8, 1)] = true ∧ ¬(cmdField c 8 1 = 0 ∨ (12 ≤ cmdField c 8 1 ∧ cmdField c 8 1 ≤ 30))) ∧
    (let c := adminCmd 0x07 [(8, 1, 4)]; adminFits c 0x07 [(8, 1), (9, 1), (12, 4)] = true ∧ ¬ cmdField c 8 1 ≤ 3) ∧ cmdField (adminCmd 0x10 []) 0 2 = 0x10 := by decide +kernel
/-- Each of them then completes with STATUS 6. -/
theorem test_admin_invalid : ∀ i ∈ [Instr.createq 0, .destroyq 0, .suspendq 0, .resumeq 0, .reserve 0, .loadhandler 0, .setbanks 0, .setquantum 0, .pri 0, .stripe 0, .migrate 0, .powerClock 0, .powerPark 0,
    .powerRetain 0, .powerSleep 0, .observeSampler 0, .observeEventRing 0, .observeArmWatchpoint 0, .observeDisarmWatchpoint 0, .observeClearCounters 0, .stop 0, .stopResume 0, .journal 0],
    (after i atRest).completions.map (fun k => (k.queue, k.status)) = [(0, 6)] := by decide +kernel

/-- The package with its management changed. -/
def managed (f : Mgmt → Mgmt) : State := { atRest with mgmt := f atRest.mgmt }
theorem wit_Device_clock : (dieOf { atRest with dies := atRest.dies.set 0 { Die.reset with clockNext := some 17 } } 0).clockNext = some 17 := by decide +kernel
theorem wit_Device_park : let s := setPart atRest 1023 (fun p => { p with parking := true })
    (partOf s 1023).parking = true ∧ (partOf s 1023).parked = false ∧ partBusy s 1023 = false := by decide +kernel
theorem wit_Device_fibres : let s := { worn .up (.link 0) with mgmt := { atRest.mgmt with sleepAsked := 0x80, asleep := 1, waking := 1 } }
    s.mgmt.sleepAsked.getLsbD 7 = true ∧ s.mgmt.asleep.getLsbD 7 = false ∧ (∀ x ∈ s.fabric.peers, ∀ y ∈ x.sent, groupPort 7 y.port = false) ∧ s.mgmt.waking.getLsbD 0 = true := by decide +kernel
theorem wit_Device_sampler : (managed (fun m => { m with sampler := some (8, { base := 4096, log2 := 6 }), sampleIndex := 63 })).mgmt.sampler = some (8, { base := 4096, log2 := 6 }) ∧ 63 < 2 ^ 6 ∧ 2 ^ 6 ≤ 64 ∧
    Memory.wf atRest.mem = true := by decide +kernel
theorem wit_Device_sampler_calm : let s := managed (fun m => { m with sampler := some (8, { base := 4096, log2 := 6 }), sampleIndex := 63 }); calm s ∧ ownsAt s (4096 + 16 * 63) :=
  ⟨⟨rfl, rfl, rfl, rfl, rfl, rfl, rfl⟩, by unfold ownsAt; decide +kernel⟩
/-- Marked storage counted to its threshold. -/
def countedOut : ErrCount := { cls := .mark, count := 4, threshold := some 4, vector := some 9, raised := false }
/-- The package with it, and vector 9 of the MSI-X table. -/
def thresholdMet (masked : Bool) : State := managed (fun m => { m with errors := [countedOut], msixTable := [{ vector := 9, addr := 64, data := 1, masked := masked }] })
theorem wit_Device_errors : ∀ b ∈ [false, true], (thresholdMet b).mgmt.errors.find? (fun e => e.cls == .mark) = some countedOut ∧ countedOut.raised = false ∧ 4 ≤ countedOut.count ∧ msixMasked (thresholdMet b) 9 = b := by
  decide +kernel
/-- A watchpoint hit. -/
def oneHit : WatchHit := { addr := 4096, kind := 1, cls := 1, pkg := 0, clock := 3 }
theorem wit_Device_hits : (managed (fun m => { m with hits := [oneHit], events := some { base := 8192, log2 := 6 } })).mgmt.hits = oneHit :: [] ∧ atRest.mgmt.events = none := by decide +kernel
/-- A firmware image of four bytes. -/
def image (crc : Nat) : List Byte := bytesOfNat 16 (0x454E0001 + 2 ^ 32 * 4 + 2 ^ 64 * crc + 2 ^ 96 * 0x04030201)
theorem wit_Device_firmware : State.reset.mgmt.step = 2 ∧ imageOk (image (crc32 [1, 2, 3, 4]).toNat) = true ∧ imageOk (image 0) = false ∧ (managed (fun m => { m with step := 4 })).mgmt.step = 4 := by decide +kernel
theorem wit_Device_mailbox : let a : AdminRings := { ring := 64, q := 16, comp := 32, c := 4, vector := some 2047 }
    a.ring % 64 = 0 ∧ a.comp % 32 = 0 ∧ 4 ≤ a.q ∧ a.q ≤ 16 ∧ 4 ≤ a.c ∧ a.c ≤ 16 ∧ (∀ v, a.vector = some v → v < 2048) := by
  refine ⟨rfl, rfl, by decide, by decide, by decide, by decide, ?_⟩
  intro v h; injection h with h; subst h; decide
/-- Step 4 with everything set. -/
def bringUp : State :=
  let s := managed (fun m => { m with step := 4, countsSet := true, deckSet := true })
  { s with queues := [{ Queue.reset with num := 0, live := true, q := 4, c := 4 }] }
theorem wit_Device_join : stepFourOver bringUp = true ∧ bringUp.mgmt.step = 4 ∧ (∀ p : PkgNo, p = 5 ∨ (∃ m ∈ [((4 : PkgNo), [65536]), (0, [])], m.1 = p) → position p = 0 ∨ (p - 1 = 5 ∨ ∃ m ∈ [((4 : PkgNo), [65536]), (0, [])], m.1 = p - 1)) ∧
    position 45 ≠ 0 ∧ ¬ ((45 : PkgNo) - 1 = 45 ∨ ∃ m ∈ ([] : List (PkgNo × List Nat)), m.1 = 45 - 1) := by decide +kernel

/-! ### The machine -/

theorem wit_ClzAndPopc_illegal : (∀ fn ∈ [3#4, 4#4], ∀ x ∈ [(1#6, 0#4), (0#6, 8#4), (63#6, 15#4)], x.1 ≠ 0 ∨ x.2 ≠ 0) ∧ quietCord withImage.cord ∧ trapRoom withImage := ⟨by decide +kernel, withImage_quiet, withImage_room⟩
theorem wit_ClzAndPopc_values : let s := putRegs [(1, 0x80000000), (2, 1), (3, 0)] atRest
    reg s 3 = 0 ∧ (reg s 1).getLsbD 31 = true ∧ (reg s 2).getLsbD 0 = true ∧ (∀ j, j < 32 → 0 < j → (reg s 2).getLsbD j = false) := by decide +kernel

/-- A state whose next step fetches a word. -/
def placed (n w : Nat) : State := State.reset.withFetchWord n w
/-- What the turn at the head of an agenda fetches, with the state it leaves. -/
def turnFetch (s : State) : Option (Fetched × State) :=
  match s.agenda with
  | .scalar c f :: rest => (actingFrag c f { s with agenda := rest }).map (fun t => fetchText .scalar (t.cord.text + t.cord.frag.pc.setWidth 64) 4 t)
  | .lane c f :: rest => (actingFrag c f { s with agenda := rest }).bind (fun t => t.cord.frag.queue.head?.map (fun b => fetchText .lane (laneWordAddr t.cord (b.first + b.done)) 12 t))
  | _ => none
/-- A scalar turn fetches a word that decodes to an instruction, which the scoreboard holds or not. -/
def scalarTurnHyps (s : State) (w : Nat) (i : Instr) (held : Bool) : Bool :=
  (turnFetch s).any (fun x => x.1 == .word w && x.2.cord.frag.status == .running && (scalarStall x.2 i).isSome == held) &&
    (decodeScalar (BitVec.ofNat 32 w)).toOption == some i && wellFormed i
theorem wit_Step_scalar : scalarTurnHyps (placed 32 0x08518030) 0x08518030 (.clz 5 6) false = true := by decide +kernel
theorem wit_Step_illegal : (turnFetch (placed 32 0)).any (fun x => x.1 == .word 0 && (scalarStall x.2 (.illegalInstruction (.scalar 0))).isNone) = true ∧ (decodeScalar 0#32).toOption = none := by decide +kernel
/-- The same word with a load to s6 under way. -/
def heldFetch : State :=
  let s := placed 32 0x08518030
  { s with cord := { s.cord with flights := [{ id := 1, frag := s.cord.frag.id, stream := .scalar, pc := 0, isY := false, ord := (0, 0), splits := [], la := 0, op := .load, scope := 0, size := 4, signed := false, dest := .sreg s.cord.frag.bank 6, lanes := [newLane 0 2097152 0], paths := [] }] } }
theorem wit_Step_scalar_held : scalarTurnHyps heldFetch 0x08518030 (.clz 5 6) true = true := by decide +kernel
/-- VADD.i32 v3, v1, v2. -/
def vaddWord : Nat := 2 ^ 84 * 0x010 + 2 ^ 76 * 3 + 2 ^ 68 * 1 + 2 ^ 60 * 2
/-- Its instruction. -/
def vaddInstr : Instr := .vadd { vd := 3, va := 1, vb := 2, vc := 0, pneg := false, pidx := 0, la := 0, ss := 0, ty := .i32, var := .base, imm := 0, compact := false }
/-- A lane turn fetches that word. -/
def laneTurnHyps (s : State) (ready : Bool) : Bool :=
  (turnFetch s).any (fun x => x.1 == .word vaddWord && laneReady x.2 vaddInstr == ready && pipesReady x.2 vaddInstr) && (decodeLane (BitVec.ofNat 96 vaddWord)).toOption == some vaddInstr && wellFormed vaddInstr
theorem wit_Step_lane : laneTurnHyps (placed 96 vaddWord) true = true := by decide +kernel
/-- The same word with a load to v1 under way. -/
def heldLane : State :=
  let s := placed 96 vaddWord
  { s with cord := { s.cord with flights := [{ id := 1, frag := s.cord.frag.id, stream := .lane, pc := 0, isY := false, ord := (0, 0), splits := [], la := 0, op := .load, scope := 0, size := 4, signed := false, dest := .vreg 1, lanes := [newLane 0 2097152 0], paths := [] }] } }
/-- The same word while earlier words hold every pipe. -/
def busyPipes : State := setPart (placed 96 vaddWord) 0 (fun p => { p with pipeA := 9, pipeB := 9, pipeX := 9 })
theorem wit_Step_lane_pipes : (turnFetch busyPipes).any (fun x => x.1 == .word vaddWord && laneReady x.2 vaddInstr && !pipesReady x.2 vaddInstr) = true := by decide +kernel
theorem wit_Step_lane_held : laneTurnHyps heldLane false = true := by decide +kernel
theorem wit_Step_host : (placed 32 0x0000350B).agenda = [.host 0 0x0000350B] ∧ (decodeHost 0x0000350B#32).toOption = some (.htxs 10) ∧ hostHolds 0 (placed 32 0x0000350B) = false ∧ (placed 32 0x0000350B).hostWait = [] := by decide +kernel
theorem wit_Step_empty : State.reset.agenda = [] := rfl
theorem wit_Step_text : globalRange 2097152#64 4 = true ∧ (2097152#64).toNat % 128 + 4 ≤ 128 ∧ cached atRest (thisCore atRest) atRest.cord.pasid 2097152 4 = some 2097152 ∧ calm atRest ∧ ownsAt atRest 2097152 ∧ atRest.cord.id.handler = false ∧ (∀ line, oldValues atRest line = []) :=
  ⟨by decide +kernel, by decide, by decide +kernel, atRest_calm, atRest_owns, rfl, fun _ => rfl⟩
theorem wit_DecodeAndEncode : wellFormed vaddInstr = true ∧ encode vaddInstr = some (.lane (BitVec.ofNat 96 vaddWord)) ∧ wellFormed (.htxs 10) = true ∧ encode (.htxs 10) = some (.host 0x0000350B) := by decide +kernel
theorem wit_Memory_two : Memory.wf ([] : Memory) = true ∧ (∀ a, memGet [] a = memGet [] a) := ⟨rfl, fun _ => rfl⟩
theorem wit_Memory_steps : State.reset.memOk := rfl

/-! ### Decoding: words of the manual's examples and tables (13_encoding.md, and the entries of chapters 14 to 17) -/

/-- Each word decodes to its instruction, which is well formed and has that word. -/
def scalarWords (ws : List (Nat × Instr)) : Bool :=
  ws.all (fun x => (decodeScalar (BitVec.ofNat 32 x.1)).toOption == some x.2 && wellFormed x.2 && encode x.2 == some (.scalar (BitVec.ofNat 32 x.1)))

theorem test_decode_op01 : scalarWords [(0x04518700, .add 5 6 7), (0x04518710, .sub 5 6 7), (0x04518720, .and 5 6 7), (0x04518730, .or 5 6 7), (0x04518740, .xor 5 6 7), (0x04518750, .shl 5 6 7),
    (0x04518760, .shr 5 6 7), (0x04518770, .sar 5 6 7), (0x04518780, .min 5 6 7), (0x04518790, .max 5 6 7), (0x045187A0, .minn 5 6 7), (0x045187B0, .maxn 5 6 7), (0x045187C0, .slt 5 6 7),
    (0x045187D0, .sltn 5 6 7), (0x045187E0, .seq 5 6 7), (0x045187F0, .sel 5 6 7)] = true := by decide +kernel
theorem test_decode_op02 : scalarWords [(0x08518703, .mul 5 6 7 3), (0x08518710, .mulh 5 6 7 0), (0x08518720, .mulhn 5 6 7 0), (0x08518030, .clz 5 6), (0x08518040, .popc 5 6), (0x08418850, .dadd 4 6 8),
    (0x08418860, .dsub 4 6 8)] = true := by decide +kernel
theorem test_decode_imm : scalarWords [(0x0C51BFFC, .addImm 5 6 (-4)), (0x105180FF, .andImm 5 6 0xFF), (0x14518678, .orImm 5 6 0x678), (0x185180FF, .xorImm 5 6 0xFF), (0x1C518003, .shlImm 5 6 3),
    (0x20518003, .shrImm 5 6 3), (0x24518003, .sarImm 5 6 3), (0x2851BFFF, .sltImm 5 6 (-1)), (0x2C51800A, .sltnImm 5 6 10), (0x30518000, .seqImm 5 6 0), (0x34518104, .bfx 5 6 8 4),
    (0x38518208, .bfi 5 6 16 8), (0x3C5FFFFF, .li 5 (-1)), (0x40512345, .lih 5 0x12345)] = true := by decide +kernel
theorem test_decode_memory : scalarWords [(0x44420042, .ldw 4 8 4 2), (0x48623FF0, .ldd 6 8 (-1) 0), (0x4C520020, .stw 5 8 2 0), (0x50620020, .std 6 8 2 0), (0x54520001, .stn 5 8 0 1), (0x580207A1, .atomClu 0 8 7 10 1),
    (0x5C520700, .atomDie 5 8 7 0 0), (0x60520690, .atomPkg 5 8 6 9 0), (0x64520710, .atomNode 5 8 7 1 0), (0x68520780, .atomPod 5 8 7 8 0)] = true := by decide +kernel
theorem test_decode_control : scalarWords [(0x6C000005, .b 5), (0x70000010, .call 16), (0x7431FFFD, .bc 3 1 0xFFFD), (0x78808020, .bd 1 0 16 32), (0x7C020000, .bx 8), (0x7C020010, .callr 8), (0x7C000020, .ret),
    (0x7C000030, .exit), (0x7C000040, .nop), (0x7C000050, .trap), (0x7C000060, .tret)] = true := by decide +kernel
theorem test_decode_sync : scalarWords [(0x80000500, .fenceAcq 5), (0x80000110, .fenceRel 1), (0x80000520, .fenceFull 5), (0x80030930, .bari 12 9), (0x80130A40, .arv 1 12 10), (0x80230B50, .waitb 2 12 11),
    (0x80100760, .wpath 1 7), (0x80518770, .rngw 5 6 7), (0x80C00080, .lot 12), (0x80030090, .wlot 12)] = true := by decide +kernel
theorem test_decode_system : scalarWords [(0x84503000, .mfs 5 48), (0x84019A10, .mts 6 26), (0x84020920, .lq 8 9), (0x84518030, .gjoin 5 6), (0x84500040, .gleave 5), (0x84018850, .sndm 6 8), (0x84920760, .pgmv 9 8 7 0),
    (0x84220370, .txb 2 8 3), (0x84221370, .txbF 2 8 3), (0x84000080, .txc), (0x84000590, .txa 5), (0x849000A0, .txst 9), (0x845187B0, .xrd 5 6 7), (0x845187C0, .xwr 5 6 7), (0x840187D0, .xres 6 7)] = true := by
  decide +kernel
theorem test_decode_engines : scalarWords [(0x88824430, .mma 8 2 4 4 3 0), (0x8C814410, .mmax 8 1 4 4 0), (0x90821A30, .mmlut 8 2 1 10 3 0), (0x94030000, .mmz 3 0), (0x94C00010, .mmld 12 0 0), (0x94C14020, .mmst 12 1 4 0),
    (0x94C14820, .mmstRelu 12 1 4 0), (0x99400100, .cpy 20 1 0), (0x98A00310, .lmtst 10 3 0), (0x98A00320, .lmwt 10 3), (0x98A00330, .lmclr 10 3), (0x9C800400, .gth 8 2 0 0), (0x9C802410, .sct 8 2 2 0 0),
    (0x9C400320, .rdxt 4 3 0), (0x9C400530, .rdxa 4 5 0), (0xA0800A00, .nbcfg 8 1 2 0), (0xA0800210, .nbin 8 0 2 0), (0xA0800220, .npairH 8 0 2 0), (0xA0800D30, .npairF 8 1 5 0), (0xA0800240, .nchk 8 0 2 0),
    (0xA0800250, .nbst 8 2 0), (0xA0800260, .cbinK 8 0 2 0), (0xA0800A70, .cbinL 8 1 2 0)] = true := by decide +kernel
theorem test_decode_host : [(0x0200050B, Instr.htxb 32 10), (0x0000850B, .htxbF 10), (0x0000100B, .htxc), (0x0070200B, .htxa 7), (0x0000350B, .htxs 10)].all (fun x =>
    (decodeHost (BitVec.ofNat 32 x.1)).toOption == some x.2 && encode x.2 == some (.host (BitVec.ofNat 32 x.1))) = true := by decide +kernel

/-- A lane operation by its registers, scalar source, type, variant and immediate. -/
def laneForm (vd va vb vc : VReg) (ss : Reg) (ty : LaneTy) (var : Variant) (imm : Word) : LaneOp :=
  { vd := vd, va := va, vb := vb, vc := vc, pneg := false, pidx := 0, la := 0, ss := ss, ty := ty, var := var, imm := imm, compact := false }
/-- Each word decodes to its instruction, which is well formed and has that word. -/
def laneWords (ws : List (Nat × LaneKind × LaneOp)) : Bool :=
  ws.all (fun x => (decodeLane (BitVec.ofNat 96 x.1)).toOption == some (x.2.1.instr x.2.2) && wellFormed (x.2.1.instr x.2.2) && encode (x.2.1.instr x.2.2) == some (.lane (BitVec.ofNat 96 x.1)))

theorem test_decode_lane_int : laneWords [(0x0100_4050_6000_0000_0000_0000, .vadd, laneForm 4 5 6 0 0 .i32 .base 0),
    (0x0110_4050_6000_0000_0000_0000, .vsub, laneForm 4 5 6 0 0 .i32 .base 0), (0x0120_4050_6000_0000_0000_0000, .vmul, laneForm 4 5 6 0 0 .i32 .base 0),
    (0x0130_4050_6000_0000_0000_0000, .vmulh, laneForm 4 5 6 0 0 .i32 .base 0), (0x0160_4050_6000_0000_0000_0000, .vand, laneForm 4 5 6 0 0 .i32 .base 0),
    (0x0170_4050_6000_0000_0000_0000, .vor, laneForm 4 5 6 0 0 .i32 .base 0), (0x0180_4050_6000_0000_0000_0000, .vxor, laneForm 4 5 6 0 0 .i32 .base 0),
    (0x01A0_4050_6000_0000_0000_0000, .vshr, laneForm 4 5 6 0 0 .i32 .base 0), (0x01B0_4050_6000_0000_0000_0000, .vsar, laneForm 4 5 6 0 0 .i32 .base 0),
    (0x01C0_4050_6000_0000_0000_0000, .vmin, laneForm 4 5 6 0 0 .i32 .base 0), (0x01D0_4050_6000_0000_0000_0000, .vmax, laneForm 4 5 6 0 0 .i32 .base 0),
    (0x0240_4050_6000_0000_0000_0000, .vsel, laneForm 4 5 6 0 0 .i32 .base 0), (0x0140_4050_6000_0008_0000_0000, .vmulhn, laneForm 4 5 6 0 0 .n32 .base 0),
    (0x01E0_4050_6000_0008_0000_0000, .vminn, laneForm 4 5 6 0 0 .n32 .base 0), (0x01F0_4050_6000_0008_0000_0000, .vmaxn, laneForm 4 5 6 0 0 .n32 .base 0)] = true := by decide +kernel
theorem test_decode_lane_int2 : laneWords [(0x0150_4050_6070_0000_0000_0000, .vmad, laneForm 4 5 6 7 0 .i32 .base 0),
    (0x0190_4050_0000_01C0_0000_0000, .vshl, laneForm 4 5 0 0 7 .i32 .base 0), (0x0200_4050_0000_0002_0000_0000, .vabs, laneForm 4 5 0 0 0 .i32 .sat 0),
    (0x0210_4050_0000_0000_0000_0000, .vclz, laneForm 4 5 0 0 0 .i32 .base 0), (0x0220_4050_0000_0000_0000_0000, .vpopc, laneForm 4 5 0 0 0 .i32 .base 0),
    (0x0230_4050_0000_0008_0000_0184, .vbfx, laneForm 4 5 0 0 0 .n32 .base 0x184), (0x0250_4000_6000_0000_0000_0000, .vmov, laneForm 4 0 6 0 0 .i32 .base 0),
    (0x0250_0090_0000_0146_0000_0000, .vmovInd, laneForm 0 9 0 0 5 .i32 .alt6 0), (0x0260_4000_0000_0000_3F80_0000, .vmovs, laneForm 4 0 0 0 0 .i32 .base 0x3F800000),
    (0x0271_2040_5000_0000_0000_0000, .vcmp, laneForm 0x12 4 5 0 0 .i32 .base 0), (0x0281_2040_5000_0008_0000_0000, .vcmpn, laneForm 0x12 4 5 0 0 .n32 .base 0)] = true := by decide +kernel
theorem test_decode_lane_float : laneWords [(0x0400_4050_6000_0010_0000_0000, .vfadd, laneForm 4 5 6 0 0 .f32 .base 0),
    (0x0410_4050_6000_0010_0000_0000, .vfsub, laneForm 4 5 6 0 0 .f32 .base 0), (0x0420_4050_6000_0010_0000_0000, .vfmul, laneForm 4 5 6 0 0 .f32 .base 0),
    (0x0440_4050_6000_0010_0000_0000, .vfmin, laneForm 4 5 6 0 0 .f32 .base 0), (0x0450_4050_6000_0010_0000_0000, .vfmax, laneForm 4 5 6 0 0 .f32 .base 0),
    (0x0460_4050_6000_0010_0000_0000, .vfsgn, laneForm 4 5 6 0 0 .f32 .base 0), (0x0430_4050_6070_0010_0000_0000, .vfma, laneForm 4 5 6 7 0 .f32 .base 0),
    (0x0471_1040_5000_0010_0000_0000, .vfcmp, laneForm 0x11 4 5 0 0 .f32 .base 0), (0x0480_4050_0000_0010_0000_0000, .vfcls, laneForm 4 5 0 0 0 .f32 .base 0),
    (0x0490_4050_6070_0018_0000_0000, .vhfma, laneForm 4 5 6 7 0 .f16x2 .base 0), (0x04A0_4050_6070_0020_0000_0000, .vbfma, laneForm 4 5 6 7 0 .bf16x2 .base 0),
    (0x0460_4050_5000_0017_0000_0000, .vfsgn, laneForm 4 5 5 0 0 .f32 .alt7 0), (0x0600_4050_0000_0003_0000_1400, .vcvt, laneForm 4 5 0 0 0 .i32 .rz 0x1400),
    (0x0610_4050_0000_01C0_0000_3700, .vcvts, laneForm 4 5 0 0 7 .i32 .base 0x3700), (0x0620_4050_6000_0020_0000_0000, .vpack, laneForm 4 5 6 0 0 .bf16x2 .base 0),
    (0x0630_4050_0000_0018_0000_0000, .vunpk, laneForm 4 5 0 0 0 .f16x2 .base 0)] = true := by decide +kernel
theorem test_decode_lane_cordic : laneWords [(0x0800_4060_0000_0010_0000_0004, .vcrsc, laneForm 4 6 0 0 0 .f32 .base 4),
    (0x0810_4050_6000_0010_0000_0004, .vcrat, laneForm 4 5 6 0 0 .f32 .base 4), (0x0820_4050_0000_0010_0000_0004, .vcrhy, laneForm 4 5 0 0 0 .f32 .base 4),
    (0x0830_4050_0000_0010_0000_0004, .vcrex, laneForm 4 5 0 0 0 .f32 .base 4), (0x0840_4050_0000_0010_0000_0004, .vcrlg, laneForm 4 5 0 0 0 .f32 .base 4),
    (0x0850_4050_0000_0010_0000_0004, .vcrsq, laneForm 4 5 0 0 0 .f32 .base 4), (0x0860_4050_0000_0010_0000_0004, .vcrrs, laneForm 4 5 0 0 0 .f32 .base 4),
    (0x0880_4050_0000_0010_0000_0004, .vcrth, laneForm 4 5 0 0 0 .f32 .base 4), (0x0870_4050_6000_0011_0000_000F, .vcrdv, laneForm 4 5 6 0 0 .f32 .x 15)] = true := by decide +kernel
theorem test_decode_lane_memory : laneWords [(0x0C00_4080_0000_0006_0000_0000, .vld, laneForm 4 8 0 0 0 .i32 .alt6 0),
    (0x0C10_4000_0000_0240_0000_0040, .vldc, laneForm 4 0 0 0 9 .i32 .base 64), (0x0C20_4080_0000_0000_0000_0000, .vldm, laneForm 4 8 0 0 0 .i32 .base 0),
    (0x0C30_4080_0000_0000_0000_0004, .vst, laneForm 4 8 0 0 0 .i32 .base 4), (0x0C40_4000_0000_0240_0000_0040, .vstc, laneForm 4 0 0 0 9 .i32 .base 64),
    (0x0C50_4080_A000_0000_0000_0000, .vstn, laneForm 4 8 10 0 0 .i32 .base 0), (0x0C60_0080_0000_0000_0000_0080, .vprf, laneForm 0 8 0 0 0 .i32 .base 128),
    (0x0C70_4080_5000_0000_0000_0020, .vatom, laneForm 4 8 5 0 0 .i32 .base 32), (0x0C70_0080_5000_0180_0000_00A0, .vatomNtf, laneForm 0 8 5 0 6 .i32 .base 0xA0),
    (0x0C80_4080_5060_0000_0000_0030, .vcas, laneForm 4 8 5 6 0 .i32 .base 48)] = true := by decide +kernel
theorem test_decode_lane_cross : laneWords [(0x0E00_4050_6000_0000_0000_0000, .vshfl, laneForm 4 5 6 0 0 .i32 .base 0),
    (0x0E10_4050_0000_0000_0000_0001, .vrot, laneForm 4 5 0 0 0 .i32 .base 1), (0x0E20_4050_0000_0000_0000_0011, .vbcst, laneForm 4 5 0 0 0 .i32 .base 17),
    (0x0E30_4050_0000_0010_0000_0000, .vscan, laneForm 4 5 0 0 0 .f32 .base 0), (0x0E40_0050_0000_0240_0000_0000, .vred, laneForm 0 5 0 0 9 .i32 .base 0),
    (0x0E40_00A0_0000_0508_0000_0001, .vred, laneForm 0 10 0 0 20 .n32 .base 1), (0x0E50_0030_0000_0F40_0000_0004, .vvote, laneForm 0 3 0 0 61 .i32 .base 4),
    (0x1000_3010_2000_0000_0000_0008, .vplog, laneForm 3 1 2 0 0 .i32 .base 8), (0x1010_0020_0000_0240_0000_0000, .vpmovS, laneForm 0 2 0 0 9 .i32 .base 0),
    (0x1010_2000_0000_0240_0000_0001, .vpmovP, laneForm 2 0 0 0 9 .i32 .base 1), (0x1020_4000_0000_0000_0000_0060, .vlane, laneForm 4 0 0 0 0 .i32 .base 96),
    (0x1030_4050_0000_01C8_0000_0003, .vrng, laneForm 4 5 0 0 7 .n32 .base 3)] = true := by decide +kernel
/-- (!p3) VFADD.f32.x v8, v9, v10; VLD.f32 v4, [v8+16], la=2; and the pair word of R289. -/
theorem test_decode_lane_guard : laneWords [(0x0400_8090_A00B_0011_0000_0000, .vfadd, { laneForm 8 9 10 0 0 .f32 .x 0 with pneg := true, pidx := 3 }), (0x0C00_4080_0000_2010_0000_0010, .vld, { laneForm 4 8 0 0 0 .f32 .base 16 with la := 2 })] = true := by
  decide +kernel
theorem test_decode_lane_pair : (decodeLane 0x5082_C242_8008_2005_0505_8010#96).toOption =
    some (.pairWord { kind := .vfmul, vd := 11, va := 9, vb := 10, pneg := false, pidx := 0, la := 0, ty := .f32, var := .base } { kind := .vfadd, vd := 10, va := 10, vb := 11, pneg := false, pidx := 0, la := 0, ty := .f32, var := .base }) := by
  decide +kernel

/-! ### Ill-formed terms, one for each check, which the check refuses -/

/-- A compact operation. -/
def compactForm (k : CompactKind) (vd va vb : VReg) : CompactOp := { kind := k, vd := vd, va := va, vb := vb, pneg := false, pidx := 0, la := 0, ty := .f32, var := .base }

theorem test_illformed_scalar : [Instr.dadd 3 2 4, .dadd 2 3 4, .dsub 2 4 3, .ldw 5 9 0 0, .stw 5 9 0 0, .ldd 5 8 0 0, .ldd 6 9 0 0, .std 5 8 0 0, .stn 5 9 0 0, .stn 5 62 0 0, .atomClu 5 9 7 0 0, .atomDie 5 8 7 9 0,
    .atomPkg 5 8 7 11 0, .atomNode 5 9 7 0 0, .atomPod 5 8 6 12 0, .bc 3 6 1, .bd 1 0 16 0, .bx 9, .callr 9].all (fun i => !wellFormed i) = true := by decide +kernel
theorem test_illformed_system : [Instr.fenceAcq 6, .fenceRel 6, .fenceFull 63, .bari 13 9, .arv 0 12 10, .arv 6 12 10, .arv 1 13 10, .waitb 0 12 11, .waitb 1 13 11, .wpath 6 7, .mfs 5 30, .mts 5 47, .sndm 6 9, .sndm 6 60,
    .pgmv 9 9 7 0, .txb 2 9 3, .txb 2 8 0, .txbF 2 9 3, .txbF 2 8 0].all (fun i => !wellFormed i) = true := by decide +kernel
theorem test_illformed_engines : [Instr.mma 57 2 4 4 3 0, .mma 0 2 4 4 3 0, .mmax 57 1 4 4 0, .mmlut 57 2 1 10 3 0, .mmld 60 0 0, .mmst 59 1 4 0, .mmst 12 1 8 0, .mmstRelu 12 1 0 0, .mmstRelu 12 1 8 0, .mmstRelu 59 1 4 0,
    .cpy 57 1 0, .cpy 20 0 0, .cpy 20 6 0, .lmtst 59 3 0, .lmwt 59 3, .lmclr 59 3, .gth 53 2 0 0, .gth 8 1 0 0, .sct 54 2 2 0 0, .sct 8 3 2 0 0, .sct 8 2 6 0 0, .rdxt 57 3 0, .rdxt 4 1 0, .rdxa 57 5 0, .rdxa 4 7 0].all (fun i => !wellFormed i) = true := by
  decide +kernel
theorem test_illformed_neighbour : [Instr.nbcfg 58 1 2 0, .nbcfg 8 1 1 0, .nbin 58 0 2 0, .nbin 8 0 6 0, .nchk 58 0 2 0, .nchk 8 0 0 0, .nbst 58 2 0, .nbst 8 1 0, .npairH 55 0 2 0, .npairH 8 0 1 0, .npairF 55 0 2 0, .npairF 8 0 6 0,
    .cbinK 57 0 2 0, .cbinK 8 0 1 0, .cbinL 57 0 2 0, .cbinL 8 0 6 0].all (fun i => !wellFormed i) = true := by decide +kernel
/-- Type and variant, lookahead, destination, first, second and third source, immediate, and the mark of a compact operation. -/
theorem test_illformed_lane : [Instr.vabs (laneForm 4 5 0 0 0 .f32 .base 0), .vadd (laneForm 4 5 6 0 0 .i32 .x 0), .vadd { laneForm 4 5 6 0 0 .i32 .base 0 with la := 1 }, .vadd (laneForm 5 6 8 0 0 .i64 .base 0), .vadd (laneForm 4 5 6 0 0 .i64 .base 0),
    .vadd (laneForm 4 6 7 0 0 .i64 .base 0), .vadd (laneForm 4 5 6 0 7 .i32 .base 0), .vadd (laneForm 4 5 6 7 0 .i32 .base 0), .vadd (laneForm 4 5 6 0 0 .i32 .base 1), .vcmp (laneForm 0x30 4 5 0 0 .i32 .base 0), .vcmpn (laneForm 2 4 5 0 0 .i32 .base 0),
    .vfcmp (laneForm 0x40 4 5 0 0 .f32 .base 0), .vplog (laneForm 8 1 2 0 0 .i32 .base 8), .vplog (laneForm 3 8 2 0 0 .i32 .base 8), .vplog (laneForm 3 1 8 0 0 .i32 .base 8), .vplog (laneForm 3 1 2 0 0 .i32 .base 16), .vcrsc (laneForm 5 6 0 0 0 .f32 .base 4),
    .vunpk (laneForm 5 6 0 0 0 .f16x2 .base 0), .vprf (laneForm 4 8 0 0 0 .i32 .base 128), .vld (laneForm 4 9 0 0 0 .i32 .base 0), .vstn (laneForm 4 8 11 0 0 .i32 .base 0), .vldc (laneForm 4 1 0 0 9 .i32 .base 64),
    .vadd { laneForm 4 5 6 0 0 .i32 .base 0 with compact := true }].all (fun i => !wellFormed i) = true := by decide +kernel
theorem test_illformed_lane_imm : [Instr.vbfx (laneForm 4 5 0 0 0 .n32 .base 1024), .vbfx (laneForm 4 5 0 0 7 .n32 .base 1), .vcvt (laneForm 4 5 0 0 0 .i32 .base 0x10), .vcvt (laneForm 4 5 0 0 0 .i32 .base 0xF), .vcvts (laneForm 4 5 0 0 7 .i32 .base 0x10000),
    .vcrex (laneForm 4 5 0 0 0 .f32 .base 16), .vatom (laneForm 4 8 5 0 0 .i32 .base 0), .vatom (laneForm 4 8 5 0 0 .i32 .base 0x29), .vatomNtf (laneForm 0 8 5 0 6 .i32 .base 0x20), .vcas (laneForm 4 8 5 6 0 .i32 .base 0), .vbcst (laneForm 4 5 0 0 0 .i32 .base 128),
    .vrot (laneForm 4 5 0 0 0 .i32 .base 96), .vpmovS (laneForm 0 2 0 0 9 .i32 .base 6), .vpmovS (laneForm 0 2 0 0 0 .i32 .base 0), .vpmovP (laneForm 2 0 0 0 9 .i32 .base 7), .vred (laneForm 0 5 0 0 61 .i32 .base 0), .vred (laneForm 0 5 0 0 9 .i32 .base 8),
    .vred (laneForm 0 5 0 0 9 .n32 .base 0), .vscan (laneForm 4 5 0 0 9 .i32 .base 0), .vvote (laneForm 0 3 0 0 62 .i32 .base 4), .vvote (laneForm 0 3 0 0 9 .i32 .base 5), .vvote (laneForm 0 16 0 0 9 .i32 .base 0)].all (fun i => !wellFormed i) = true := by decide +kernel
/-- X is no VLD; two registers of one bank; destinations of one bank; one predicate; fn7 of an operation that is itself illegal. -/
theorem test_illformed_pair : [Instr.pairWord (compactForm .vld 4 8 0) (compactForm .vfadd 10 10 11), .pairWord (compactForm .vfmul 11 9 13) (compactForm .vfadd 10 10 11), .pairWord (compactForm .vfmul 10 9 14) (compactForm .vfadd 14 9 11),
    .pairWord { compactForm .vcmp 1 9 10 with ty := .i32 } { compactForm .vcmp 0x11 9 10 with ty := .i32 }, .pairWord { compactForm .vfmul 11 9 10 with la := 1 } (compactForm .vfadd 10 10 11)].all (fun i => !wellFormed i) = true := by decide +kernel

/-! ### Single instructions: results worked out in the manual, or by hand from its rules -/

/-- A scalar register after one instruction on given registers. -/
def sresult (rs : List (Reg × Word)) (i : Instr) (d : Reg) : Word := reg (after i (putRegs rs atRest)) d
/-- R326: with s6 = 0xFFFFFFF0 and s7 = 36 (the manual's table). -/
theorem test_exec_short : let r := fun i => sresult [(6, 0xFFFFFFF0), (7, 0x24)] i 5
    r (.min 5 6 7) = 0xFFFFFFF0 ∧ r (.minn 5 6 7) = 0x24 ∧ r (.shl 5 6 7) = 0xFFFFFF00 ∧ r (.shr 5 6 7) = 0x0FFFFFFF ∧ r (.sar 5 6 7) = 0xFFFFFFFF ∧ r (.slt 5 6 7) = 1 ∧ r (.sltn 5 6 7) = 0 := by decide +kernel
/-- R300: by hand. -/
theorem test_exec_short_more : let r := fun i => sresult [(6, 0xFFFFFFF0), (7, 0x24), (5, 1)] i 5
    r (.add 5 6 7) = 0x14 ∧ r (.sub 5 7 6) = 0x34 ∧ r (.and 5 6 7) = 0x20 ∧ r (.or 5 6 7) = 0xFFFFFFF4 ∧ r (.xor 5 6 7) = 0xFFFFFFD4 ∧ r (.max 5 6 7) = 0x24 ∧ r (.maxn 5 6 7) = 0xFFFFFFF0 ∧ r (.seq 5 6 6) = 1 ∧ r (.seq 5 6 7) = 0 ∧
      r (.sel 5 6 7) = 0xFFFFFFF0 := by decide +kernel
/-- R301, R330, R303 (the manual's examples). -/
theorem test_exec_mul : let r := fun i => sresult [(6, 0xFFFFFFFF), (7, 2)] i 5
    r (.mul 5 6 7 0) = 0xFFFFFFFE ∧ r (.mulh 5 6 7 0) = 0xFFFFFFFF ∧ r (.mulhn 5 6 7 0) = 1 := by decide +kernel
theorem test_exec_bits : let r := fun i => sresult [(6, 0x12345678), (5, 0xFFFFFFFF)] i 5
    r (.bfx 5 6 8 4) = 6 ∧ r (.bfi 5 6 16 8) = 0xFF78FFFF ∧ r (.lih 5 0x12345) = 0x12345000 ∧ r (.clz 5 6) = 3 ∧ r (.popc 5 6) = 13 := by decide +kernel
theorem test_exec_imm : let r := fun i => sresult [(6, 0x12345000)] i 5
    r (.orImm 5 6 0x678) = 0x12345678 ∧ r (.addImm 5 6 (-4)) = 0x12344FFC ∧ r (.sltnImm 5 6 (-1)) = 1 ∧ r (.sltImm 5 6 (-1)) = 0 ∧ r (.andImm 5 6 0x3FFF) = 0x1000 ∧ r (.li 5 (-1)) = 0xFFFFFFFF := by decide +kernel
/-- R313: 64-bit pairs carry into the odd word. -/
theorem test_exec_pairs : (let r := fun d => sresult [(6, 0xFFFFFFFF), (7, 1), (8, 1), (9, 0)] (.dadd 4 6 8) d; r 4 = 0 ∧ r 5 = 2) ∧ (let r := fun d => sresult [(6, 0), (7, 1), (8, 1), (9, 0)] (.dsub 4 6 8) d; r 4 = 0xFFFFFFFF ∧ r 5 = 0) := by
  decide +kernel
/-- R2: s0 reads 0 and discards writes. -/
theorem test_exec_s0 : sresult [(6, 5)] (.add 0 6 6) 0 = 0 := by decide +kernel
/-- R305, R308: a branch goes from its own address in words. -/
theorem test_exec_branch : (after (.b (-3)) { atRest with cord := { atRest.cord with frag := { atRest.cord.frag with pc := 16 } } }).cord.frag.pc = 4 ∧
    (after (.bc 3 1 5) (putRegs [(3, 1)] atRest)).cord.frag.pc = 20 ∧ (after (.bc 3 0 5) (putRegs [(3, 1)] atRest)).cord.frag.pc = 4 := by decide +kernel

/-- Lane registers written in every lane, with a scalar register. -/
def putLanes (vs : List (VReg × Word)) (s : State) : State := { s with cord := vs.foldl (fun c x => setVreg c x.1 (Vector.replicate 96 x.2)) s.cord }
/-- Lane 95 of v4 after one operation on lane registers. -/
def lresult (vs : List (VReg × Word)) (i : Instr) : Word := laneGet (vreg (after i (putLanes vs atRest)).cord 4) 95
/-- R370 (the manual's table). -/
theorem test_lane_mul : let r := lresult [(5, 0xFFFFFFF0), (6, 0x24), (7, 0x3E8)]
    r (.vmul (laneForm 4 5 6 0 0 .i32 .base 0)) = 0xFFFFFDC0 ∧ r (.vmul (laneForm 4 5 6 0 0 .n32 .sat 0)) = 0xFFFFFFFF ∧ r (.vmulh (laneForm 4 5 6 0 0 .i32 .base 0)) = 0xFFFFFFFF ∧ r (.vmulhn (laneForm 4 5 6 0 0 .n32 .base 0)) = 0x23 ∧
      r (.vmad (laneForm 4 5 6 7 0 .i32 .base 0)) = 0x1A8 ∧ r (.vshl (laneForm 4 5 6 0 0 .i32 .base 0)) = 0xFFFFFF00 := by decide +kernel
/-- R77, R348, R349 (the manual's examples). -/
theorem test_lane_add : let r := lresult [(5, 0x7FFF0001), (6, 0x00018000), (7, 0x80000000), (8, 0xF00F)]
    r (.vadd (laneForm 4 5 6 0 0 .i16x2 .base 0)) = 0x80008001 ∧ r (.vadd (laneForm 4 5 6 0 0 .i16x2 .sat 0)) = 0x7FFF8001 ∧ r (.vabs (laneForm 4 7 0 0 0 .i32 .base 0)) = 0x80000000 ∧
      r (.vabs (laneForm 4 7 0 0 0 .i32 .sat 0)) = 0x7FFFFFFF ∧ r (.vbfx (laneForm 4 8 0 0 0 .i32 .base 0x184)) = 0xFFFFFFFF ∧ r (.vbfx (laneForm 4 8 0 0 0 .n32 .base 0x184)) = 0xF := by decide +kernel
/-- R353, R354, R358, R376 (the manual's examples), and R64: 1.0 + 2.0 = 3.0. -/
theorem test_lane_float : let r := lresult [(5, 0x40003C00), (6, 0x38004200), (7, 0x3E800000), (8, 0x00017C00), (9, 0x3F800000), (10, 0x40000000)]
    r (.vhfma (laneForm 4 5 6 7 0 .f16x2 .base 0)) = 0x40880000 ∧ r (.vfcls (laneForm 4 8 0 0 0 .f16x2 .base 0)) = 0x00200080 ∧ r (.vfadd (laneForm 4 9 10 0 0 .f32 .base 0)) = 0x40400000 := by decide +kernel
theorem test_lane_convert : lresult [(5, 0x40490FDB), (9, 0x3F800000)] (.vpack (laneForm 4 9 5 0 0 .bf16x2 .base 0)) = 0x40493F80 ∧ lresult [(5, 0x4788B800), (9, 0x3F800000)] (.vpack (laneForm 4 9 5 0 0 .f16x2 .base 0)) = 0x7C003C00 ∧
    lresult [(5, 0x4788B800), (9, 0x3F800000)] (.vpack (laneForm 4 9 5 0 0 .f16x2 .sat 0)) = 0x7BFF3C00 ∧ lresult [(5, 0x43E80000)] (.vcvt (laneForm 4 5 0 0 0 .i32 .base 0x0400)) = 0x7E := by decide +kernel
/-- R379: the pseudocode with counter 5, key 7 and stream 3, worked out by hand. -/
theorem test_lane_random : laneGet (vreg (after (.vrng (laneForm 4 5 0 0 7 .n32 .base 3)) (putRegs [(7, 7)] (putLanes [(5, 5)] atRest))).cord 4) 0 = 0x466FEF85 := by decide +kernel
/-- The manual's example of the order of reductions (R87): lanes 0 to 3 hold 2^24, 1, 1 and 1. -/
def fourLanes : State :=
  let s := putRegs [(61, 15), (62, 0), (63, 0)] atRest
  { s with cord := setVreg s.cord 5 (Vector.ofFn (fun l : Fin 96 => if l.val = 0 then 0x4B800000 else 0x3F800000)) }
theorem test_lane_reduce : reg (after (.vred (laneForm 0 5 0 0 9 .f32 .base 0)) fourLanes) 9 = 0x4B800001 ∧
    (let v := vreg (after (.vscan (laneForm 4 5 0 0 0 .f32 .base 0)) fourLanes).cord 4; laneGet v 0 = 0x4B800000 ∧ laneGet v 1 = 0x4B800000 ∧ laneGet v 2 = 0x4B800000 ∧ laneGet v 3 = 0x4B800001 ∧ laneGet v 4 = 0) := by decide +kernel
/-- R383: VROT by 1 with v5[L] = 10L; R374: VMOV.ind writes the register that s5 names. -/
theorem test_lane_rotate : (let s := { atRest with cord := setVreg atRest.cord 5 (Vector.ofFn (fun l : Fin 96 => BitVec.ofNat 32 (10 * l.val))) }
    let v := vreg (after (.vrot (laneForm 4 5 0 0 0 .i32 .base 1)) s).cord 4; laneGet v 0 = 10 ∧ laneGet v 94 = 950 ∧ laneGet v 95 = 0) ∧
    laneGet (vreg (after (.vmovInd (laneForm 0 9 0 0 5 .i32 .alt6 0)) (putRegs [(5, 4)] (putLanes [(9, 77)] atRest))).cord 4) 95 = 77 := by decide +kernel

/-- A word of every instruction set runs as the first instruction after reset. -/
theorem test_first_steps : [(32, 0x04518700), (32, 0x6C000005), (32, 0x7C020010), (32, 0x0000350B), (96, vaddWord)].all (fun x => match step (placed x.1 x.2) with
    | .next s => s.agenda.isEmpty
    | _ => false) = true := by decide +kernel

end Sys2Proof.Tests
end

section
/-! PROOFS of the family 00_scope.md, part one: what a scalar register reads after a write, what scalar arithmetic leaves as it was (00 R2, R4, R5; 02 R25; 14 R297). -/

namespace Sys2Proof.Proofs

open Sys2Proof Sys2Proof.Machine Sys2Proof.Laws

/-! ### Scalar registers -/

/-- A mask word that has been replaced reads as it was written. -/
theorem maskWord_setMaskWord_same (m : Mask) (k : Nat) (v : Word) (hk : k < 3) : maskWord (setMaskWord m k v) k = v := by
  refine BitVec.eq_of_getLsbD_eq fun b hb => ?_
  rw [maskWord_bit _ _ _ hb, setMaskWord_bit _ _ _ _ (by omega), if_pos (by omega), Nat.add_sub_cancel_left]

/-- Replacing one mask word leaves the others. -/
theorem maskWord_setMaskWord_other (m : Mask) (k j : Nat) (v : Word) (hj : j < 3) (hjk : j ≠ k) : maskWord (setMaskWord m k v) j = maskWord m j := by
  refine BitVec.eq_of_getLsbD_eq fun b hb => ?_
  rw [maskWord_bit _ _ _ hb, maskWord_bit _ _ _ hb, setMaskWord_bit _ _ _ _ (by omega), if_neg (by omega)]

/-- A mask word distributes over the intersection of masks. -/
theorem maskWord_and (m n : Mask) (k : Nat) : maskWord (m &&& n) k = maskWord m k &&& maskWord n k := by
  refine BitVec.eq_of_getLsbD_eq fun b hb => ?_
  rw [maskWord_bit _ _ _ hb, BitVec.getLsbD_and, BitVec.getLsbD_and, maskWord_bit _ _ _ hb, maskWord_bit _ _ _ hb]

/-- A write to s61 to s63 sets the word of the mask to the value's lanes that the fragment owns (R25). -/
theorem setCordReg_high (c : Cord) (r : Reg) (v : Word) (h : ¬ r.toNat < 61) : setCordReg c r v = { c with frag := putMask (r.toNat - 61) v c.frag } := by
  have h0 : r ≠ 0 := by rintro rfl; simp at h
  rw [setCordReg, if_neg h0, if_neg h]

/-- A mask register reads back the value in the lanes that the fragment owns (R25). -/
theorem reg_setReg_mask (s : State) (r : Reg) (v : Word) (h : ¬ r.toNat < 61) : reg (setReg s r v) r = v &&& maskWord s.cord.frag.owned (r.toNat - 61) := by
  have hk : r.toNat - 61 < 3 := by have := r.isLt; omega
  rw [reg, setReg_cord, setCordReg_high _ _ _ h, cordReg_high _ _ h]
  simp only [putMask, maskWord_and, maskWord_setMaskWord_same _ _ _ hk, BitVec.and_assoc, BitVec.and_self]

/-- A write to any scalar register leaves what every other one reads. -/
theorem reg_setReg_ne (s : State) (d r : Reg) (v : Word) (h : r ≠ d) : reg (setReg s d v) r = reg s r := by
  by_cases hd : d.toNat < 61
  · exact reg_setReg_other s d r v hd h
  · have hne := toNat_ne h
    rw [reg, reg, setReg_cord, setCordReg_high _ _ _ hd]
    by_cases h0 : r = 0
    · simp [cordReg, h0]
    · by_cases hr : r.toNat < 61
      · rw [cordReg_low _ _ h0 hr, cordReg_low _ _ h0 hr]
        rfl
      · have hk : r.toNat - 61 < 3 := by have := r.isLt; omega
        rw [cordReg_high _ _ hr, cordReg_high _ _ hr, maskWord_and, maskWord_and]
        simp only [putMask]
        rw [maskWord_setMaskWord_other _ _ _ _ hk (by omega)]

/-- Settles O4: s0 reads 0, a register below s61 its value, a mask register the value's owned lanes, and any other register what it read before. -/
theorem registerReadAfterWrite : Obligations.RegisterReadAfterWrite := by
  intro s d r v
  by_cases h0 : r = 0
  · rw [if_pos h0, h0]
    exact reg_zero _
  · rw [if_neg h0]
    by_cases hd : r = d
    · subst hd
      rw [if_pos rfl]
      by_cases hr : r.toNat < 61
      · rw [if_pos hr, reg_setReg_same s r v h0 hr]
      · rw [if_neg hr, reg_setReg_mask s r v hr]
    · rw [if_neg hd, reg_setReg_ne s d r v hd]

/-! ### The frame of scalar arithmetic -/

/-- What scalar arithmetic may not change in its cord: everything outside the scalar banks, and of the acting fragment its owned lanes, queue, arms, transaction and faults. -/
def arithView (c : Cord) :=
  (c.vregs, c.preds, c.acc, c.frags, c.flights, c.paths, c.trap, c.uhandler, c.lots, c.cycles, c.frag.owned, c.frag.queue, c.frag.arms, c.frag.tx, c.frag.faults)

/-- A write to a scalar register changes a bank, or the mask. -/
theorem arithView_setCordReg (c : Cord) (r : Reg) (v : Word) : arithView (setCordReg c r v) = arithView c := by
  unfold setCordReg setBank
  repeat' split
  all_goals rfl

/-- Going on changes the PC, its resume point and the status only. -/
theorem arithView_advance (s : State) : arithView (advance s).cord = arithView s.cord := rfl

theorem arithView_result (d : Reg) (v : Word) (s : State) : arithView (result d v s).cord = arithView s.cord :=
  (arithView_advance (setReg s d v)).trans (arithView_setCordReg _ _ _)

theorem arithView_resultPair (d : Reg) (v : DWord) (s : State) : arithView (resultPair d v s).cord = arithView s.cord :=
  (arithView_advance (setPair s d v)).trans ((arithView_setCordReg _ _ _).trans (arithView_setCordReg _ _ _))

theorem resultPair_outside (d : Reg) (v : DWord) (s : State) : { resultPair d v s with cord := s.cord } = s := rfl

/-- A scalar result leaves every other register. -/
theorem reg_result_ne (d r : Reg) (v : Word) (s : State) (h : r ≠ d) : reg (result d v s) r = reg s r := by
  rw [result, reg_advance, reg_setReg_ne s d r v h]

/-- A pair result leaves every register outside the pair. -/
theorem reg_resultPair_ne (d r : Reg) (v : DWord) (s : State) (h : r ≠ d) (h1 : r ≠ d + 1) : reg (resultPair d v s) r = reg s r := by
  rw [resultPair, reg_advance, setPair, reg_setReg_ne _ _ _ _ h1, reg_setReg_ne _ _ _ _ h]

/-- A word of scalar arithmetic with one destination writes one value to it and goes on (R297). -/
theorem exec_of_scalarDest {i : Instr} {d : Reg} (h : scalarDest i = some d) (s : State) : ∃ v, exec i s = .next (result d v s) := by
  unfold scalarDest at h
  split at h
  all_goals cases h
  all_goals exact ⟨_, rfl⟩

/-- Settles O5: every such word answers a result or a pair result, and both keep the frame. -/
theorem scalarArithmeticFrame : Obligations.ScalarArithmeticFrame := by
  refine ⟨fun i d s t hd he => ?_, fun s t d a b _ he => ?_⟩
  · obtain ⟨v, hv⟩ := exec_of_scalarDest hd s
    cases hv.symm.trans he
    have hview := arithView_result d v s
    simp only [arithView, Prod.mk.injEq] at hview
    exact ⟨fun r hr => reg_result_ne d r v s hr, fun _ => rfl, result_outside d v s, hview⟩
  · obtain ⟨v, rfl⟩ : ∃ v, resultPair d v s = t := by
      rcases he with he | he <;> cases he <;> exact ⟨_, rfl⟩
    have hview := arithView_resultPair d v s
    simp only [arithView, Prod.mk.injEq] at hview
    exact ⟨fun r hr hr1 => reg_resultPair_ne d r v s hr hr1, fun _ => rfl, resultPair_outside d v s, hview⟩

end Sys2Proof.Proofs
end

section
/-! PROOFS of the family 00_scope.md, part two: every step keeps memory in canonical form, and the form is unique (00 R2; 05 R94, R98; 11 R228, R229). -/

namespace Sys2Proof.Proofs

open Sys2Proof Sys2Proof.Machine Sys2Proof.Laws

/-! ### The canonical form is unique -/

/-- The tail of a canonical memory reads as the whole does above the head, and as an unlisted address does up to it. -/
theorem memGet_tail (k : Nat) (w : Byte) (m : Memory) (a : Nat) (h : Memory.wf ((k, w) :: m) = true) :
    memGet m a = if a ≤ k then Memory.unlisted else memGet ((k, w) :: m) a := by
  obtain ⟨-, hlt, -⟩ := (wf_cons k w m).mp h
  split
  · exact memGet_below m a fun c hc => by have := hlt c hc; omega
  · rename_i ha
    rw [memGet, if_neg (by omega), if_neg (by omega)]

/-- The first listed byte of a memory is read there, and is not what an unlisted address reads as. -/
theorem memGet_head_ne (k : Nat) (w : Byte) (m : Memory) (h : Memory.wf ((k, w) :: m) = true) : memGet ((k, w) :: m) k = w ∧ w ≠ Memory.unlisted :=
  ⟨by simp [memGet], ((wf_cons k w m).mp h).1⟩

/-- Of two canonical memories that read alike neither lists a first byte below the other's. -/
theorem head_le_of_memGet_eq (k j : Nat) (w x : Byte) (m n : Memory) (hm : Memory.wf ((k, w) :: m) = true)
    (h : ∀ a, memGet ((k, w) :: m) a = memGet ((j, x) :: n) a) : j ≤ k := by
  refine Nat.le_of_not_lt fun hlt => ?_
  obtain ⟨hr, hw⟩ := memGet_head_ne k w m hm
  refine hw (hr.symm.trans ((h k).trans ?_))
  rw [memGet, if_neg (by omega), if_pos (by omega)]

/-- Two canonical memories that read alike are equal. -/
theorem memory_ext (m n : Memory) (hm : Memory.wf m = true) (hn : Memory.wf n = true) (h : ∀ a, memGet m a = memGet n a) : m = n := by
  induction m generalizing n with
  | nil =>
    cases n with
    | nil => rfl
    | cons c n =>
      obtain ⟨hr, hw⟩ := memGet_head_ne c.1 c.2 n hn
      exact absurd (hr.symm.trans (h c.1).symm) hw
  | cons c m ih =>
    obtain ⟨k, w⟩ := c
    cases n with
    | nil =>
      obtain ⟨hr, hw⟩ := memGet_head_ne k w m hm
      exact absurd (hr.symm.trans (h k)) hw
    | cons e n =>
      obtain ⟨j, x⟩ := e
      have hk : k = j := Nat.le_antisymm (head_le_of_memGet_eq j k x w n m hn fun a => (h a).symm) (head_le_of_memGet_eq k j w x m n hm h)
      subst hk
      have hw : w = x := (memGet_head_ne k w m hm).1.symm.trans ((h k).trans (memGet_head_ne k x n hn).1)
      have htail : m = n := ih n ((wf_cons k w m).mp hm).2.2 ((wf_cons k x n).mp hn).2.2 fun a => by
        rw [memGet_tail k w m a hm, memGet_tail k x n a hn, h a]
      rw [hw, htail]

/-! ### Every step keeps the form -/

/-- Every instruction and event keeps memory in canonical form: one lemma of Laws/Kept*.lean for each arm of exec. -/
theorem exec_wf (i : Instr) (s : State) (hm : Memory.wf s.mem = true) : ∀ u, exec i s = .next u → Memory.wf u.mem = true :=
  match i with
  | .add d a b => execAdd_wf d a b s hm
  | .addImm d a m => execAddImm_wf d a m s hm
  | .sub d a b => execSub_wf d a b s hm
  | .and d a b => execAnd_wf d a b s hm
  | .andImm d a m => execAndImm_wf d a m s hm
  | .or d a b => execOr_wf d a b s hm
  | .orImm d a m => execOrImm_wf d a m s hm
  | .xor d a b => execXor_wf d a b s hm
  | .xorImm d a m => execXorImm_wf d a m s hm
  | .shl d a b => execShl_wf d a b s hm
  | .shlImm d a z => execShlImm_wf d a z s hm
  | .shr d a b => execShr_wf d a b s hm
  | .shrImm d a z => execShrImm_wf d a z s hm
  | .sar d a b => execSar_wf d a b s hm
  | .sarImm d a z => execSarImm_wf d a z s hm
  | .min d a b => execMin_wf d a b s hm
  | .max d a b => execMax_wf d a b s hm
  | .minn d a b => execMinn_wf d a b s hm
  | .maxn d a b => execMaxn_wf d a b s hm
  | .slt d a b => execSlt_wf d a b s hm
  | .sltImm d a m => execSltImm_wf d a m s hm
  | .sltn d a b => execSltn_wf d a b s hm
  | .sltnImm d a m => execSltnImm_wf d a m s hm
  | .seq d a b => execSeq_wf d a b s hm
  | .seqImm d a m => execSeqImm_wf d a m s hm
  | .sel d a b => execSel_wf d a b s hm
  | .mul d a b l => execMul_wf d a b l s hm
  | .mulh d a b l => execMulh_wf d a b l s hm
  | .mulhn d a b l => execMulhn_wf d a b l s hm
  | .clz d a => execClz_wf d a s hm
  | .popc d a => execPopc_wf d a s hm
  | .dadd d a b => execDadd_wf d a b s hm
  | .dsub d a b => execDsub_wf d a b s hm
  | .bfx d a p n => execBfx_wf d a p n s hm
  | .bfi d a p n => execBfi_wf d a p n s hm
  | .li d m => execLi_wf d m s hm
  | .lih d m => execLih_wf d m s hm
  | .ldw d a o l => execLdw_wf d a o l s hm
  | .ldd d a o l => execLdd_wf d a o l s hm
  | .stw d a o l => execStw_wf d a o l s hm
  | .std d a o l => execStd_wf d a o l s hm
  | .stn d a o l => execStn_wf d a o l s hm
  | .atomClu d a b f l => execAtomClu_wf d a b f l s hm
  | .atomDie d a b f l => execAtomDie_wf d a b f l s hm
  | .atomPkg d a b f l => execAtomPkg_wf d a b f l s hm
  | .atomNode d a b f l => execAtomNode_wf d a b f l s hm
  | .atomPod d a b f l => execAtomPod_wf d a b f l s hm
  | .b d => execB_wf d s hm
  | .call d => execCall_wf d s hm
  | .bc a c d => execBc_wf a c d s hm
  | .bd p n d j => execBd_wf p n d j s hm
  | .bx a => execBx_wf a s hm
  | .callr a => execCallr_wf a s hm
  | .fenceAcq z => execFenceAcq_wf z s hm
  | .fenceRel z => execFenceRel_wf z s hm
  | .fenceFull z => execFenceFull_wf z s hm
  | .bari a b => execBari_wf a b s hm
  | .arv c a b => execArv_wf c a b s hm
  | .waitb c a b => execWaitb_wf c a b s hm
  | .wpath n b => execWpath_wf n b s hm
  | .rngw d a b => execRngw_wf d a b s hm
  | .lot d => execLot_wf d s hm
  | .wlot a => execWlot_wf a s hm
  | .mfs d r => execMfs_wf d r s hm
  | .mts a r => execMts_wf a r s hm
  | .lq a b => execLq_wf a b s hm
  | .gjoin d a => execGjoin_wf d a s hm
  | .gleave d => execGleave_wf d s hm
  | .sndm a b => execSndm_wf a b s hm
  | .pgmv c a b l => execPgmv_wf c a b l s hm
  | .txb d a n => execTxb_wf d a n s hm
  | .txbF d a n => execTxbF_wf d a n s hm
  | .txa c => execTxa_wf c s hm
  | .txst d => execTxst_wf d s hm
  | .xrd d a b => execXrd_wf d a b s hm
  | .xwr v a b => execXwr_wf v a b s hm
  | .xres a b => execXres_wf a b s hm
  | .mma a n x y k l => execMma_wf a n x y k l s hm
  | .mmax a n x y l => execMmax_wf a n x y l s hm
  | .mmlut a n x y k l => execMmlut_wf a n x y k l s hm
  | .mmz n l => execMmz_wf n l s hm
  | .mmld a n l => execMmld_wf a n l s hm
  | .mmst a n f l => execMmst_wf a n f l s hm
  | .mmstRelu a n f l => execMmstRelu_wf a n f l s hm
  | .cpy a z l => execCpy_wf a z l s hm
  | .lmtst a w l => execLmtst_wf a w l s hm
  | .lmwt a w => execLmwt_wf a w s hm
  | .lmclr a w => execLmclr_wf a w s hm
  | .gth a z m l => execGth_wf a z m l s hm
  | .sct a c z m l => execSct_wf a c z m l s hm
  | .rdxt a z l => execRdxt_wf a z l s hm
  | .rdxa a z l => execRdxa_wf a z l s hm
  | .nbcfg a r z l => execNbcfg_wf a r z l s hm
  | .nbin a r z l => execNbin_wf a r z l s hm
  | .npairH a r z l => execNpairH_wf a r z l s hm
  | .npairF a r z l => execNpairF_wf a r z l s hm
  | .nchk a r z l => execNchk_wf a r z l s hm
  | .nbst a z l => execNbst_wf a z l s hm
  | .cbinK a r z l => execCbinK_wf a r z l s hm
  | .cbinL a r z l => execCbinL_wf a r z l s hm
  | .htxb m d => execHtxb_wf m d s hm
  | .htxbF d => execHtxbF_wf d s hm
  | .htxa c => execHtxa_wf c s hm
  | .htxs d => execHtxs_wf d s hm
  | .pairWord x y => execPairWord_wf x y s hm
  | .vabs o => execVabs_wf o s hm
  | .vadd o => execVadd_wf o s hm
  | .vand o => execVand_wf o s hm
  | .vclz o => execVclz_wf o s hm
  | .vbfx o => execVbfx_wf o s hm
  | .vcmp o => execVcmp_wf o s hm
  | .vcmpn o => execVcmpn_wf o s hm
  | .vfadd o => execVfadd_wf o s hm
  | .vfsub o => execVfsub_wf o s hm
  | .vfmul o => execVfmul_wf o s hm
  | .vfma o => execVfma_wf o s hm
  | .vhfma o => execVhfma_wf o s hm
  | .vbfma o => execVbfma_wf o s hm
  | .vfmin o => execVfmin_wf o s hm
  | .vfmax o => execVfmax_wf o s hm
  | .vfsgn o => execVfsgn_wf o s hm
  | .vfcls o => execVfcls_wf o s hm
  | .vfcmp o => execVfcmp_wf o s hm
  | .vcvt o => execVcvt_wf o s hm
  | .vcvts o => execVcvts_wf o s hm
  | .vcrsc o => execVcrsc_wf o s hm
  | .vcrat o => execVcrat_wf o s hm
  | .vcrhy o => execVcrhy_wf o s hm
  | .vcrex o => execVcrex_wf o s hm
  | .vcrlg o => execVcrlg_wf o s hm
  | .vcrsq o => execVcrsq_wf o s hm
  | .vcrrs o => execVcrrs_wf o s hm
  | .vcrdv o => execVcrdv_wf o s hm
  | .vcrth o => execVcrth_wf o s hm
  | .vld o => execVld_wf o s hm
  | .vldc o => execVldc_wf o s hm
  | .vldm o => execVldm_wf o s hm
  | .vatom o => execVatom_wf o s hm
  | .vatomNtf o => execVatomNtf_wf o s hm
  | .vcas o => execVcas_wf o s hm
  | .vbcst o => execVbcst_wf o s hm
  | .vlane o => execVlane_wf o s hm
  | .vmad o => execVmad_wf o s hm
  | .vmul o => execVmul_wf o s hm
  | .vmulh o => execVmulh_wf o s hm
  | .vmulhn o => execVmulhn_wf o s hm
  | .vsub o => execVsub_wf o s hm
  | .vmin o => execVmin_wf o s hm
  | .vmax o => execVmax_wf o s hm
  | .vminn o => execVminn_wf o s hm
  | .vmaxn o => execVmaxn_wf o s hm
  | .vor o => execVor_wf o s hm
  | .vxor o => execVxor_wf o s hm
  | .vpopc o => execVpopc_wf o s hm
  | .vshl o => execVshl_wf o s hm
  | .vshr o => execVshr_wf o s hm
  | .vsar o => execVsar_wf o s hm
  | .vsel o => execVsel_wf o s hm
  | .vmov o => execVmov_wf o s hm
  | .vmovInd o => execVmovInd_wf o s hm
  | .vmovs o => execVmovs_wf o s hm
  | .vpack o => execVpack_wf o s hm
  | .vunpk o => execVunpk_wf o s hm
  | .vplog o => execVplog_wf o s hm
  | .vpmovS o => execVpmovS_wf o s hm
  | .vpmovP o => execVpmovP_wf o s hm
  | .vrng o => execVrng_wf o s hm
  | .vprf o => execVprf_wf o s hm
  | .vst o => execVst_wf o s hm
  | .vstc o => execVstc_wf o s hm
  | .vstn o => execVstn_wf o s hm
  | .vshfl o => execVshfl_wf o s hm
  | .vrot o => execVrot_wf o s hm
  | .vred o => execVred_wf o s hm
  | .vscan o => execVscan_wf o s hm
  | .vvote o => execVvote_wf o s hm
  | .bankModeChangeComplete c bank => execBankModeChangeComplete_wf c bank s hm
  | .launchRecordFetch q => execLaunchRecordFetch_wf q s hm
  | .rotationStreak p => execRotationStreak_wf p s hm
  | .quantumExpiry c => execQuantumExpiry_wf c s hm
  | .idleSwitchCount c => execIdleSwitchCount_wf c s hm
  | .contextSwitch c => execContextSwitch_wf c s hm
  | .streamOut c pasid => execStreamOut_wf c pasid s hm
  | .streamIn c pasid => execStreamIn_wf c pasid s hm
  | .preemptedStandResume stand => execPreemptedStandResume_wf stand s hm
  | .fusion c split => execFusion_wf c split s hm
  | .serialArmStart c split => execSerialArmStart_wf c split s hm
  | .cordEnd c => execCordEnd_wf c s hm
  | .levelGroupComplete q seq level group => execLevelGroupComplete_wf q seq level group s hm
  | .launchComplete q seq => execLaunchComplete_wf q seq s hm
  | .completionRecordWrite q => execCompletionRecordWrite_wf q s hm
  | .memoryReply c id ecc => execMemoryReply_wf c id ecc s hm
  | .cordicBeatWrite p => execCordicBeatWrite_wf p s hm
  | .trapDelivery c => execTrapDelivery_wf c s hm
  | .supervisorRequest c => execSupervisorRequest_wf c s hm
  | .walkFill d pasid page => execWalkFill_wf d pasid page s hm
  | .inboundBufferAppend c => execInboundBufferAppend_wf c s hm
  | .sndmRetry c id => execSndmRetry_wf c id s hm
  | .matrixCommandStart p => execMatrixCommandStart_wf p s hm
  | .matrixCommandEnd p => execMatrixCommandEnd_wf p s hm
  | .copyChunkLanding c copy chunk => execCopyChunkLanding_wf c copy chunk s hm
  | .gatherComplete d id => execGatherComplete_wf d id s hm
  | .scatterComplete d id => execScatterComplete_wf d id s hm
  | .reductionContribution d => execReductionContribution_wf d s hm
  | .nbcfgPerform e => execNbcfgPerform_wf e s hm
  | .nbinRun e => execNbinRun_wf e s hm
  | .nchkRun e => execNchkRun_wf e s hm
  | .npairRun e => execNpairRun_wf e s hm
  | .groupPublish e => execGroupPublish_wf e s hm
  | .cbinRun e => execCbinRun_wf e s hm
  | .nbstRead e => execNbstRead_wf e s hm
  | .stumpInstall gfn => execStumpInstall_wf gfn s hm
  | .announcementDrained gfn => execAnnouncementDrained_wf gfn s hm
  | .linkFailureLimit via => execLinkFailureLimit_wf via s hm
  | .relayForward dst => execRelayForward_wf dst s hm
  | .clockChangeComplete d => execClockChangeComplete_wf d s hm
  | .parkComplete p => execParkComplete_wf p s hm
  | .fibreGroupAsleep g => execFibreGroupAsleep_wf g s hm
  | .fibreGroupWake g => execFibreGroupWake_wf g s hm
  | .pcSample p => execPcSample_wf p s hm
  | .errorThresholdReached cls => execErrorThresholdReached_wf cls s hm
  | .illegalInstruction w => execIllegalInstruction_wf w s hm
  | .ret => execRet_wf s hm
  | .exit => execExit_wf s hm
  | .nop => execNop_wf s hm
  | .trap => execTrap_wf s hm
  | .tret => execTret_wf s hm
  | .txc => execTxc_wf s hm
  | .htxc => execHtxc_wf s hm
  | .cyclesLoRead d => execCyclesLoRead_wf d s hm
  | .bankmodeWrite c v => execBankmodeWrite_wf c v s hm
  | .bankstatWrite c v => execBankstatWrite_wf c v s hm
  | .fdlrelWrite c v => execFdlrelWrite_wf c v s hm
  | .ringHeadStore c ring h => execRingHeadStore_wf c ring h s hm
  | .tailWrite q t => execTailWrite_wf q t s hm
  | .cheadWrite q h => execCheadWrite_wf q h s hm
  | .gangPlacement => execGangPlacement_wf s hm
  | .pageResponseSuccess r => execPageResponseSuccess_wf r s hm
  | .pageResponseInvalidRequest r => execPageResponseInvalidRequest_wf r s hm
  | .pageResponseFailure r => execPageResponseFailure_wf r s hm
  | .pageRequestTimeout r => execPageRequestTimeout_wf r s hm
  | .invalidation pasid page => execInvalidation_wf pasid page s hm
  | .fallbackLockTake => execFallbackLockTake_wf s hm
  | .hostInterruptInBody h => execHostInterruptInBody_wf h s hm
  | .migrationDequeue => execMigrationDequeue_wf s hm
  | .flitReceive via bytes => execFlitReceive_wf via bytes s hm
  | .dwellOpener fibre src => execDwellOpener_wf fibre src s hm
  | .rotorSlot => execRotorSlot_wf s hm
  | .resendTimeout peer via => execResendTimeout_wf peer via s hm
  | .linkRetrainResult link ok => execLinkRetrainResult_wf link ok s hm
  | .rd r => execRd_wf r s hm
  | .wr r => execWr_wf r s hm
  | .wrm r => execWrm_wf r s hm
  | .atReq r => execAtReq_wf r s hm
  | .nst r => execNst_wf r s hm
  | .msg r => execMsg_wf r s hm
  | .bwr r => execBwr_wf r s hm
  | .brd r => execBrd_wf r s hm
  | .reg r => execReg_wf r s hm
  | .cohFetchShared r => execCohFetchShared_wf r s hm
  | .cohFetchExclusive r => execCohFetchExclusive_wf r s hm
  | .cohInvalidate r => execCohInvalidate_wf r s hm
  | .cohRecall r => execCohRecall_wf r s hm
  | .migReserve r => execMigReserve_wf r s hm
  | .migRecordUpdate r => execMigRecordUpdate_wf r s hm
  | .migAnnounce r => execMigAnnounce_wf r s hm
  | .migAcknowledge r => execMigAcknowledge_wf r s hm
  | .migReclaim r => execMigReclaim_wf r s hm
  | .migOutcome r => execMigOutcome_wf r s hm
  | .migRequest r => execMigRequest_wf r s hm
  | .rdxTree r => execRdxTree_wf r s hm
  | .rdxArrival r => execRdxArrival_wf r s hm
  | .ack r => execAck_wf r s hm
  | .data r => execData_wf r s hm
  | .linkack peer seq => execLinkack_wf peer seq s hm
  | .linknak peer seq => execLinknak_wf peer seq s hm
  | .neg n => execNeg_wf n s hm
  | .redir r => execRedir_wf r s hm
  | .createq c => execCreateq_wf c s hm
  | .destroyq c => execDestroyq_wf c s hm
  | .suspendq c => execSuspendq_wf c s hm
  | .resumeq c => execResumeq_wf c s hm
  | .reserve c => execReserve_wf c s hm
  | .loadhandler c => execLoadhandler_wf c s hm
  | .setbanks c => execSetbanks_wf c s hm
  | .setquantum c => execSetquantum_wf c s hm
  | .pri c => execPri_wf c s hm
  | .stripe c => execStripe_wf c s hm
  | .migrate c => execMigrate_wf c s hm
  | .powerClock c => execPowerClock_wf c s hm
  | .powerPark c => execPowerPark_wf c s hm
  | .powerRetain c => execPowerRetain_wf c s hm
  | .powerSleep c => execPowerSleep_wf c s hm
  | .observeSampler c => execObserveSampler_wf c s hm
  | .observeEventRing c => execObserveEventRing_wf c s hm
  | .observeArmWatchpoint c => execObserveArmWatchpoint_wf c s hm
  | .observeDisarmWatchpoint c => execObserveDisarmWatchpoint_wf c s hm
  | .observeClearCounters c => execObserveClearCounters_wf c s hm
  | .stop c => execStop_wf c s hm
  | .stopResume c => execStopResume_wf c s hm
  | .journal c => execJournal_wf c s hm
  | .bankRetentionDrop z => execBankRetentionDrop_wf z s hm
  | .watchEventWrite => execWatchEventWrite_wf s hm
  | .temperatureCurrentLimit source detail => execTemperatureCurrentLimit_wf source detail s hm
  | .reset => execReset_wf s hm
  | .firmwareImageLoad image => execFirmwareImageLoad_wf image s hm
  | .mailboxExposedCounts x => execMailboxExposedCounts_wf x s hm
  | .mailboxDeckSize units => execMailboxDeckSize_wf units s hm
  | .mailboxAdminQueue a => execMailboxAdminQueue_wf a s hm
  | .fabricJoin num members => execFabricJoin_wf num members s hm
  | .clusterCacheEviction c line writeBack => execClusterCacheEviction_wf c line writeBack s hm
  | .directoryEntryEviction line => execDirectoryEntryEviction_wf line s hm
  | .partnerLineEviction line => execPartnerLineEviction_wf line s hm
  | .hostCoreAccess a => execHostCoreAccess_wf a s hm
  | .powerRemoval => execPowerRemoval_wf s hm

/-- A turn keeps memory in canonical form: what it fetches, what it executes and what it does at its end. -/
theorem runTurn_wf (t : Turn) (s u : State) (hm : Memory.wf s.mem = true) (h : runTurn t s = .next u) : Memory.wf u.mem = true := by
  obtain ⟨hrest, hrun⟩ := front_wf t s hm
  cases hf : front t s with
  | rest v =>
    exact Host.Outcome.next.inj ((runTurn_rest t s v hf).symm.trans h) ▸ hrest v hf
  | run i b v =>
    cases he : exec i v with
    | next x =>
      exact Host.Outcome.next.inj ((runTurn_run t s b v x i hf he).symm.trans h) ▸ back_wf t b x (exec_wf i v (hrun i b v hf) x he)
    | fault _ => simp [runTurn, hf, he] at h
    | refused _ => simp [runTurn, hf, he] at h

/-- A step keeps memory in canonical form: it chooses the next turns, or takes the one at the head of the agenda. -/
theorem step_wf (s t : State) (hm : Memory.wf s.mem = true) (h : step s = .next t) : Memory.wf t.mem = true := by
  cases ha : s.agenda with
  | nil =>
    exact Host.Outcome.next.inj ((step_empty s ha).symm.trans h) ▸ schedule_wf s hm
  | cons x rest => exact runTurn_wf x { s with agenda := rest } t hm ((step_turn s x rest ha).symm.trans h)

/-- Settles O60: the form is kept by every step, and two memories of that form that read alike are equal. -/
theorem stepsKeepMemoryCanonical : Obligations.StepsKeepMemoryCanonical :=
  ⟨step_wf, memory_ext⟩

end Sys2Proof.Proofs
end

section
/-! PROOFS of the family 00_scope.md, part three: one scalar access that issues from a cord at rest (R54, R112, R113). -/

namespace Sys2Proof.Proofs

open Sys2Proof Sys2Proof.Machine Sys2Proof.Laws

/-! ### What the bookkeeping of an access leaves alone -/

/-- What registers, predicates and the PC of the acting fragment are read from. -/
def readView (c : Cord) := (c.bank0, c.bank1, c.vregs, c.preds, c.frag.pc, c.frag.mask, c.frag.owned, c.frag.bank)

/-- Scalar registers read the same in cords of one view. -/
theorem cordReg_of_readView {c c' : Cord} (h : readView c' = readView c) (r : Reg) : cordReg c' r = cordReg c r := by
  simp only [readView, Prod.mk.injEq] at h
  obtain ⟨hbank0, hbank1, -, -, -, hmask, howned, hbank⟩ := h
  simp only [cordReg, bankOf, hbank0, hbank1, hmask, howned, hbank]

theorem readView_putFlight (f : Flight) (c : Cord) : readView (putFlight f c) = readView c := rfl
theorem readView_settlePaths (c : Cord) : readView (settlePaths c) = readView c := rfl
theorem readView_pruneWindows (c : Cord) : readView (pruneWindows c) = readView c := rfl

/-- What is left of the flights after their paths have been settled has the lanes it had. -/
theorem lanes_of_mem_settlePaths (c : Cord) (g : Flight) (h : g ∈ (settlePaths c).flights) : ∃ f ∈ c.flights, g.lanes = f.lanes := by
  obtain ⟨f, hf, rfl⟩ := List.mem_map.mp (List.mem_filter.mp h).1
  exact ⟨f, hf, rfl⟩

@[simp] theorem pruneWindows_flights (c : Cord) : (pruneWindows c).flights = c.flights := rfl

/-- An access whose lanes have not failed is left in flight when it has issued. -/
theorem issue_of_none_failed (a : Access) (s : State) (h : ∀ g ∈ (issueAccess a s).cord.flights, g.lanes.any hasFailed = false) : issue a s = issueAccess a s := by
  unfold issue
  dsimp only
  split
  · rename_i f hf
    rw [if_neg (by simp [h f (List.mem_of_getLast? hf)])]
  · rfl

/-! ### A flight alone in its cord -/

/-- A flight alone in its cord has no older one to wait for (R122). -/
theorem olderClash_lone (s : State) (f : Flight) (p : Place) (h : s.cord.flights = [f]) : olderClash s f.id p = false := by simp [olderClash, h]

/-- A flight alone in its cord, with one lane that the fault-deferral log does not take, is pushed as that lane is. -/
theorem pushFlight_lone (s : State) (f : Flight) (p : LaneAcc) (h : s.cord.flights = [f]) (hp : f.lanes = [p]) (hl : toLog (pushLane f p s).1 = false) :
    pushFlight f.id s = setCord (putFlight { f with lanes := [(pushLane f p s).1] }) (pushLane f p s).2 := by
  have hf : { f with lanes := [] ++ [p] } = f := by rw [List.nil_append, ← hp]
  have hpush : pushLanes f [] f.lanes s = ([(pushLane f p s).1], (pushLane f p s).2) := by
    rw [hp, pushLanes, hf, pushLanes, List.nil_append]
  have hfind : s.cord.flights.find? (fun g => g.id == f.id) = some f := by simp [h]
  have hlog : ∀ t, logLanes { f with lanes := [(pushLane f p s).1] } (missedPages { f with lanes := [(pushLane f p s).1] }) t =
      ({ f with lanes := [(pushLane f p s).1] }, t) := by
    intro t
    simp [missedPages, hl, logLanes]
  unfold pushFlight
  rw [hfind]
  simp only [hpush, hlog, ite_self]

/-! ### A scalar store -/

/-- The flight of a scalar store of some bytes with its one lane, as it issues (R112). -/
def storeFlight (s : State) (size : Nat) (l : BitVec 4) (p : LaneAcc) : Flight :=
  { id := s.nextId, frag := s.cord.frag.id, splits := s.cord.frag.arms.map (fun a => a.split), la := l.toNat, stream := .scalar, pc := s.cord.frag.pc, isY := false
    op := .store, scope := 0, size := size, signed := false, dest := .none, lanes := [p], paths := [(2, false)], ord := scalarOrd s }

/-- The state in which a scalar store is in flight and its lane is still to act. -/
def storeIssued (s : State) (size : Nat) (l : BitVec 4) (p : LaneAcc) : State :=
  let u := advance s
  let f := storeFlight s size l p
  { u with nextId := s.nextId + 1, tick := s.tick + 1
           cord := { u.cord with flights := u.cord.flights ++ [f], frag := addWindow .scalar { id := f.id, left := f.la } u.cord.frag } }

/-- The access of a scalar store with its placed lane. -/
def storeAccess (s : State) (size : Nat) (l : BitVec 4) (p : LaneAcc) : Access :=
  { stream := .scalar, pc := s.cord.frag.pc, isY := false, op := .store, scope := 0, size := size, signed := false, dest := .none, la := l.toNat, lanes := [p] }

theorem readView_storeIssued (s : State) (size : Nat) (l : BitVec 4) (p : LaneAcc) : readView (storeIssued s size l p).cord = readView (advance s).cord := rfl

/-- A store is pushed when it issues, and its paths are settled then (R112; log entry 2). -/
theorem issueAccess_store (s : State) (size : Nat) (l : BitVec 4) (p : LaneAcc) :
    issueAccess (storeAccess s size l p) (advance s) =
      setCord (fun c => pruneWindows (settlePaths c)) (pushFlight (storeFlight s size l p).id (storeIssued s size l p)) := by
  unfold issueAccess
  rw [if_neg (by simp [accessPaths, storeAccess])]
  rfl

/-- A scalar store from a cord with nothing in flight, whose lane is performed when it issues and changes nothing of the cord: the state is the performed one but for the cord, whose registers and
PC read as after the word. -/
theorem scalarIssue_store (s w : State) (size : Nat) (l : BitVec 4) (p q : LaneAcc) (v : DWord) (hs : s.cord.flights = [])
    (hpush : pushLane (storeFlight s size l p) p (storeIssued s size l p) = (q, w)) (hq : q.st = .done v) (hw : w.cord = (storeIssued s size l p).cord) :
    ∃ c, scalarIssue (storeAccess s size l p) s = { w with cord := c } ∧ readView c = readView (advance s).cord := by
  let f := storeFlight s size l p
  have hlone : (storeIssued s size l p).cord.flights = [f] := by
    show s.cord.flights ++ [f] = [f]
    rw [hs, List.nil_append]
  have hnolog : toLog (pushLane f p (storeIssued s size l p)).1 = false := by simp [f, hpush, toLog, hq]
  have hpf : pushFlight f.id (storeIssued s size l p) = setCord (putFlight { f with lanes := [q] }) w := by
    rw [pushFlight_lone _ f p hlone rfl hnolog]
    simp only [f, hpush]
  have hia : issueAccess (storeAccess s size l p) (advance s) =
      { w with cord := pruneWindows (settlePaths (putFlight { f with lanes := [q] } w.cord)) } := by
    rw [issueAccess_store, hpf]
    rfl
  have hfl : ∀ g ∈ (issueAccess (storeAccess s size l p) (advance s)).cord.flights, g.lanes.any hasFailed = false := by
    intro g hg
    rw [hia] at hg
    obtain ⟨g', hg', hl⟩ := lanes_of_mem_settlePaths _ g hg
    have : g' = { f with lanes := [q] } := by simpa [putFlight, hw, hlone] using hg'
    rw [hl, this]
    simp [hasFailed, hq]
  refine ⟨_, (issue_of_none_failed _ _ hfl).trans hia, ?_⟩
  rw [readView_pruneWindows, readView_settlePaths, readView_putFlight, hw, readView_storeIssued]

/-- What the registers, the lanes and the PC read after a word whose cord reads as after it. -/
theorem reads_of_readView (s t : State) (h : readView t.cord = readView (advance s).cord) :
    (∀ r : Reg, reg t r = reg s r) ∧ t.cord.frag.pc = s.cord.frag.after.getD (s.cord.frag.pc + 4) ∧ t.cord.vregs = s.cord.vregs ∧ t.cord.preds = s.cord.preds := by
  refine ⟨fun r => (cordReg_of_readView h r).trans (reg_advance s r), ?_⟩
  simp only [readView, Prod.mk.injEq] at h
  obtain ⟨-, -, hvregs, hpreds, hpc, -, -, -⟩ := h
  exact ⟨hpc, hvregs, hpreds⟩

/-- STW and STD are a store of the register's 4 bytes or the pair's 8 at the address of the SM format (R299, R340). -/
theorem exec_scalarStore (s : State) (d a : Reg) (o : BitVec 10) (l : BitVec 4) (size v : Nat) (i : Instr)
    (h : (i = .stw d a o l ∧ size = 4 ∧ v = (reg s d).toNat) ∨ (i = .std d a o l ∧ size = 8 ∧ v = (pair s d).toNat)) :
    (size = 4 ∨ size = 8) ∧ ∃ data : DWord, data.toNat = v ∧ v < 256 ^ size ∧
      exec i s = .next (scalarIssue (storeAccess s size l (placeLane s s.cord none size (newLane 0 (addrSM s a o size) data))) s) := by
  rcases h with ⟨rfl, rfl, rfl⟩ | ⟨rfl, rfl, rfl⟩
  · have hlt := (reg s d).isLt
    refine ⟨.inl rfl, (reg s d).setWidth 64, ?_, by omega, rfl⟩
    rw [BitVec.toNat_setWidth, Nat.mod_eq_of_lt (by omega)]
  · have hlt := (pair s d).isLt
    exact ⟨.inr rfl, pair s d, rfl, by omega, rfl⟩

end Sys2Proof.Proofs
end

section
/-! PROOFS of the family 00_scope.md, part four: a store in a window of scratch (R96 to R98). -/

namespace Sys2Proof.Proofs

open Sys2Proof Sys2Proof.Machine Sys2Proof.Laws

/-! ### Windows -/

/-- The stand of a key has that key. -/
theorem key_of_findStand {s : State} {k : StandKey} {st : Stand} (h : findStand s k = some st) : st.key = k := by
  unfold findStand at h
  simpa using List.find?_some h

/-- A scratch offset that names a byte of a window names one of a stand that has not ended (R97, R106). -/
theorem scratchPlace_win (s : State) (c : ClusterId) (me k : StandKey) (n off : Nat) (h : scratchPlace s c me n = .ok (.win k off)) : ∃ st, findStand s k = some st := by
  unfold scratchPlace at h
  split at h
  · cases h
  · split at h
    · cases h
    · split at h
      · cases h
      · rename_i st hst
        dsimp only at h
        split at h
        · cases h
          exact ⟨st, hst⟩
        · repeat' split at h
          all_goals cases h

/-- An address that steers to a byte of a window names one of a stand that has not ended. -/
theorem steer_win (s : State) (c : Cord) (va : DWord) (size : Nat) (k : StandKey) (off : Nat) (h : steer s c none va size = .ok (.win k off)) : ∃ st, findStand s k = some st := by
  unfold steer decodeScratch at h
  dsimp only at h
  split at h
  · split at h
    · rename_i t ht
      split at h
      · cases h
      · cases h
        exact scratchPlace_win _ _ _ _ _ _ ht
    · split at h <;> cases h
  · repeat' split at h
    all_goals cases h

/-- A lane whose address steers to a place is placed there. -/
theorem placeLane_of_steer (s : State) (c : Cord) (lane : Option Nat) (size : Nat) (p : LaneAcc) (t : Target) (h : steer s c lane p.va size = .ok t) :
    placeLane s c lane size p = { p with tgt := t } := by
  unfold placeLane
  rw [h]

theorem wakeWaiters_stands (k : StandKey) (s : State) : (wakeWaiters k s).stands = s.stands := by unfold wakeWaiters; split <;> rfl
theorem wakeWaiters_cord (k : StandKey) (s : State) : (wakeWaiters k s).cord = s.cord := by unfold wakeWaiters; split <;> rfl
theorem wakeWaiters_mem (k : StandKey) (s : State) : (wakeWaiters k s).mem = s.mem := by unfold wakeWaiters; split <;> rfl

/-- A stand with n bytes of its window written, when it is the one of a key. -/
def storeWindow (k : StandKey) (o n v : Nat) (st : Stand) : Stand := if st.key == k then { st with window := memWrite st.window o n v } else st

/-- The stands after a write in a window. -/
theorem findStand_scratchWrite (s : State) (k j : StandKey) (o n v : Nat) :
    findStand (scratchWrite (.win k o) n v s) j = (findStand s j).map (storeWindow k o n v) := by
  unfold findStand scratchWrite
  simp only [wakeWaiters_stands, setStand_stands]
  exact find_modifyWhere _ _ _ _ fun x => by split <;> rfl

theorem scratchWrite_win_cord (s : State) (k : StandKey) (o n v : Nat) : (scratchWrite (.win k o) n v s).cord = s.cord := wakeWaiters_cord _ _
theorem scratchWrite_win_mem (s : State) (k : StandKey) (o n v : Nat) : (scratchWrite (.win k o) n v s).mem = s.mem := wakeWaiters_mem _ _

/-- The bytes written in a window are read there. -/
theorem scratchRead_scratchWrite_same (s : State) (k : StandKey) (o n v : Nat) (st : Stand) (hst : findStand s k = some st) (hw : Memory.wf st.window = true) :
    scratchRead (.win k o) n (scratchWrite (.win k o) n v s) = v % 256 ^ n := by
  have hk : (st.key == k) = true := beq_iff_eq.mpr (key_of_findStand hst)
  simp only [scratchRead, findStand_scratchWrite, hst, Option.map_some, storeWindow, hk, if_true]
  exact memRead_memWrite n st.window o v hw

/-- Bytes of another window, or away from those written, read as before. -/
theorem scratchRead_scratchWrite_other (s : State) (k j : StandKey) (o n m v b : Nat) (hw : ∀ st, findStand s k = some st → Memory.wf st.window = true)
    (h : j ≠ k ∨ b + m ≤ o ∨ o + n ≤ b) : scratchRead (.win j b) m (scratchWrite (.win k o) n v s) = scratchRead (.win j b) m s := by
  simp only [scratchRead, findStand_scratchWrite]
  cases hst : findStand s j with
  | none => rfl
  | some st =>
    have hj : st.key = j := key_of_findStand hst
    simp only [Option.map_some, storeWindow, hj]
    by_cases hjk : j = k
    · subst hjk
      simp only [beq_self_eq_true, if_true]
      exact memRead_memWrite_other m n st.window o v b (hw st hst) (h.resolve_left fun hne => hne rfl)
    · simp only [beq_iff_eq, hjk, if_false]

/-! ### The store -/

/-- A store's lane at a window of a stand that has not ended is performed at once (R98, R122). -/
theorem pushLane_store_win (f : Flight) (p : LaneAcc) (s : State) (k : StandKey) (off : Nat) (st : Stand) (hs : s.cord.flights = [f]) (hop : f.op = .store)
    (hst : p.st = .todo) (hstage : p.stage = 0) (htgt : p.tgt = .win k off) (hk : findStand s k = some st) :
    pushLane f p s = (p.become (.done 0), scratchWrite (.win k off) f.size p.data.toNat s) := by
  unfold pushLane
  simp [hst, hstage, hop, htgt, olderClash_lone _ _ _ hs, flagPending, performScratch, scratchFault, hk, loaded]

/-- The store of STW and STD in a window: the bytes stand there, every other byte of every window and all of memory are as before, and the word is over (R98, R340). -/
theorem scalarStore_window (s : State) (size : Nat) (l : BitVec 4) (va data : DWord) (k : StandKey) (off : Nat) (hs : s.cord.flights = []) (hv : data.toNat < 256 ^ size)
    (hsteer : steer s s.cord none va size = .ok (.win k off)) (hw : ∀ st, findStand s k = some st → Memory.wf st.window = true) :
    let t := scalarIssue (storeAccess s size l (placeLane s s.cord none size (newLane 0 va data))) s
    scratchRead (.win k off) size t = data.toNat ∧
      (∀ k' b, k' ≠ k ∨ b < off ∨ off + size ≤ b → scratchRead (.win k' b) 1 t = scratchRead (.win k' b) 1 s) ∧ t.mem = s.mem ∧ readView t.cord = readView (advance s).cord := by
  intro t
  obtain ⟨st, hst⟩ := steer_win _ _ _ _ _ _ hsteer
  let p : LaneAcc := { newLane 0 va data with tgt := .win k off }
  have hp : placeLane s s.cord none size (newLane 0 va data) = p := placeLane_of_steer _ _ _ _ _ _ hsteer
  let u := storeIssued s size l p
  have hpush : pushLane (storeFlight s size l p) p u = (p.become (.done 0), scratchWrite (.win k off) size data.toNat u) :=
    pushLane_store_win (storeFlight s size l p) p u k off st (by show s.cord.flights ++ _ = _; rw [hs]; rfl) rfl rfl rfl rfl hst
  obtain ⟨c, ht, hc⟩ := scalarIssue_store s _ size l p _ 0 hs hpush rfl (scratchWrite_win_cord _ _ _ _ _)
  have ht : t = { scratchWrite (.win k off) size data.toNat u with cord := c } := by
    show scalarIssue (storeAccess s size l (placeLane s s.cord none size (newLane 0 va data))) s = _
    rw [hp, ht]
  rw [ht]
  refine ⟨?_, fun k' b h => ?_, scratchWrite_win_mem _ _ _ _ _, hc⟩
  · exact (scratchRead_scratchWrite_same u k off size data.toNat st hst (hw st hst)).trans (Nat.mod_eq_of_lt hv)
  · exact scratchRead_scratchWrite_other u k k' off size 1 data.toNat b hw h

end Sys2Proof.Proofs
end

section
/-! PROOFS of the family 00_scope.md, part five: the bytes of a cluster's copy of a line after a store to it (R103, R115). -/

namespace Sys2Proof.Proofs

open Sys2Proof Sys2Proof.Machine Sys2Proof.Laws

/-! ### Masks and the bits of their bytes -/

/-- The mask of n bytes at an offset has the bits of those bytes. -/
theorem testBit_spanMask (off n b : Nat) : (spanMask off n).testBit b = (decide (off ≤ b) && decide (b < off + n)) := by
  rw [spanMask, Nat.testBit_mul_two_pow, Nat.testBit_two_pow_sub_one]
  by_cases h : off ≤ b
  · simp only [h, decide_true, Bool.true_and, decide_eq_decide]
    omega
  · simp [h]

theorem getLsbD_spanMask (off n b : Nat) (hb : b < 128) : (BitVec.ofNat 128 (spanMask off n)).getLsbD b = (decide (off ≤ b) && decide (b < off + n)) := by
  rw [BitVec.getLsbD_ofNat, testBit_spanMask]
  simp [hb]

/-- The bits of one more byte of a byte mask. -/
theorem spread_succ (mask n : Nat) : spread mask (n + 1) = 2 ^ (8 * n) * (if mask.testBit n then 255 else 0) + spread mask n := by
  unfold spread
  rw [List.range_succ, List.foldl_append, List.foldl_cons, List.foldl_nil]
  split <;> omega

theorem spread_lt (mask n : Nat) : spread mask n < 2 ^ (8 * n) := by
  induction n with
  | zero => exact Nat.one_pos
  | succ n ih =>
    have hp : 2 ^ (8 * (n + 1)) = 2 ^ (8 * n) * 256 := by rw [Nat.mul_succ, Nat.pow_add]
    rw [spread_succ, hp]
    split <;> omega

/-- The bits of the bytes that a mask names: eight for each of its bits. -/
theorem testBit_spread (mask n i : Nat) : (spread mask n).testBit i = (decide (i < 8 * n) && mask.testBit (i / 8)) := by
  induction n with
  | zero => simp [spread]
  | succ n ih =>
    rw [spread_succ, Nat.testBit_two_pow_mul_add _ (spread_lt mask n), ih]
    by_cases h : i < 8 * n
    · simp [h, Nat.lt_of_lt_of_le h (by omega : 8 * n ≤ 8 * (n + 1))]
    · have h255 : (255 : Nat).testBit (i - 8 * n) = decide (i - 8 * n < 8) := Nat.testBit_two_pow_sub_one 8 _
      rw [if_neg h]
      by_cases h' : i < 8 * (n + 1)
      · have hd : i / 8 = n := by omega
        have h8 : i - 8 * n < 8 := by omega
        rw [hd]
        cases mask.testBit n <;> simp [h', h255, h8]
      · have h8 : ¬ i - 8 * n < 8 := by omega
        cases mask.testBit n <;> simp [h', h255, h8]

/-- A line with masked bytes replaced, bit by bit. -/
theorem getLsbD_mergeBytes (data v : BitVec 1024) (mask : BitVec 128) (j : Nat) (hj : j < 1024) :
    (mergeBytes data v mask).getLsbD j = if mask.getLsbD (j / 8) then v.getLsbD j else data.getLsbD j := by
  have hm : (BitVec.ofNat 1024 (spread mask.toNat 128)).getLsbD j = mask.getLsbD (j / 8) := by
    rw [BitVec.getLsbD_ofNat, testBit_spread, BitVec.testBit_toNat]
    simp [hj]
  simp only [mergeBytes, BitVec.getLsbD_or, BitVec.getLsbD_and, BitVec.getLsbD_not, hm, hj, decide_true, Bool.true_and]
  cases mask.getLsbD (j / 8) <;> simp

/-! ### The bytes of a line -/

theorem testBit_lineBytes (l : CacheLine) (off n i : Nat) : (lineBytes l off n).testBit i = (decide (i < 8 * n) && l.data.getLsbD (8 * off + i)) := by
  rw [lineBytes, Nat.testBit_mod_two_pow, Nat.testBit_shiftRight, BitVec.testBit_toNat]

/-- A bit of a line's data after a store to it: the value's inside the bytes stored, and as before outside them. -/
theorem getLsbD_storeLine_data (l : CacheLine) (off n v j : Nat) (hj : j < 1024) :
    (storeLine l off n v).data.getLsbD j = if off ≤ j / 8 ∧ j / 8 < off + n then (v % 2 ^ (8 * n)).testBit (j - 8 * off) else l.data.getLsbD j := by
  simp only [storeLine, getLsbD_mergeBytes _ _ _ j hj, getLsbD_spanMask off n (j / 8) (by omega), BitVec.getLsbD_ofNat, Nat.testBit_mul_two_pow, hj,
    decide_true, Bool.true_and, Bool.and_eq_true, decide_eq_true_eq]
  by_cases h : off ≤ j / 8 ∧ j / 8 < off + n
  · have h8 : 8 * off ≤ j := by omega
    rw [if_pos h, if_pos h, decide_eq_true h8, Bool.true_and]
  · rw [if_neg h, if_neg h]

/-- The bytes stored in a line are read there. -/
theorem lineBytes_storeLine_same (l : CacheLine) (off n v : Nat) (h : off + n ≤ 128) : lineBytes (storeLine l off n v) off n = v % 2 ^ (8 * n) := by
  refine Nat.eq_of_testBit_eq fun i => ?_
  rw [testBit_lineBytes]
  by_cases hi : i < 8 * n
  · rw [getLsbD_storeLine_data _ _ _ _ _ (by omega), if_pos (by omega), Nat.add_sub_cancel_left]
    simp [hi]
  · simp [Nat.testBit_mod_two_pow, hi]

/-- Bytes of a line away from those stored are as before. -/
theorem lineBytes_storeLine_other (l : CacheLine) (off n v b k : Nat) (hb : b + k ≤ 128) (h : b + k ≤ off ∨ off + n ≤ b) :
    lineBytes (storeLine l off n v) b k = lineBytes l b k := by
  refine Nat.eq_of_testBit_eq fun i => ?_
  rw [testBit_lineBytes, testBit_lineBytes]
  by_cases hi : i < 8 * k
  · rw [getLsbD_storeLine_data _ _ _ _ _ (by omega), if_neg (by omega)]
  · simp [hi]

theorem getLsbD_storeLine_valid (l : CacheLine) (off n v b : Nat) (hb : b < 128) :
    (storeLine l off n v).valid.getLsbD b = (l.valid.getLsbD b || (decide (off ≤ b) && decide (b < off + n))) := by
  rw [storeLine, BitVec.getLsbD_or, getLsbD_spanMask off n b hb]

theorem getLsbD_storeLine_dirty (l : CacheLine) (off n v b : Nat) (hb : b < 128) :
    (storeLine l off n v).dirty.getLsbD b = (l.dirty.getLsbD b || (decide (off ≤ b) && decide (b < off + n))) := by
  rw [storeLine, BitVec.getLsbD_or, getLsbD_spanMask off n b hb]

/-- A line to which something has been stored holds a byte. -/
theorem storeLine_valid_ne_zero (l : CacheLine) (off n v : Nat) (hn : 0 < n) (h : off + n ≤ 128) : (storeLine l off n v).valid ≠ 0 := by
  intro h0
  have hb := getLsbD_storeLine_valid l off n v off (by omega)
  rw [h0] at hb
  simp [hn] at hb

/-! ### The lines of a cluster cache -/

/-- The line at an address is one of that address. -/
theorem cacheLine_addr (cl : Cluster) (line : Nat) (stack : Bool) : (cacheLine cl line stack).addr = line ∧ (cacheLine cl line stack).stack = stack := by
  unfold cacheLine
  cases h : cl.lines.find? (fun l => l.addr == line && l.stack == stack) with
  | none => exact ⟨rfl, rfl⟩
  | some l => simpa using List.find?_some h

/-- A line that is put into a cache and holds a byte is the one at its address. -/
theorem cacheLine_putLine (cl : Cluster) (l : CacheLine) (h : l.valid ≠ 0) : cacheLine { cl with lines := putLine cl.lines l } l.addr l.stack = l := by
  unfold cacheLine putLine
  dsimp only
  rw [if_neg h, List.find?_cons_of_pos (by simp), Option.getD_some]

/-- Putting a line into a cache leaves every other line. -/
theorem mem_putLine_other (ls : List CacheLine) (l x : CacheLine) (h : x.addr ≠ l.addr ∨ x.stack ≠ l.stack) : x ∈ putLine ls l ↔ x ∈ ls := by
  have hne : x ≠ l := by
    rintro rfl
    simp at h
  have hkept : x ∈ ls.filter (fun y => !(y.addr == l.addr && y.stack == l.stack)) ↔ x ∈ ls := by
    rw [List.mem_filter]
    refine ⟨fun hx => hx.1, fun hx => ⟨hx, ?_⟩⟩
    rcases h with h | h <;> simp [h]
  unfold putLine
  dsimp only
  split
  · exact hkept
  · rw [List.mem_cons, hkept]
    exact ⟨fun hx => hx.resolve_left hne, .inr⟩

/-- A store to the copy of a line, whatever way it takes, leaves the copy as R115 has it: its bytes dirty, the others and every other line as before. -/
theorem cacheHolds_storeLine (cl : Cluster) (line off n v : Nat) (w : BitVec 4) (hn : 0 < n) (hoff : off + n ≤ 128) (hv : v < 2 ^ (8 * n)) :
    cacheHolds cl { cl with lines := putLine cl.lines (storeLine { cacheLine cl line false with way := w } off n v) } line off n v := by
  obtain ⟨haddr, hstack⟩ := cacheLine_addr cl line false
  let cur : CacheLine := { cacheLine cl line false with way := w }
  let new := storeLine cur off n v
  have hnew : cacheLine { cl with lines := putLine cl.lines new } line false = new := by
    have h := cacheLine_putLine cl new (storeLine_valid_ne_zero cur off n v hn hoff)
    rwa [show new.addr = line from haddr, show new.stack = false from hstack] at h
  unfold cacheHolds
  dsimp only
  rw [show storeLine { cacheLine cl line false with way := w } off n v = new from rfl, hnew]
  refine ⟨?_, fun b h1 h2 => ?_, fun b hb hout => ⟨?_, fun hval => ⟨?_, ?_⟩⟩, fun x hx => ?_⟩
  · exact (lineBytes_storeLine_same cur off n v hoff).trans (Nat.mod_eq_of_lt hv)
  · simp [new, getLsbD_storeLine_valid _ _ _ _ b (by omega), getLsbD_storeLine_dirty _ _ _ _ b (by omega), h1, h2]
  · have hb' : ¬ (off ≤ b ∧ b < off + n) := by omega
    rw [getLsbD_storeLine_dirty _ _ _ _ b hb, ← Bool.decide_and, decide_eq_false hb', Bool.or_false]
  · rw [getLsbD_storeLine_valid _ _ _ _ b hb]
    exact Bool.or_eq_true_iff.mpr (.inl hval)
  · exact lineBytes_storeLine_other cur off n v b 1 (by omega) (by omega)
  · refine mem_putLine_other cl.lines new x ?_
    rw [show new.addr = line from haddr, show new.stack = false from hstack]
    rcases hx with hx | hx
    · exact .inl hx
    · exact .inr (by simp [hx])

end Sys2Proof.Proofs
end

section
/-! PROOFS of the family 00_scope.md, part six: a store to global memory that this package owns, in the cluster's copy and through to the slice (R102, R103, R112, R231, R340). -/

namespace Sys2Proof.Proofs

open Sys2Proof Sys2Proof.Machine Sys2Proof.Laws

/-! ### The way to the place -/

/-- An aligned address of the global aperture steers to global memory (R94, R95). -/
theorem steer_global (s : State) (c : Cord) (va : DWord) (n : Nat) (hr : globalRange va n = true) (ha : va.toNat % n = 0) (hn : n ∣ 2 ^ 56) :
    steer s c none va n = .ok .virt := by
  have htop : fieldNat va 56 8 = 0x00 ∨ fieldNat va 56 8 = 0xFF := by
    simp only [globalRange, Bool.and_eq_true, Bool.or_eq_true, beq_iff_eq] at hr
    exact hr.1
  have hoff : fieldNat va 0 56 % n = 0 := by
    rw [fieldNat, Nat.shiftRight_zero, Nat.mod_mod_of_dvd _ hn, ha]
  unfold steer
  dsimp only
  rw [if_neg (by omega), if_neg (by omega), if_pos htop, if_neg (by omega)]

/-- A translated access to a page without pending log entries goes to its physical address (R161, R169). -/
theorem performVirt_cached (f : Flight) (l : LaneAcc) (va : DWord) (need pa : Nat) (k : Nat → State → LaneAcc × State) (s : State)
    (hp : pagePending s (thisCore s) s.cord.pasid (va.toNat % 2 ^ 57 / 4096) = false) (hc : cached s (thisCore s) s.cord.pasid va.toNat need = some pa) :
    performVirt f l va need k s = k pa s := by
  simp only [performVirt, hp, hc, Bool.and_false, Bool.false_eq_true, if_false]

/-- A plain store's lane that is alone in its flight, as the flight is in its cord, goes to its place: no older access and no other lane names its bytes (R121, R122). -/
theorem performAt_store (f : Flight) (p : LaneAcc) (pa : Nat) (s : State) (hs : s.cord.flights = [f]) (hp : f.lanes = [p]) (hop : f.op = .store) (hmode : p.mode = 0) :
    performAt f p pa s = storeCached f { p with at_ := some pa } pa s := by
  have hcov : coveredBy f { p with at_ := some pa } pa = .free := by simp [coveredBy, hp]
  have htwin : twin f { p with at_ := some pa } pa = none := by simp [twin, hop]
  unfold performAt
  dsimp only
  rw [if_neg (by simp [olderClash_lone _ _ _ hs, lowerFirst, hop]), hcov, htwin]
  simp [performPhys, hop, hmode]

/-- A plain store's lane at a global address with its translation at hand, alone in flight, is the store at its physical address. -/
theorem pushLane_store_virt (f : Flight) (p : LaneAcc) (pa : Nat) (s : State) (hs : s.cord.flights = [f]) (hp : f.lanes = [p]) (hop : f.op = .store) (hmode : p.mode = 0)
    (hst : p.st = .todo) (hstage : p.stage = 0) (htgt : p.tgt = .virt) (hpend : pagePending s (thisCore s) s.cord.pasid (p.va.toNat % 2 ^ 57 / 4096) = false)
    (hc : cached s (thisCore s) s.cord.pasid p.va.toNat 2 = some pa) : pushLane f p s = storeCached f { p with at_ := some pa } pa s := by
  rw [← performAt_store f p pa s hs hp hop hmode, ← performVirt_cached f p p.va 2 pa (performAt f p) s hpend hc]
  unfold pushLane
  simp [hst, hstage, hop, htgt, olderClash_lone _ _ _ hs, flagPending, needOf]

/-! ### The cluster's copy -/

/-- With every line in a live way no access waits for a departing bank (R102). -/
theorem leaveBank_live (c : ClusterId) (line : Nat) (stack : Bool) (s : State) (h : ∀ l ∈ (clusterOf s c).lines, liveWay (clusterOf s c) l.way.toNat = true) :
    leaveBank c line stack s = (some s, s) := by
  unfold leaveBank leaveFor
  rw [if_neg]
  simp only [List.any_eq_true, not_exists, not_and, Bool.and_eq_true]
  rintro l hl -
  simp [h l hl]

/-- A cache that takes a line at once has the copy of it in a way, its own or a free one (R103). -/
theorem withRoom_of_cacheTakes (c : ClusterId) (line : Nat) (s : State) (h : cacheTakes (clusterOf s c) line) (hw : hasWays (clusterOf s c) = true) :
    ∃ w, withRoom c line false s = (some { cacheLine (clusterOf s c) line false with way := w }, s) := by
  unfold withRoom cacheLine
  dsimp only
  cases hf : (clusterOf s c).lines.find? (fun l => l.addr == line && l.stack == false) with
  | some l => exact ⟨l.way, rfl⟩
  | none =>
    have hnil : (clusterOf s c).lines = [] := by
      refine h.2.resolve_right ?_
      rintro ⟨l, hl, ha, hst⟩
      have := List.find?_eq_none.mp hf l hl
      simp [ha, hst] at this
    have hlive : (List.range 16).filter (liveWay (clusterOf s c)) ≠ [] := by
      obtain ⟨k, hk, hkw⟩ := List.any_eq_true.mp hw
      exact List.ne_nil_of_mem (List.mem_filter.mpr ⟨hk, hkw⟩)
    simp only [hnil, List.find?_nil, Option.isNone_none]
    split
    · rename_i k hk
      exact ⟨BitVec.ofNat 4 k, rfl⟩
    · rename_i hk
      exfalso
      have hways := List.find?_eq_none.mp hk
      split at hways
      · obtain ⟨k, hk⟩ := List.exists_mem_of_ne_nil _ hlive
        simpa using hways k hk
      · rename_i hgood
        obtain ⟨k, hk⟩ := List.exists_mem_of_ne_nil _ (fun h => hgood (List.isEmpty_iff.mpr h))
        simpa using hways k hk

/-- A store to a line that the cluster cache takes at once leaves its bytes in the cluster's copy (R103). -/
theorem storeCached_cache (f : Flight) (p : LaneAcc) (pa : Nat) (s : State) (h : cacheTakes (clusterOf s (thisCluster s)) (lineOf pa))
    (hw : hasWays (clusterOf s (thisCluster s)) = true) :
    ∃ w, storeCached f p pa s = (p.become (.done 0),
      keepIn (thisCluster s) (storeLine { cacheLine (clusterOf s (thisCluster s)) (lineOf pa) false with way := w } (pa % 128) f.size p.data.toNat) s) := by
  obtain ⟨w, hroom⟩ := withRoom_of_cacheTakes _ _ s h hw
  refine ⟨w, ?_⟩
  simp only [storeCached, viaCache, leaveBank_live _ _ _ s h.1, hw, if_true, withCopy, hroom]

/-! ### The slice -/

/-- An owned granule that nothing holds back is reached here (R231, R232, R250). -/
theorem routeOf_calm (s : State) (d : DieId) (pa : Nat) (hc : calm s) (ho : ownsAt s pa) : ∃ p f, routeOf s d (gfnOf pa) = .here p f := by
  obtain ⟨hjoined, -, hmoves, -, hann, -, -⟩ := hc
  obtain ⟨⟨p, f⟩, hown⟩ := Option.isSome_iff_exists.mp ho
  refine ⟨p, f, ?_⟩
  have hres : resolve s d (gfnOf pa) = .here p f := by simp [resolve, hjoined, redirectHold, hann, hown]
  simp [routeOf, hres, movingNow, hmoves]

/-- What an access leaves at a slice beside its bytes changes no byte. -/
theorem touchMask_mem (ag : Agent) (kind pa mask : Nat) (s : State) : (touchMask ag kind pa mask s).mem = s.mem := by
  have hnote : ∀ line s, (noteText line s).mem = s.mem := fun line s => by unfold noteText keepText; split <;> rfl
  have hconf : ∀ line w s, (hostConflict line w s).mem = s.mem := fun line w s => by unfold hostConflict flushHosts; dsimp only; split <;> rfl
  unfold touchMask
  dsimp only
  rw [wakeLine_mem]
  repeat' split
  all_goals simp only [hnote, hconf, addValue]

/-- Writing every byte of a mask is writing them. -/
theorem memWriteMask_full (n : Nat) (m : Memory) (a v : Nat) : memWriteMask m a n v (2 ^ n - 1) = memWrite m a n v := by
  induction n generalizing m a v with
  | zero => rfl
  | succ n ih =>
    have hpos := Nat.two_pow_pos n
    have hodd : (2 ^ (n + 1) - 1) % 2 = 1 := by omega
    have hhalf : (2 ^ (n + 1) - 1) / 2 = 2 ^ n - 1 := by omega
    rw [memWriteMask, memWrite, if_pos hodd, hhalf, ih]

/-- A write at a slice where no copy is out and no granule moves stores its bytes (R234, R250). -/
theorem sliceWrite_calm (ag : Agent) (pa n v : Nat) (s : State) (hc : calm s) :
    ∃ t, sliceWrite ag pa n v (2 ^ n - 1) none s = (.done 0, t) ∧ t.mem = memWrite s.mem pa n v ∧ Quiet s t := by
  obtain ⟨-, hdir, hmoves, -, -, -, -⟩ := hc
  have hq := sliceWrite_quiet ag pa n v (2 ^ n - 1) none s
  have hreach : ∀ mask, reachMask ag 1 pa mask none s = (.done 0, touchMask ag 1 pa mask s) := fun mask => by
    simp [reachMask, movingNow, hmoves, claimLine, hdir]
  simp only [sliceWrite, hreach] at hq ⊢
  exact ⟨_, rfl, by rw [touchMask_mem, memWriteMask_full], hq⟩

/-- A store where no bank is a way goes through to the owning slice (R103, R112). -/
theorem storeCached_through (f : Flight) (p : LaneAcc) (pa : Nat) (s : State) (h : cacheTakes (clusterOf s (thisCluster s)) (lineOf pa))
    (hw : hasWays (clusterOf s (thisCluster s)) = false) (hc : calm s) (ho : ownsAt s pa) :
    ∃ t, storeCached f p pa s = (p.become (.done 0), t) ∧ t.mem = memWrite s.mem pa f.size p.data.toNat ∧ Quiet s t := by
  obtain ⟨x, y, hroute⟩ := routeOf_calm s (thisDie s) pa hc ho
  obtain ⟨t, hsw, hmem, hquiet⟩ := sliceWrite_calm (cordAgent s) pa f.size p.data.toNat s hc
  refine ⟨t, ?_, hmem, hquiet⟩
  simp only [storeCached, viaCache, leaveBank_live _ _ _ s h.1, hw, Bool.false_eq_true, if_false, atOwner, hroute, served, hsw, loaded]
  rfl

/-! ### The store -/

/-- The clusters after a line has been put into one of them. -/
theorem clusterOf_keepIn_same (c : ClusterId) (l : CacheLine) (s : State) : clusterOf (keepIn c l s) c = { clusterOf s c with lines := putLine (clusterOf s c).lines l } := by
  simp [clusterOf, keepIn, setCluster]

theorem clusterOf_keepIn_other (c x : ClusterId) (l : CacheLine) (s : State) (h : x ≠ c) : clusterOf (keepIn c l s) x = clusterOf s x := by
  simp [clusterOf, keepIn, setCluster, (toNat_ne h).symm]

/-- Where the bytes of a store at a physical address are to be found in the next state (R102, R103). -/
def storedAt (s t : State) (pa size v : Nat) : Prop :=
  if hasWays (clusterOf s (thisCluster s)) then
    cacheHolds (clusterOf s (thisCluster s)) (clusterOf t (thisCluster s)) (lineOf pa) (pa % 128) size v ∧ t.mem = s.mem ∧
      ∀ c, c ≠ thisCluster s → clusterOf t c = clusterOf s c
  else memRead t.mem pa size = v ∧ ∀ x, x < pa ∨ pa + size ≤ x → memGet t.mem x = memGet s.mem x

/-- A plain store to owned global memory that nothing holds back is performed at once: in the cluster's copy, or in memory. -/
theorem storeCached_storedAt (f : Flight) (p : LaneAcc) (pa : Nat) (s : State) (hn : 0 < f.size) (hline : pa % 128 + f.size ≤ 128) (hv : p.data.toNat < 256 ^ f.size)
    (h : cacheTakes (clusterOf s (thisCluster s)) (lineOf pa)) (hc : calm s) (ho : ownsAt s pa) (hm : Memory.wf s.mem = true) :
    ∃ t, storeCached f p pa s = (p.become (.done 0), t) ∧ t.cord = s.cord ∧ t.stands = s.stands ∧ storedAt s t pa f.size p.data.toNat := by
  cases hw : hasWays (clusterOf s (thisCluster s)) with
  | true =>
    obtain ⟨w, hst⟩ := storeCached_cache f p pa s h hw
    refine ⟨_, hst, rfl, rfl, ?_⟩
    have hv8 : p.data.toNat < 2 ^ (8 * f.size) := by rwa [Nat.pow_mul]
    rw [storedAt, if_pos hw, clusterOf_keepIn_same]
    exact ⟨cacheHolds_storeLine _ _ _ _ _ w hn hline hv8, rfl, fun c hne => clusterOf_keepIn_other _ c _ s hne⟩
  | false =>
    obtain ⟨t, hst, hmem, hquiet⟩ := storeCached_through f p pa s h hw hc ho
    refine ⟨t, hst, hquiet.cord, hquiet.stands, ?_⟩
    rw [storedAt, hw, if_neg Bool.false_ne_true, hmem, memRead_memWrite _ _ _ _ hm, Nat.mod_eq_of_lt hv]
    exact ⟨rfl, fun x hx => memGet_memWrite_other _ _ _ _ x hm hx⟩

/-- The store of STW and STD at a global address (R103, R112, R340). -/
theorem scalarStore_global (s : State) (size : Nat) (l : BitVec 4) (va data : DWord) (pa : Nat) (hs : s.cord.flights = []) (hsize : size = 4 ∨ size = 8)
    (hv : data.toNat < 256 ^ size) (hr : reachesHere s va size 2 pa) (hct : cacheTakes (clusterOf s (thisCluster s)) (lineOf pa)) (hm : Memory.wf s.mem = true) :
    let t := scalarIssue (storeAccess s size l (placeLane s s.cord none size (newLane 0 va data))) s
    readView t.cord = readView (advance s).cord ∧ t.stands = s.stands ∧ storedAt s t pa size data.toNat := by
  intro t
  obtain ⟨hglobal, halign, hpa, hcached, hpend, hcalm, howns⟩ := hr
  have hdvd : size ∣ 2 ^ 56 := by rcases hsize with rfl | rfl <;> decide
  have hline : pa % 128 + size ≤ 128 := by rcases hsize with rfl | rfl <;> omega
  let p : LaneAcc := newLane 0 va data
  have hp : placeLane s s.cord none size p = p := placeLane_of_steer _ _ _ _ _ _ (steer_global s s.cord va size hglobal halign hdvd)
  let f := storeFlight s size l p
  let u := storeIssued s size l p
  have hu : u.cord.flights = [f] := by
    show s.cord.flights ++ [f] = [f]
    rw [hs, List.nil_append]
  obtain ⟨w, hst, hcord, hstands, hat⟩ := storeCached_storedAt f { p with at_ := some pa } pa u (by show 0 < size; omega) hline hv hct hcalm howns hm
  have hpush : pushLane f p u = ({ p with at_ := some pa }.become (.done 0), w) :=
    (pushLane_store_virt f p pa u hu rfl rfl rfl rfl rfl rfl hpend hcached).trans hst
  obtain ⟨c, ht, hc⟩ := scalarIssue_store s w size l p _ 0 hs hpush rfl hcord
  have ht : t = { w with cord := c } := by
    show scalarIssue (storeAccess s size l (placeLane s s.cord none size p)) s = _
    rw [hp, ht]
  rw [ht]
  exact ⟨hc, hstands, hat⟩

/-- Settles O23: a store in a window, and a store to owned global memory, each followed from its issue to its place. -/
theorem storeStoresItsBytesOnly : Obligations.StoreStoresItsBytesOnly := by
  intro s d a o l size i v hq hi
  obtain ⟨-, -, hflights, -, -, -, -⟩ := hq
  obtain ⟨hsize, data, rfl, hv, hexec⟩ := exec_scalarStore s d a o l size v i hi
  refine ⟨fun k off hsteer hw => ?_, fun pa hr hct hm => ?_⟩
  · obtain ⟨hread, hother, hmem, hcord⟩ := scalarStore_window s size l _ data k off hflights hv hsteer hw
    exact ⟨_, hexec, hread, hother, fun x => congrArg (memGet · x) hmem, reads_of_readView s _ hcord⟩
  · obtain ⟨hcord, hstands, hat⟩ := scalarStore_global s size l _ data pa hflights hsize hv hr hct hm
    exact ⟨_, hexec, reads_of_readView s _ hcord, hstands, hat⟩

end Sys2Proof.Proofs
end

section
/-! PROOFS of the family 01_package.md: MFS and MTS of the special registers (01 R14; 05 R101; 08 R171, R178, R180; 15 R327, R328). -/

namespace Sys2Proof.Proofs

open Sys2Proof Sys2Proof.Machine Sys2Proof.Laws

/-! ### The registers that can be read -/

/-- The numbers from 51 to 63 read 0 (R328). -/
theorem supervisorReg_reserved (s : State) (n : Nat) (h : 51 ≤ n) : supervisorReg s n = 0 := by
  unfold supervisorReg
  split
  case h_4 => rfl
  all_goals omega

/-- Numbers 4 to 6 are the core in its cluster, the cluster in its die and the die (R14). -/
theorem placeReg_core (f : Fabric) (c : CordId) : placeReg f c 4 = BitVec.ofNat 32 (c.core.toNat % 4) := by
  simp [placeReg, fieldNat]

theorem placeReg_cluster (f : Fabric) (c : CordId) : placeReg f c 5 = BitVec.ofNat 32 (c.core.toNat / 4 % 16) := by
  simp [placeReg, fieldNat, Nat.shiftRight_eq_div_pow]

theorem placeReg_die (f : Fabric) (c : CordId) : placeReg f c 6 = BitVec.ofNat 32 (c.core.toNat / 64) := by
  have hdie : c.core.toNat / 64 < 4 := by omega
  simp [placeReg, fieldNat, Nat.shiftRight_eq_div_pow, Nat.mod_eq_of_lt hdie]

/-- Numbers 10 to 15 are the path counters. -/
theorem specialOf_path (f : Fabric) (c : Cord) (n : Nat) (h : n < 6) : specialOf f c (10 + n) = (c.paths.getD n 0).setWidth 32 := by
  match n, h with
  | 0, _ | 1, _ | 2, _ | 3, _ | 4, _ | 5, _ => rfl

/-- Numbers 20 to 22 are the lanes of the trap record. -/
theorem specialOf_trapLanes (f : Fabric) (c : Cord) (k : Nat) (h : k < 3) : specialOf f c (20 + k) = maskWord c.trap.lanes k := by
  match k, h with
  | 0, _ | 1, _ | 2, _ => rfl

/-! ### The registers that can be written -/

theorem writeSpecial_readOnly (n : Nat) (v : Word) (c : Cord) (h19 : n ≠ 19) (h26 : n ≠ 26) (h27 : n ≠ 27) : writeSpecial n v c = c := by
  unfold writeSpecial
  split
  case h_4 => rfl
  all_goals contradiction

/-- %trap.resume is written by the user handler (R180). -/
theorem writeSpecial_resume_handler (v : Word) (c : Cord) (h : c.handlerFlag = true) : writeSpecial 19 v c = { c with trap := { c.trap with resume := v } } :=
  if_pos h

/-- Outside the user handler %trap.resume is read-only. -/
theorem writeSpecial_resume_other (v : Word) (c : Cord) (h : c.handlerFlag = false) : writeSpecial 19 v c = c :=
  if_neg (ne_true_of_eq_false h)

theorem writeSupervisor_readOnly (n : Nat) (v : Word) (s : State) (h48 : n ≠ 48) (h49 : n ≠ 49) (h51 : n ≠ 51) : writeSupervisor n v s = s := by
  unfold writeSupervisor
  split
  case h_4 => rfl
  all_goals contradiction

theorem lo_append (x y : Word) : DWord.lo (x ++ y) = y := BitVec.extractLsb'_append_eq_right

theorem hi_append (x y : Word) : DWord.hi (x ++ y) = x := BitVec.extractLsb'_append_eq_left

/-! ### MFS and MTS by the range of the number -/

/-- The number that a word names is the one it encodes. -/
theorem spNum_toNat (n : Nat) (h : n < 64) : (BitVec.ofNat 6 n).toNat = n := Nat.mod_eq_of_lt h

/-- MFS of a number below 30: the handler reads its place or 0, a cord its register, with the latch for number 8 (R328). -/
theorem exec_mfs_low (s : State) (d : Reg) (n : Nat) (hn : n < 30) :
    exec (.mfs d (BitVec.ofNat 6 n)) s = .next (
      if s.cord.id.handler then result d (if 4 ≤ n ∧ n ≤ 7 then placeReg s.fabric s.cord.id n else 0) s
      else if n = 8 then readCycles d s
      else result d (specialOf s.fabric s.cord n) s) := by
  have h30 : ¬ 30 ≤ n := by omega
  have h48 : ¬ 48 ≤ n := by omega
  change execMfs _ _ _ = _
  simp only [execMfs, spNum_toNat n (by omega), h30, h48, decide_false, Bool.false_and, Bool.false_eq_true, if_false]

/-- MFS of a number from 48: the handler reads its register, a cord traps (R327). -/
theorem exec_mfs_high (s : State) (d : Reg) (n : Nat) (h48 : 48 ≤ n) (hn : n < 64) :
    exec (.mfs d (BitVec.ofNat 6 n)) s = .next (if s.cord.id.handler then result d (supervisorReg s n) s else raiseScalar 4 s) := by
  have hlow : ¬ n < 48 := by omega
  change execMfs _ _ _ = _
  simp only [execMfs, spNum_toNat n hn, h48, hlow, decide_false, Bool.and_false, Bool.false_eq_true, if_false, if_true]

/-- MTS of a number below 30: the handler's is ignored, a cord's is the write of its register (R328). -/
theorem exec_mts_low (s : State) (a : Reg) (n : Nat) (hn : n < 30) :
    exec (.mts a (BitVec.ofNat 6 n)) s = .next (if s.cord.id.handler then advance s else advance (setCord (writeSpecial n (reg s a)) s)) := by
  have h30 : ¬ 30 ≤ n := by omega
  have h48 : ¬ 48 ≤ n := by omega
  change execMts _ _ _ = _
  simp only [execMts, spNum_toNat n (by omega), h30, h48, decide_false, Bool.false_and, Bool.false_eq_true, if_false]

/-- MTS of a number from 48: the handler's is the write of its register, a cord traps (R327). -/
theorem exec_mts_high (s : State) (a : Reg) (n : Nat) (h48 : 48 ≤ n) (hn : n < 64) :
    exec (.mts a (BitVec.ofNat 6 n)) s = .next (if s.cord.id.handler then advance (writeSupervisor n (reg s a) s) else raiseScalar 4 s) := by
  have hlow : ¬ n < 48 := by omega
  change execMts _ _ _ = _
  simp only [execMts, spNum_toNat n hn, h48, hlow, decide_false, Bool.and_false, Bool.false_eq_true, if_false, if_true]

/-! ### MFS and MTS by who runs them -/

theorem exec_mfs_handler_low (s : State) (d : Reg) (n : Nat) (hh : s.cord.id.handler = true) (hn : n < 30) :
    exec (.mfs d (BitVec.ofNat 6 n)) s = .next (result d (if 4 ≤ n ∧ n ≤ 7 then placeReg s.fabric s.cord.id n else 0) s) := by
  rw [exec_mfs_low s d n hn, if_pos hh]

theorem exec_mfs_handler_high (s : State) (d : Reg) (n : Nat) (hh : s.cord.id.handler = true) (h48 : 48 ≤ n) (hn : n < 64) :
    exec (.mfs d (BitVec.ofNat 6 n)) s = .next (result d (supervisorReg s n) s) := by
  rw [exec_mfs_high s d n h48 hn, if_pos hh]

theorem exec_mfs_cord (s : State) (d : Reg) (n : Nat) (hh : s.cord.id.handler = false) (hn : n < 30) (h8 : n ≠ 8) :
    exec (.mfs d (BitVec.ofNat 6 n)) s = .next (result d (specialOf s.fabric s.cord n) s) := by
  rw [exec_mfs_low s d n hn, hh, if_neg Bool.false_ne_true, if_neg h8]

/-- A cord's MFS of %cycles.lo is CYCLES_LO_READ. -/
theorem exec_mfs_cycles (s : State) (d : Reg) (hh : s.cord.id.handler = false) : exec (.mfs d (BitVec.ofNat 6 8)) s = exec (.cyclesLoRead d) s := by
  rw [exec_mfs_low s d 8 (by decide), hh, if_neg Bool.false_ne_true, if_pos rfl]
  rfl

theorem exec_mts_handler_high (s : State) (a : Reg) (n : Nat) (hh : s.cord.id.handler = true) (h48 : 48 ≤ n) (hn : n < 64) :
    exec (.mts a (BitVec.ofNat 6 n)) s = .next (advance (writeSupervisor n (reg s a) s)) := by
  rw [exec_mts_high s a n h48 hn, if_pos hh]

theorem exec_mts_cord (s : State) (a : Reg) (n : Nat) (hh : s.cord.id.handler = false) (hn : n < 30) :
    exec (.mts a (BitVec.ofNat 6 n)) s = .next (advance (setCord (writeSpecial n (reg s a)) s)) := by
  rw [exec_mts_low s a n hn, hh, if_neg Bool.false_ne_true]

/-- Every MTS of the handler but those of 48, 49 and 51 is ignored where it is legal. -/
theorem exec_mts_handler_ignored (s : State) (a : Reg) (n : Nat) (hh : s.cord.id.handler = true) (hn : n < 30 ∨ n = 50 ∨ (52 ≤ n ∧ n < 64)) :
    exec (.mts a (BitVec.ofNat 6 n)) s = .next (advance s) := by
  rcases hn with hlow | hhigh
  · rw [exec_mts_low s a n hlow, if_pos hh]
  · rw [exec_mts_handler_high s a n hh (by omega) (by omega), writeSupervisor_readOnly _ _ _ (by omega) (by omega) (by omega)]

/-- A cord's MTS that changes no register is ignored. -/
theorem exec_mts_cord_ignored (s : State) (a : Reg) (n : Nat) (hh : s.cord.id.handler = false) (hn : n < 30) (hkeep : writeSpecial n (reg s a) s.cord = s.cord) :
    exec (.mts a (BitVec.ofNat 6 n)) s = .next (advance s) := by
  rw [exec_mts_cord s a n hh hn, setCord, hkeep]

/-- Settles O18, number by number: the handler through what it reads below 30 and from 48 and what it writes from 48, a cord through what it reads and writes below 30. -/
theorem specialRegistersComplete : Obligations.SpecialRegistersComplete := by
  intro s d a get log wrote
  refine ⟨fun hh => ?_, fun hh => ?_⟩
  · have low (n v) (hv : (if 4 ≤ n ∧ n ≤ 7 then placeReg s.fabric s.cord.id n else 0) = v) (hn : n < 30 := by decide) : get n v :=
      hv ▸ exec_mfs_handler_low s d n hh hn
    have high (n v) (hv : supervisorReg s n = v) (h48 : 48 ≤ n := by decide) (hn : n < 64 := by decide) : get n v :=
      hv ▸ exec_mfs_handler_high s d n hh h48 hn
    have write (n i) (hi : exec i s = .next (writeSupervisor n (reg s a) s)) (h48 : 48 ≤ n := by decide) (hn : n < 64 := by decide) : wrote n i :=
      ⟨_, hi, exec_mts_handler_high s a n hh h48 hn⟩
    exact ⟨high 48 _ rfl, high 49 _ rfl, high 50 _ rfl, fun n h51 hn => high n _ (supervisorReg_reserved s n h51) (by omega) hn,
      fun n hn hout => low n _ (if_neg (by omega)) hn,
      low 4 _ (placeReg_core s.fabric _), low 5 _ (placeReg_cluster s.fabric _), low 6 _ (placeReg_die s.fabric _), low 7 _ rfl,
      write 48 _ rfl, write 49 _ rfl, write 51 _ rfl, fun n hn => exec_mts_handler_ignored s a n hh hn⟩
  · have read (n v) (hv : specialOf s.fabric s.cord n = v) (hn : n < 30 := by decide) (h8 : n ≠ 8 := by decide) : get n v :=
      hv ▸ exec_mfs_cord s d n hh hn h8
    exact ⟨read 0 _ rfl, read 1 _ rfl, read 2 _ rfl, read 3 _ rfl,
      read 4 _ (placeReg_core s.fabric _), read 5 _ (placeReg_cluster s.fabric _), read 6 _ (placeReg_die s.fabric _), read 7 _ rfl, read 9 _ rfl,
      fun n hn => read (10 + n) _ (specialOf_path _ _ n hn) (by omega) (by omega), read 16 _ rfl,
      read 17 _ rfl, read 18 _ rfl, read 19 _ rfl, fun k hk => read (20 + k) _ (specialOf_trapLanes _ _ k hk) (by omega) (by omega),
      read 23 _ rfl, read 24 _ rfl, read 25 _ rfl, read 26 _ rfl, read 27 _ rfl, read 29 _ rfl,
      ⟨_, exec_mfs_cycles s d hh, rfl, rfl, fun _ => rfl⟩,
      ⟨_, exec_mts_cord s a 26 hh (by decide), lo_append _ _, hi_append _ _, rfl⟩,
      ⟨_, exec_mts_cord s a 27 hh (by decide), hi_append _ _, lo_append _ _, rfl⟩,
      fun hf => ⟨_, exec_mts_cord s a 19 hh (by decide), congrArg Cord.trap (writeSpecial_resume_handler _ _ hf)⟩,
      fun hf => exec_mts_cord_ignored s a 19 hh (by decide) (writeSpecial_resume_other _ _ hf),
      fun n hn h19 h26 h27 => exec_mts_cord_ignored s a n hh hn (writeSpecial_readOnly n _ _ h19 h26 h27)⟩

end Sys2Proof.Proofs
end
